-- ==== Sys2Proof/Word.lean ====
section
/-!
DEFINITION. The word types of the K96 and their plainest arithmetic: 32-bit registers and words, 64-bit pairs,
128-bit capabilities, lane masks (a team has at most 1,024 lanes, R89) and little-endian bytes.
-/
namespace Sys2Proof

abbrev Byte := BitVec 8
abbrev Word := BitVec 32
abbrev DWord := BitVec 64
/-- A capability register (R115). -/
abbrev Cap := BitVec 128
/-- One bit per lane (R89): bit `l` is lane `l`, so mask word `i` is bits 32i to 32i+31 (R92). -/
abbrev LaneMask := BitVec 1024
/-- A value of one host-physical address (R12: 40 bits). -/
abbrev Pa := BitVec 40
/-- An 8-bit register specifier, decoded in the space of its class (R238). -/
abbrev Spec := BitVec 8

/-- Bits `hi` down to `lo` of a number, as a number. -/
def bits (x hi lo : Nat) : Nat := (x >>> lo) % 2 ^ (hi + 1 - lo)

/-- Bit `i` of a number. -/
def bit (x i : Nat) : Bool := x.testBit i

/-- One bit of a number, as a number. -/
def b2n (b : Bool) : Nat := if b then 1 else 0

/-- The number of bits that a number needs (0 for 0). -/
def bitLen (x : Nat) : Nat := if x = 0 then 0 else Nat.log2 x + 1

/-- Smallest multiple of `k` at or above `x`. -/
def alignUp (x k : Nat) : Nat := if k = 0 then x else (x + k - 1) / k * k

/-- Quotient rounded up. -/
def ceilDiv (x k : Nat) : Nat := (x + k - 1) / k

/-- The little-endian bytes of a number. -/
def leBytes : Nat → Nat → List Byte
  | 0, _ => []
  | n + 1, x => BitVec.ofNat 8 x :: leBytes n (x / 256)

/-- The number that little-endian bytes hold. -/
def leNat : List Byte → Nat
  | [] => 0
  | b :: bs => b.toNat + 256 * leNat bs

/-- The integer that an unsigned number of width `w` holds as two's complement. -/
def toSigned (w x : Nat) : Int := if x < 2 ^ (w - 1) then Int.ofNat x else Int.ofNat x - Int.ofNat (2 ^ w)

/-- Two's complement of width `w` of an integer. -/
def ofSigned (w : Nat) (x : Int) : Nat := (x % Int.ofNat (2 ^ w)).toNat

/-- Replace entry `i` of a list by a function of its old value; nothing where there is no entry. -/
def modifyAt {α : Type} : List α → Nat → (α → α) → List α
  | [], _, _ => []
  | x :: xs, 0, f => f x :: xs
  | x :: xs, i + 1, f => x :: modifyAt xs i f

/-- Map with the position. -/
def mapAt {α β : Type} (f : Nat → α → β) : Nat → List α → List β
  | _, [] => []
  | i, x :: xs => f i x :: mapAt f (i + 1) xs

/-- The first position whose entry satisfies a test. -/
def indexWhere {α : Type} (p : α → Bool) : List α → Option Nat
  | [] => none
  | x :: xs => if p x then some 0 else (indexWhere p xs).map (· + 1)

end Sys2Proof
end

