-- ==== Sys2Proof/Syntax.lean ====
section
/-!
DEFINITION. The one inductive of the K96's steps: a constructor for every row of spec/opcode_table.json. Team
instructions carry the operands of their words (R232-R243), Xgnd instructions those of R54, and a step with no
encoding carries what the outside world or the unit supplies (addresses, values, indexes).
-/
namespace Sys2Proof

/-- An operand of the classes V, A or S, or the immediate of SIG 011 (R237, R239). -/
inductive Opd where
  | v (r : Spec)
  | a (r : Spec)
  | s (r : Spec)
  | imm (n : Byte)
  deriving DecidableEq, Repr

/-- A predicate term of a guard: an index and whether it is negated (R234, R240). -/
structure PTerm where
  neg : Bool
  idx : BitVec 3
  deriving DecidableEq, Repr

/-- A guard: GOP and the terms that it uses (R234, R240). -/
inductive Guard where
  | always
  | one (t : PTerm)
  | both (t u : PTerm)
  | either (t u : PTerm)
  deriving DecidableEq, Repr

/-- Every step of the table. The first argument `b` of a team instruction is its run-boundary bit (R233). -/
inductive Instr where
  /-- COLD_RESET (R26): A cold reset reinitialises the whole package, clears the flight log and runs the boot chain. -/
  | coldReset
  /-- WARM_RESET (R26): A warm reset, from an uncorrectable error in a partition-0 frame, an accepted recovery image or a debug-port request, reinitialises everything except the always-on domain and runs the boot chain. -/
  | warmReset (cause : Byte)
  /-- FREEZE (R28): Assertion of the FREEZE pin logs an entry, puts GDDR7 into self-refresh, drops the Ethernet links and stops every clock within 8 clk. -/
  | freeze (on : Bool)
  /-- BOOT_RECOVER (R45): A write of a candidate image address in recovery makes the ROM verify it, then program it and warm-reset, or set BOOT.STAT to 2. -/
  | bootRecover (addr : Nat)
  /-- BOOT_SVCSET (R44): A write of n blows security-version fuses until SVC equals n, unless n is below SVC or above the running firmware's version. -/
  | bootSvcset (n : Nat)
  /-- ECC_REGFILE (R178): An uncorrectable error in a register file, stack, line, weight buffer or scratchpad raises a kill-class machine check on every partition holding data in the entry. -/
  | eccRegfile (core : Nat) (arr : Byte) (parts : List Nat)
  /-- PATROL_SCRUB (R8): The patrol scrubber reads memory on its 12-hour cycle, correcting and writing back correctable errors and raising a machine check on uncorrectable ones. -/
  | patrolScrub (addr kind : Nat)
  /-- MC_CECNT_CLEAR (R9): Any write to MC.CECNT of a channel clears its corrected-error count. -/
  | mcCecntClear (c : Nat)
  /-- MC_UECNT_CLEAR (R9): Any write to MC.UECNT of a channel clears its uncorrectable-error count. -/
  | mcUecntClear (c : Nat)
  /-- HOST_ACCESS (R13): A host hart's load or store to GDDR7 enters the owning home slice as an owned request, recalling or forwarding as the registry requires. -/
  | hostAccess (hart : Nat) (write : Bool) (addr size : Nat) (data : DWord)
  /-- HOST_COHERENCE_TIMEOUT (R13): A forwarded host read that gets no reply within 10 us is completed from the home copy, raises a notice on the owning partition and is logged. -/
  | hostCoherenceTimeout (addr size : Nat)
  /-- LINK_UP (R31): An Ethernet port's link comes up, setting LINK and adding a flight-log entry. -/
  | linkUp (port : Nat)
  /-- LINK_DOWN (R31): An Ethernet port's link goes down, clearing LINK and adding a flight-log entry. -/
  | linkDown (port : Nat)
  /-- ETH_FRAME_RECEIVE (R19): A received frame that passes the MAC checks is matched against the stream filters in order, metered and delivered or dropped with counts. -/
  | ethFrameReceive (port : Nat) (frame : List Byte) (crcOk : Bool)
  /-- TX_RING_POLL (R22): The TSN engine reads TXWR with acquire at window openings, after writes to its line and at least every 10 us, skipping slots that cannot be sent. -/
  | txRingPoll (p st : Nat)
  /-- TX_FRAME_START (R18): A queued frame starts once its gate and window allow it to finish in time and the device time has reached its LAUNCH. -/
  | txFrameStart (p st : Nat)
  /-- TX_FRAME_SENT (R22): After a frame's last byte the engine advances TXRD as a release and makes an arrival at TXMBX if TXMEN is set. -/
  | txFrameSent (port : Nat)
  /-- GATE_ENTRY_CHANGE (R18): The operational gate-control list moves to its next entry or cycle start, opening and closing gates and pre-empting preemptable frames at a close. -/
  | gateEntryChange (port : Nat)
  /-- GCTL_SWAP (R18): A GCTL write with SWAP set sets PENDING so that the administrative list is installed at a later cycle start. -/
  | gctlSwap (port : Nat) (value : DWord)
  /-- GATE_LIST_SWAP (R18): At the first cycle start at least 2 us after the swap request, the administrative list, GCYCLE and GBASE become operational and PENDING clears. -/
  | gateListSwap (port : Nat)
  /-- STREAM_FILTER_CLEAR (R19): A write to bytes 0x18-0x1F of a stream filter clears its MATCHES and DROPS counts. -/
  | streamFilterClear (f word : Nat)
  /-- STREAM_ENTRY_WRITE (R20): A stream table entry write changes its fields, refusing changes to live fields and resetting RXWR, DROP, TXRD and SKIP when RXEN or TXEN is set. -/
  | streamEntryWrite (p st word : Nat) (value : DWord)
  /-- ETH_TIME_WRITE (R23): A write to ETH.TIME sets the disciplining port and SYNC, with a SRC change taking effect at the new port's next synchronisation interval and being logged. -/
  | ethTimeWrite (value : DWord)
  /-- DEVICE_TIME_SYNC (R23): At a synchronisation of the SRC port's 802.1AS instance the device adjusts the device time's rate and offset, slewing backward corrections and stepping large forward ones. -/
  | deviceTimeSync (ns : DWord)
  /-- FLIPHND_WRITE (R25): A write to FLIPHND of a display block holds the handle of the next frame object. -/
  | flipHndWrite (p o : Nat) (value : Word)
  /-- FLIPOFF_WRITE (R25): A write to FLIPOFF holds the next frame offset and sets FLIP pending. -/
  | flipOffWrite (p o : Nat) (value : DWord)
  /-- DISPLAY_VBLANK (R25): At the start of a vertical blank the output applies new DBIND, DGEOM and DBASE values and checks any pending flip. -/
  | displayVblank (o : Nat)
  /-- SCANOUT_REFRESH (R24): Each refresh reads the bound frame in raster order through the partition's tables with an acquire, producing black pixels and SCANERR for failed reads. -/
  | scanoutRefresh (o : Nat)
  /-- DSTAT_READ (R24): A read of DSTAT returns its status and clears the sticky REJECT and SCANERR bits. -/
  | dstatRead (o : Nat)
  /-- REGISTER_WRITE (R33): A write to a register without behaviour of its own updates its writable fields under the register's access and state rules, or is ignored. -/
  | registerWrite (addr : Nat) (value : DWord)
  /-- CLAIM (R37): Table-port command CLAIM clears a FREE partition's descriptor and makes it CONFIGURED. -/
  | claim
  /-- ACTIVATE (R38): Table-port command ACTIVATE validates a CONFIGURED partition's descriptor and makes it RUNNABLE, arming its queues, mailboxes and streams. -/
  | activate
  /-- RETIRE (R40): Table-port command RETIRE stops queue fetch, kills the partition's teams, performs the RESET clean-up and makes it CONFIGURED. -/
  | retire
  /-- RESET (R40): Table-port command RESET kills a RUNNABLE partition's teams, invalidates and clears its caches, shelves, queues, wakes and envelope map, and makes it CONFIGURED. -/
  | reset
  /-- RELEASE (R37): Table-port command RELEASE clears a CONFIGURED partition's descriptor and makes it FREE. -/
  | release
  /-- SETHANDLE (R37): Table-port command SETHANDLE writes a valid, unrevoked handle-table entry and completes once stale cached copies are gone. -/
  | setHandle
  /-- REVOKE (R39): Table-port command REVOKE sets a handle's REVOKED bit and completes within 20 us once no access through the old entry can still perform. -/
  | revoke
  /-- SETDESC (R37): Table-port command SETDESC copies a 32-byte descriptor image into the object table, resetting tile rounds and detaching a round region. -/
  | setDesc
  /-- SETFRAME (R37): Table-port command SETFRAME writes a frame-array entry and adjusts GUSED, failing with QUOTA_MEMORY past GQUOTA. -/
  | setFrame
  /-- ATTEST (R48): Table-port command ATTEST writes a signed 1,312-byte attestation report for the partition into the named buffer. -/
  | attest
  /-- TBL_STAT_READ (R36): A read of TBL.STAT returns BUSY and the result and clears DROP. -/
  | tblStatRead
  /-- QWR_WRITE (R57): A write to a queue's wake word sets the write index and signals the gondola, or is discarded with BADWR. -/
  | qwrWrite (p q : Nat) (value : DWord)
  /-- QRETRY_WRITE (R66): A write to QRETRY of a parked queue signals the gondola to resume the queue at QRD. -/
  | qretryWrite (p q : Nat)
  /-- QCTL_WRITE (R56): A QCTL write sets SIZE and HND while disabled, and enabling resets QRD, QWR and BADWR while disabling stops fetch after the packet in progress. -/
  | qctlWrite (p q : Nat) (value : DWord)
  /-- MBOX_WRITE (R69): A write to MBOX makes one arrival at the mailbox. -/
  | mboxWrite (p m : Nat)
  /-- APERTURE_WAKE (R70): Within 2 us of a write while the aperture is gated, the aperture wakes and delivers a signal for each set pending bit, clearing it. -/
  | apertureWake
  /-- GONDOLA_TIMER (R55): The gondola timer expires and sets signal kind 4 pending. -/
  | gondolaTimer (core : Nat)
  /-- NOP_PACKET (R60): A NOP packet completes at start with no effect. -/
  | nopPacket (p q : Nat)
  /-- LAUNCH (R64): A LAUNCH packet's record is translated and validated and offered to the queue's dispatch slot. -/
  | launch (p q : Nat)
  /-- LAUNCH_COMPLETE (R60): A LAUNCH completes when every team of the launch has retired and its stores have performed. -/
  | launchComplete (id : Nat)
  /-- SIGNAL_STORE (R61): A SIGNAL packet with OP 0 releases and stores the value into the word, with an optional mailbox arrival. -/
  | signalStore (p q : Nat)
  /-- SIGNAL_ADD (R61): A SIGNAL packet with OP 1 releases and adds the value to the word modulo 2^64, with an optional mailbox arrival. -/
  | signalAdd (p q : Nat)
  /-- WAIT (R61): A WAIT packet reads a word and completes with an acquire once it meets COND, otherwise the queue shows WAITING. -/
  | wait (p q : Nat)
  /-- WAIT_REREAD (R61): An unmet WAIT's word is re-read, translated afresh, after writes to its page and at least every 1 us, completing or parking. -/
  | waitReread (p q : Nat)
  /-- COPY_PACKET (R60): A COPY packet copies bytes from its source location to its destination location through the copy engine. -/
  | copyPacket (p q : Nat)
  /-- COPY_PACKET_COMPLETE (R61): A COPY packet completes with a release once its last byte is written. -/
  | copyPacketComplete (p q : Nat)
  /-- REPLAY_BY_PAGE (R174): A REPLAY packet of KIND 0 wakes every wait-table entry, evicted team and parked queue of the partition keyed by the named handle and page. -/
  | replayByPage (p q : Nat)
  /-- REPLAY_BY_TOKEN (R174): A REPLAY packet of KIND 1 wakes the entry, evicted team or parked queue holding the named token. -/
  | replayByToken (p q : Nat)
  /-- ENVELOPE_LOAD (R62): An ENVELOPE load verifies the image, stores it and places its digest at the map entry, or raises ISL_ENVELOPE_SIG or ISL_RESOURCE. -/
  | envelopeLoad (p q : Nat)
  /-- ENVELOPE_DROP (R62): An ENVELOPE drop marks the map entry drop pending and waits for the partition's launches that require it. -/
  | envelopeDrop (p q : Nat)
  /-- ENVELOPE_DROP_COMPLETE (R62): Once every launch requiring the entry has completed, the drop empties the map entry. -/
  | envelopeDropComplete (p q : Nat)
  /-- PIN (R132): A PIN packet makes every line of the range resident and pinned in the partition's shelves, or parks with PIN_QUOTA or OBJ_CEILING. -/
  | pin (p q : Nat)
  /-- UNPIN (R132): An unpin PIN packet returns the range's pinned lines to their class. -/
  | unpin (p q : Nat)
  /-- FENCE_PACKET (R61): A FENCE packet waits for earlier packets of its queue and started packets of masked queues to complete, then releases and acquires. -/
  | fencePacket (p q : Nat)
  /-- TIMESTAMP (R60): A TIMESTAMP packet releases and writes the device time into the word. -/
  | timestamp (p q : Nat)
  /-- TETHER_BIND (R68): A TETHER bind validates and copies a launch record and binds it to the mailbox. -/
  | tetherBind (p q : Nat)
  /-- TETHER_UNBIND (R68): A TETHER unbind clears BOUND and leaves MBCNT unchanged. -/
  | tetherUnbind (p q : Nat)
  /-- MAILBOX_HANDLER_LAUNCH (R69): While a mailbox is bound with pending arrivals, a one-neighbourhood handler launch is offered and MBCNT decreases when it is accepted. -/
  | mailboxHandlerLaunch (p m : Nat)
  /-- RFETCH (R55): Gondola RFETCH reads the packet at QRD of a queue into the packet buffer and returns word 0, or 0 when the ring is empty. -/
  | rfetch (rd rs : BitVec 5)
  /-- BFX (R55): Gondola BFX extracts a zero-extended bit field of a register. -/
  | bfx (rd rs pos len1 : BitVec 5)
  /-- SIGW (R55): Gondola SIGW waits for a pending signal source of a selected kind and returns and clears the lowest one. -/
  | sigw (rd rs : BitVec 5)
  /-- DSPT (R55): Gondola DSPT offers the LAUNCH in the packet buffer to the dispatcher for a queue. -/
  | dspt (rd rs : BitVec 5)
  /-- QPARK (R55): Gondola QPARK parks a queue with a cause and submits a queue fault record. -/
  | qpark (rs rt : BitVec 5)
  /-- QWAKE (R55): Gondola QWAKE sets a parked queue RUNNING and signals it. -/
  | qwake (rs : BitVec 5)
  /-- PLACE_NEIGHBOURHOOD (R79): The dispatcher picks the next work by class and deficit and searches the allotment for qualifying cores, reserving them and requesting the start. -/
  | placeNeighbourhood
  /-- STARVATION_PROMOTE (R75): A class timer reaching STARVE promotes its class until one of its neighbourhoods starts. -/
  | starvationPromote (c : Nat)
  /-- WINCH_WINDOW (R81): At each 256-clk window each row's start budget is refilled from CAP, carrying debt. -/
  | winchWindow (y : Nat)
  /-- WINCH_WRITE (R81): A gondola write to DSP.WINCH sets FALL, RISE and STEP, clamping CAP to a lower STEP. -/
  | winchWrite (y : Nat) (value : DWord)
  /-- NEIGHBOURHOOD_START (R80): When the winch grants the start and reloads have finished, every team of the neighbourhood starts or is restored in the same clk. -/
  | neighbourhoodStart (id : Nat)
  /-- ENVELOPE_RELOAD (R187): A slot reload copies the verified envelope payload into the slot and resets its register space within 2 us. -/
  | envelopeReload (core slot : Nat)
  /-- SLICE_OUT (R83): When a return-list head cannot be placed, the dispatcher slices out the neighbourhoods resident for at least TS that hold a freeable rectangle. -/
  | sliceOut (p : Nat)
  /-- PARTITION_SWITCH (R86): The gondola halts, saves and writes back the outgoing partition's scope and restores and reloads the incoming partition's state. -/
  | partitionSwitch (p : Nat) (scope : List Nat)
  /-- RUN_START (R95): A free issue port starts the run of the eligible team of the highest class that started earliest, delivering any pending async trap first. -/
  | runStart (team : Nat)
  /-- FORCED_BOUNDARY (R94): A run reaching its 24th instruction is forced to end and FORCED counts it. -/
  | forcedBoundary (team : Nat)
  /-- TEAM_RETIRE (R110): A team whose launched mask is empty frees its slot once its stores, copies and island requests have performed or been delivered. -/
  | teamRetire (team : Nat)
  /-- TEAM_WATCHDOG (R166): A run not ended within 2^24 clk of its start raises TEAM_WATCHDOG. -/
  | teamWatchdog (team : Nat)
  /-- L1_WAY_ADJUST (R128): Every 65,536 clk the core adds or removes one L1 way from its sampling counts. -/
  | l1WayAdjust (core : Nat)
  /-- STORE_DRAIN (R149): A store-queue entry drains to its L1 and home according to its request type. -/
  | storeDrain (team idx : Nat)
  /-- LOAD_PERFORM (R149): A pending load performs from the store queue, the L1 or a fetch of the home value. -/
  | loadPerform (team idx : Nat)
  /-- ATOMIC_PERFORM (R149): An atomic performs an indivisible read-modify-write of the home value or an owned L1 word. -/
  | atomicPerform (team idx : Nat)
  /-- L1_DROP (R149): A valid L1 word is invalidated or an owned word is written back and released. -/
  | l1Drop (core addr : Nat)
  /-- REGISTRY_RECALL (R136): A full ownership registry recalls the words of its oldest entry. -/
  | registryRecall (addr : Nat)
  /-- RREL_PERFORM (R140): Once the team's earlier stores have performed, RREL increments the tile round and pushes the tile's halo strips. -/
  | rrelPerform (team idx : Nat)
  /-- STALE_TIMEOUT (R143): A bounded-load wait that passes 2^21 clk without its bound being met raises STALE_TIMEOUT. -/
  | staleTimeout (team : Nat)
  /-- FAULT_BATCH_CLOSE (R172): A batch closes 2 us after opening or at 32 entries and is posted as a KIND 2 header and KIND 1 records. -/
  | faultBatchClose (core : Nat)
  /-- FAULT_RECORD_POST (R172): A record or batch waiting for room in the fault queue is written once FQ.RD moves. -/
  | faultRecordPost (p : Nat)
  /-- PARK_LIMIT_EVICT (R175): A team parked for PARKLIM is evicted to a save frame, freeing its slot and posting a KIND 6 record. -/
  | parkLimitEvict (team : Nat)
  /-- EVICTED_TEAM_RETURN (R175): An evicted team named by a REPLAY returns to its own core through the winch into the first freed slot. -/
  | evictedTeamReturn (p : Nat)
  /-- ENGINE_PARK_ENTRY_GRANT (R176): An engine or island operation waiting for a wait-table entry obtains one in request order and parks under it. -/
  | engineParkEntryGrant (core queue : Nat)
  /-- ENGINE_PERFORM (R153): The oldest entry of an engine queue performs a CPY, CPYT or CPYM once its submission conditions hold. -/
  | enginePerform (core : Nat)
  /-- COPY_COMPLETION (R340): A copy's completion decrements its tag, adds to its completion word and makes any mailbox arrival, as one release. -/
  | copyCompletion (core : Nat)
  /-- WBLD_PERFORM (R357): A WBLD entry reads its tiles and writes them into consecutive weight-buffer units. -/
  | wbldPerform (core : Nat)
  /-- WBGTH_PERFORM (R358): A WBGTH entry gathers one tile from a CSR matrix into the weight buffer. -/
  | wbgthPerform (core : Nat)
  /-- BIND (R190): An island BIND request sets binding Bb to the ISEND's capability. -/
  | bind (core slot : Nat)
  /-- REGW (R190): An island REGW request writes a contract register. -/
  | regw (core slot : Nat)
  /-- TEXF_BILINEAR (R197): A TEXF KIND 1 request filters bilinearly at level 0. -/
  | texfBilinear (core slot : Nat)
  /-- TEXF_TRILINEAR (R197): A TEXF KIND 2 request filters trilinearly by lod. -/
  | texfTrilinear (core slot : Nat)
  /-- TEXF_ANISOTROPIC (R197): A TEXF KIND 3 request averages N trilinear taps along the derivative. -/
  | texfAnisotropic (core slot : Nat)
  /-- RAST_TRIANGLE (R201): A RAST request accepts a triangle record and rasterises it into covered quads. -/
  | rastTriangle (core slot : Nat)
  /-- RAST_PIXEL_TEAM_OFFER (R202): RAST offers each pixel team of quads to the dispatcher as a one-neighbourhood launch. -/
  | rastPixelTeamOffer (core slot : Nat)
  /-- TRAV_CLOSEST_HIT (R207): A TRAV KIND 1 request traverses the tree keeping the nearest hit. -/
  | travClosestHit (core slot : Nat)
  /-- TRAV_ANY_HIT (R207): A TRAV KIND 2 request traverses the tree until its first hit. -/
  | travAnyHit (core slot : Nat)
  /-- TRAV_KEY_LOOKUP (R207): A TRAV KIND 3 request follows key tests to a key leaf. -/
  | travKeyLookup (core slot : Nat)
  /-- SPLAT_COMPOSITE (R209): A SPLAT request sorts its tile list and composites Gaussians front to back for a pixel. -/
  | splatComposite (core slot : Nat)
  /-- BLND_BLEND (R211): A BLND KIND 1 request blends a source colour into a target pixel. -/
  | blndBlend (core slot : Nat)
  /-- BLND_RESOLVE (R211): A BLND KIND 2 request writes the average of four samples. -/
  | blndResolve (core slot : Nat)
  /-- TITLE_REQUEST (R212): A title envelope request is processed as the title contract defines, through its bindings. -/
  | titleRequest (core slot : Nat)
  /-- ISLAND_ENTRY_WRITE (R192): An island request's result words are written into the owed line entries, waking sleeping readers and completing the tag when all are written. -/
  | islandEntryWrite (core slot : Nat)
  /-- ISL_HANG (R212): An island exceeding HANGBOUND by 2^20 clk has its owed entries nulled, its teams trapped and its slot reloaded. -/
  | islHang (core slot : Nat)
  /-- WAITW_REREAD (R348): A sleeping WAITW rereads its word after writes to its line and every 2,600 clk, returning with an acquire when the condition holds. -/
  | waitwReread (team : Nat)
  /-- WAIT_TIMEOUT (R349): WAITT or WAITW sleeping 2^25 clk raises WAIT_TIMEOUT. -/
  | waitTimeout (team : Nat)
  /-- SMOV_32 (R274): SMOV copies a uniform register. -/
  | smov32 (b : Bool) (d x : Spec)
  /-- SMOV_64 (R274): SMOV copies a uniform register or sign-extended IMM8, with a Q guard. -/
  | smov64 (b : Bool) (g : Guard) (d : Spec) (x : Opd)
  /-- SADD_32 (R274): SADD adds uniform values. -/
  | sadd32 (b : Bool) (d y : Spec)
  /-- SADD_64 (R274): SADD adds two uniform sources into a destination. -/
  | sadd64 (b : Bool) (g : Guard) (d x y : Spec)
  /-- SSUB_32 (R274): SSUB subtracts uniform values. -/
  | ssub32 (b : Bool) (d y : Spec)
  /-- SSUB_64 (R274): SSUB subtracts two uniform sources. -/
  | ssub64 (b : Bool) (g : Guard) (d x y : Spec)
  /-- SMUL_32 (R274): SMUL gives the low 32 bits of a uniform product. -/
  | smul32 (b : Bool) (d y : Spec)
  /-- SMUL_64 (R274): SMUL gives the low 32 bits of a uniform product. -/
  | smul64 (b : Bool) (g : Guard) (d x y : Spec)
  /-- SMULH_32 (R274): SMULH gives the high 32 bits of a signed uniform product. -/
  | smulh32 (b : Bool) (d y : Spec)
  /-- SMULH_64 (R274): SMULH gives the high 32 bits of a signed uniform product. -/
  | smulh64 (b : Bool) (g : Guard) (d x y : Spec)
  /-- SMULHU_32 (R274): SMULHU gives the high 32 bits of an unsigned uniform product. -/
  | smulhu32 (b : Bool) (d y : Spec)
  /-- SMULHU_64 (R274): SMULHU gives the high 32 bits of an unsigned uniform product. -/
  | smulhu64 (b : Bool) (g : Guard) (d x y : Spec)
  /-- SAND_32 (R274): SAND is a uniform bitwise AND. -/
  | sand32 (b : Bool) (d y : Spec)
  /-- SAND_64 (R274): SAND is a uniform bitwise AND. -/
  | sand64 (b : Bool) (g : Guard) (d x y : Spec)
  /-- SOR_32 (R274): SOR is a uniform bitwise OR. -/
  | sor32 (b : Bool) (d y : Spec)
  /-- SOR_64 (R274): SOR is a uniform bitwise OR. -/
  | sor64 (b : Bool) (g : Guard) (d x y : Spec)
  /-- SXOR_32 (R274): SXOR is a uniform bitwise XOR. -/
  | sxor32 (b : Bool) (d y : Spec)
  /-- SXOR_64 (R274): SXOR is a uniform bitwise XOR. -/
  | sxor64 (b : Bool) (g : Guard) (d x y : Spec)
  /-- SANDN_32 (R274): SANDN is a uniform AND with the complement of the second source. -/
  | sandn32 (b : Bool) (d y : Spec)
  /-- SANDN_64 (R274): SANDN is a uniform AND with the complement of the second source. -/
  | sandn64 (b : Bool) (g : Guard) (d x y : Spec)
  /-- SNOT_32 (R274): SNOT complements a uniform value. -/
  | snot32 (b : Bool) (d x : Spec)
  /-- SNOT_64 (R274): SNOT complements a uniform value. -/
  | snot64 (b : Bool) (g : Guard) (d x : Spec)
  /-- SSHL_32 (R274): SSHL shifts a uniform value left. -/
  | sshl32 (b : Bool) (d y : Spec)
  /-- SSHL_64 (R274): SSHL shifts a uniform value left. -/
  | sshl64 (b : Bool) (g : Guard) (d x y : Spec)
  /-- SSHR_32 (R274): SSHR shifts a uniform value right with zero fill. -/
  | sshr32 (b : Bool) (d y : Spec)
  /-- SSHR_64 (R274): SSHR shifts a uniform value right with zero fill. -/
  | sshr64 (b : Bool) (g : Guard) (d x y : Spec)
  /-- SSAR_32 (R274): SSAR shifts a uniform value right with sign fill. -/
  | ssar32 (b : Bool) (d y : Spec)
  /-- SSAR_64 (R274): SSAR shifts a uniform value right with sign fill. -/
  | ssar64 (b : Bool) (g : Guard) (d x y : Spec)
  /-- SMIN_32 (R274): SMIN gives the signed minimum of uniform values. -/
  | smin32 (b : Bool) (d y : Spec)
  /-- SMIN_64 (R274): SMIN gives the signed minimum of uniform values. -/
  | smin64 (b : Bool) (g : Guard) (d x y : Spec)
  /-- SMAX_32 (R274): SMAX gives the signed maximum of uniform values. -/
  | smax32 (b : Bool) (d y : Spec)
  /-- SMAX_64 (R274): SMAX gives the signed maximum of uniform values. -/
  | smax64 (b : Bool) (g : Guard) (d x y : Spec)
  /-- SMINU_32 (R274): SMINU gives the unsigned minimum of uniform values. -/
  | sminu32 (b : Bool) (d y : Spec)
  /-- SMINU_64 (R274): SMINU gives the unsigned minimum of uniform values. -/
  | sminu64 (b : Bool) (g : Guard) (d x y : Spec)
  /-- SMAXU_32 (R274): SMAXU gives the unsigned maximum of uniform values. -/
  | smaxu32 (b : Bool) (d y : Spec)
  /-- SMAXU_64 (R274): SMAXU gives the unsigned maximum of uniform values. -/
  | smaxu64 (b : Bool) (g : Guard) (d x y : Spec)
  /-- SCMP (R276): SCMP sets a Q predicate from a comparison of uniform values. -/
  | scmp (b : Bool) (g : Guard) (cc d : BitVec 3) (x y : Spec)
  /-- SSEL (R276): SSEL selects one of two uniform values by a Q predicate. -/
  | ssel (b : Bool) (g : Guard) (d x y : Spec) (c : BitVec 3)
  /-- SLDC_W32 (R277): SLDC.W32 loads a 32-bit constant from the code image. -/
  | sldcW32 (b : Bool) (g : Guard) (d x y : Spec)
  /-- SLDC_W64 (R277): SLDC.W64 loads a 64-bit constant from the code image into a uniform pair. -/
  | sldcW64 (b : Bool) (g : Guard) (d x y : Spec)
  /-- SBFX_32 (R274): SBFX extracts an unsigned bit field of a uniform value. -/
  | sbfx32 (b : Bool) (d y : Spec)
  /-- SBFX_64 (R274): SBFX extracts an unsigned bit field of a uniform value. -/
  | sbfx64 (b : Bool) (g : Guard) (d x y : Spec)
  /-- SBFI (R274): SBFI inserts a bit field into a uniform value. -/
  | sbfi (b : Bool) (g : Guard) (d x y z : Spec)
  /-- SPOPC_32 (R274): SPOPC counts the 1 bits of a uniform value. -/
  | spopc32 (b : Bool) (d x : Spec)
  /-- SPOPC_64 (R274): SPOPC counts the 1 bits of a uniform value. -/
  | spopc64 (b : Bool) (g : Guard) (d x : Spec)
  /-- SCLZ_32 (R274): SCLZ counts the leading zeros of a uniform value. -/
  | sclz32 (b : Bool) (d x : Spec)
  /-- SCLZ_64 (R274): SCLZ counts the leading zeros of a uniform value. -/
  | sclz64 (b : Bool) (g : Guard) (d x : Spec)
  /-- QAND_32 (R276): QAND ANDs Q predicates. -/
  | qand32 (b : Bool) (d y : BitVec 3)
  /-- QAND_64 (R276): QAND ANDs Q predicates. -/
  | qand64 (b : Bool) (g : Guard) (d x y : BitVec 3)
  /-- QOR_32 (R276): QOR ORs Q predicates. -/
  | qor32 (b : Bool) (d y : BitVec 3)
  /-- QOR_64 (R276): QOR ORs Q predicates. -/
  | qor64 (b : Bool) (g : Guard) (d x y : BitVec 3)
  /-- QXOR_32 (R276): QXOR XORs Q predicates. -/
  | qxor32 (b : Bool) (d y : BitVec 3)
  /-- QXOR_64 (R276): QXOR XORs Q predicates. -/
  | qxor64 (b : Bool) (g : Guard) (d x y : BitVec 3)
  /-- QNOT_32 (R276): QNOT complements a Q predicate. -/
  | qnot32 (b : Bool) (d x : BitVec 3)
  /-- QNOT_64 (R276): QNOT complements a Q predicate. -/
  | qnot64 (b : Bool) (g : Guard) (d x : BitVec 3)
  /-- AMOV_S (R278): AMOV.S sets an affine register from a uniform pair. -/
  | amovS (b : Bool) (g : Guard) (d x : Spec)
  /-- AMOV_IMM (R278): AMOV.IMM sets an affine register to a constant with stride 0. -/
  | amovImm (b : Bool) (g : Guard) (d n : Spec)
  /-- AMOV_LANE (R278): AMOV.LANE sets an affine register to base 0, stride 1. -/
  | amovLane (b : Bool) (d : Spec)
  /-- AMOV_32 (R278): AMOV copies an affine register. -/
  | amov32 (b : Bool) (d x : Spec)
  /-- AMOV_64 (R278): AMOV copies an affine register, with a Q guard. -/
  | amov64 (b : Bool) (g : Guard) (d x : Spec)
  /-- AADD_32 (R279): AADD adds affine registers. -/
  | aadd32 (b : Bool) (d y : Spec)
  /-- AADD_64 (R279): AADD adds an affine register and an affine or uniform value. -/
  | aadd64 (b : Bool) (g : Guard) (d : Spec) (x y : Opd)
  /-- ASUB_32 (R279): ASUB subtracts affine registers. -/
  | asub32 (b : Bool) (d y : Spec)
  /-- ASUB_64 (R279): ASUB subtracts an affine or uniform value from an affine register. -/
  | asub64 (b : Bool) (g : Guard) (d : Spec) (x y : Opd)
  /-- AMUL (R279): AMUL multiplies an affine register by a uniform value. -/
  | amul (b : Bool) (g : Guard) (d x y : Spec)
  /-- ASHL (R279): ASHL shifts an affine register left by a uniform count. -/
  | ashl (b : Bool) (g : Guard) (d x y : Spec)
  /-- PROMA (R279): PROMA builds an affine register from a uniform base and stride. -/
  | proma (b : Bool) (g : Guard) (d x y : Spec)
  /-- PROMV (R280): PROMV expands an affine register into a varying register. -/
  | promv (b : Bool) (g : Guard) (d y : Spec)
  /-- PROMB (R280): PROMB broadcasts a uniform value into a varying register. -/
  | promb (b : Bool) (g : Guard) (d y : Spec)
  /-- PROMP (R280): PROMP broadcasts a Q predicate into a P predicate. -/
  | promp (b : Bool) (g : Guard) (d x : BitVec 3)
  /-- RDFIRST (R281): RDFIRST writes a varying value at the lowest selected lane into a uniform register. -/
  | rdfirst (b : Bool) (g : Guard) (d x : Spec)
  /-- RDLAST (R281): RDLAST writes a varying value at the highest selected lane into a uniform register. -/
  | rdlast (b : Bool) (g : Guard) (d x : Spec)
  /-- RDLANE (R281): RDLANE writes a varying value at a named lane, or 0, into a uniform register. -/
  | rdlane (b : Bool) (g : Guard) (d x y : Spec)
  /-- CAPNAR (R282): CAPNAR derives a narrowed capability by offset and length. -/
  | capnar (b : Bool) (g : Guard) (d x y z : Spec)
  /-- CAPRST (R283): CAPRST derives a capability with fewer rights. -/
  | caprst (b : Bool) (g : Guard) (d x y : Spec)
  /-- CAPQRY_BASE (R284): CAPQRY.BASE reads a capability's base offset into a uniform pair. -/
  | capqryBase (b : Bool) (g : Guard) (d x : Spec)
  /-- CAPQRY_LEN (R284): CAPQRY.LEN reads a capability's length into a uniform pair. -/
  | capqryLen (b : Bool) (g : Guard) (d x : Spec)
  /-- CAPQRY_RIGHTS (R284): CAPQRY.RIGHTS reads a capability's rights into a uniform register. -/
  | capqryRights (b : Bool) (g : Guard) (d x : Spec)
  /-- IADD_32 (R285): IADD adds varying values per lane. -/
  | iadd32 (b : Bool) (d y : Spec)
  /-- IADD_64 (R285): IADD adds per lane, with optional saturation or overflow trap. -/
  | iadd64 (b : Bool) (g : Guard) (d : Spec) (x y : Opd) (m : BitVec 2)
  /-- ISUB_32 (R285): ISUB subtracts varying values per lane. -/
  | isub32 (b : Bool) (d y : Spec)
  /-- ISUB_64 (R285): ISUB subtracts per lane, with optional saturation or overflow trap. -/
  | isub64 (b : Bool) (g : Guard) (d : Spec) (x y : Opd) (m : BitVec 2)
  /-- IMUL_32 (R285): IMUL gives the low 32 bits of a per-lane product. -/
  | imul32 (b : Bool) (d y : Spec)
  /-- IMUL_64 (R285): IMUL gives the low 32 bits of a per-lane product, with optional MOD. -/
  | imul64 (b : Bool) (g : Guard) (d : Spec) (x y : Opd) (m : BitVec 2)
  /-- IMULH_32 (R285): IMULH gives the high 32 bits of a signed per-lane product. -/
  | imulh32 (b : Bool) (d y : Spec)
  /-- IMULH_64 (R285): IMULH gives the high 32 bits of a signed per-lane product. -/
  | imulh64 (b : Bool) (g : Guard) (d : Spec) (x y : Opd)
  /-- IMULHU_32 (R285): IMULHU gives the high 32 bits of an unsigned per-lane product. -/
  | imulhu32 (b : Bool) (d y : Spec)
  /-- IMULHU_64 (R285): IMULHU gives the high 32 bits of an unsigned per-lane product. -/
  | imulhu64 (b : Bool) (g : Guard) (d : Spec) (x y : Opd)
  /-- IMAD (R285): IMAD computes a times b plus c per lane. -/
  | imad (b : Bool) (g : Guard) (d : Spec) (x y : Opd) (z : Spec) (m : BitVec 2)
  /-- IMIN_32 (R285): IMIN gives the signed per-lane minimum. -/
  | imin32 (b : Bool) (d y : Spec)
  /-- IMIN_64 (R285): IMIN gives the signed per-lane minimum. -/
  | imin64 (b : Bool) (g : Guard) (d : Spec) (x y : Opd)
  /-- IMAX_32 (R285): IMAX gives the signed per-lane maximum. -/
  | imax32 (b : Bool) (d y : Spec)
  /-- IMAX_64 (R285): IMAX gives the signed per-lane maximum. -/
  | imax64 (b : Bool) (g : Guard) (d : Spec) (x y : Opd)
  /-- IMINU_32 (R285): IMINU gives the unsigned per-lane minimum. -/
  | iminu32 (b : Bool) (d y : Spec)
  /-- IMINU_64 (R285): IMINU gives the unsigned per-lane minimum. -/
  | iminu64 (b : Bool) (g : Guard) (d : Spec) (x y : Opd)
  /-- IMAXU_32 (R285): IMAXU gives the unsigned per-lane maximum. -/
  | imaxu32 (b : Bool) (d y : Spec)
  /-- IMAXU_64 (R285): IMAXU gives the unsigned per-lane maximum. -/
  | imaxu64 (b : Bool) (g : Guard) (d : Spec) (x y : Opd)
  /-- IAND_32 (R285): IAND is a per-lane bitwise AND. -/
  | iand32 (b : Bool) (d y : Spec)
  /-- IAND_64 (R285): IAND is a per-lane bitwise AND. -/
  | iand64 (b : Bool) (g : Guard) (d : Spec) (x y : Opd)
  /-- IOR_32 (R285): IOR is a per-lane bitwise OR. -/
  | ior32 (b : Bool) (d y : Spec)
  /-- IOR_64 (R285): IOR is a per-lane bitwise OR. -/
  | ior64 (b : Bool) (g : Guard) (d : Spec) (x y : Opd)
  /-- IXOR_32 (R285): IXOR is a per-lane bitwise XOR. -/
  | ixor32 (b : Bool) (d y : Spec)
  /-- IXOR_64 (R285): IXOR is a per-lane bitwise XOR. -/
  | ixor64 (b : Bool) (g : Guard) (d : Spec) (x y : Opd)
  /-- IANDN_32 (R285): IANDN ANDs with the complement of the second source per lane. -/
  | iandn32 (b : Bool) (d y : Spec)
  /-- IANDN_64 (R285): IANDN ANDs with the complement of the second source per lane. -/
  | iandn64 (b : Bool) (g : Guard) (d : Spec) (x y : Opd)
  /-- INOT_32 (R285): INOT complements each lane's value. -/
  | inot32 (b : Bool) (d x : Spec)
  /-- INOT_64 (R285): INOT complements each lane's value. -/
  | inot64 (b : Bool) (g : Guard) (d : Spec) (x : Opd)
  /-- ISHL_32 (R285): ISHL shifts each lane left. -/
  | ishl32 (b : Bool) (d y : Spec)
  /-- ISHL_64 (R285): ISHL shifts each lane left. -/
  | ishl64 (b : Bool) (g : Guard) (d : Spec) (x y : Opd)
  /-- ISHR_32 (R285): ISHR shifts each lane right with zero fill. -/
  | ishr32 (b : Bool) (d y : Spec)
  /-- ISHR_64 (R285): ISHR shifts each lane right with zero fill. -/
  | ishr64 (b : Bool) (g : Guard) (d : Spec) (x y : Opd)
  /-- ISAR_32 (R285): ISAR shifts each lane right with sign fill. -/
  | isar32 (b : Bool) (d y : Spec)
  /-- ISAR_64 (R285): ISAR shifts each lane right with sign fill. -/
  | isar64 (b : Bool) (g : Guard) (d : Spec) (x y : Opd)
  /-- IROT_32 (R285): IROT rotates each lane left. -/
  | irot32 (b : Bool) (d y : Spec)
  /-- IROT_64 (R285): IROT rotates each lane left. -/
  | irot64 (b : Bool) (g : Guard) (d : Spec) (x y : Opd)
  /-- IBFX_32 (R285): IBFX extracts a sign-extended bit field per lane. -/
  | ibfx32 (b : Bool) (d y : Spec)
  /-- IBFX_64 (R285): IBFX extracts a sign-extended bit field per lane. -/
  | ibfx64 (b : Bool) (g : Guard) (d : Spec) (x y : Opd)
  /-- IBFXU_32 (R285): IBFXU extracts a zero-extended bit field per lane. -/
  | ibfxu32 (b : Bool) (d y : Spec)
  /-- IBFXU_64 (R285): IBFXU extracts a zero-extended bit field per lane. -/
  | ibfxu64 (b : Bool) (g : Guard) (d : Spec) (x y : Opd)
  /-- IBFI (R285): IBFI inserts a bit field per lane. -/
  | ibfi (b : Bool) (g : Guard) (d : Spec) (x y : Opd) (z : Spec)
  /-- IPOPC_32 (R285): IPOPC counts 1 bits per lane. -/
  | ipopc32 (b : Bool) (d x : Spec)
  /-- IPOPC_64 (R285): IPOPC counts 1 bits per lane. -/
  | ipopc64 (b : Bool) (g : Guard) (d : Spec) (x : Opd)
  /-- ICLZ_32 (R285): ICLZ counts leading zeros per lane. -/
  | iclz32 (b : Bool) (d x : Spec)
  /-- ICLZ_64 (R285): ICLZ counts leading zeros per lane. -/
  | iclz64 (b : Bool) (g : Guard) (d : Spec) (x : Opd)
  /-- IBREV_32 (R285): IBREV reverses the bits of each lane. -/
  | ibrev32 (b : Bool) (d x : Spec)
  /-- IBREV_64 (R285): IBREV reverses the bits of each lane. -/
  | ibrev64 (b : Bool) (g : Guard) (d : Spec) (x : Opd)
  /-- IADDC (R287): IADDC adds with a predicate carry-in and writes a carry-out predicate. -/
  | iaddc (b : Bool) (g : Guard) (d : Spec) (x y : Opd) (pi po : BitVec 3)
  /-- ISUBB (R287): ISUBB subtracts with a predicate borrow-in and writes a borrow-out predicate. -/
  | isubb (b : Bool) (g : Guard) (d : Spec) (x y : Opd) (pi po : BitVec 3)
  /-- ISETP (R288): ISETP sets a P predicate per lane from an integer comparison. -/
  | isetp (b : Bool) (g : Guard) (cc d : BitVec 3) (x y : Opd)
  /-- ISEL (R288): ISEL selects per lane between two values by a P predicate. -/
  | isel (b : Bool) (g : Guard) (d : Spec) (x y : Opd) (c : BitVec 3)
  /-- IMOV_32 (R285): IMOV copies a varying value. -/
  | imov32 (b : Bool) (d x : Spec)
  /-- IMOV_64 (R285): IMOV copies a varying value or sign-extended IMM8. -/
  | imov64 (b : Bool) (g : Guard) (d : Spec) (x : Opd)
  /-- IABS_32 (R285): IABS gives the signed absolute value per lane. -/
  | iabs32 (b : Bool) (d x : Spec)
  /-- IABS_64 (R285): IABS gives the signed absolute value per lane, with optional MOD. -/
  | iabs64 (b : Bool) (g : Guard) (d x : Spec) (m : BitVec 2)
  /-- INEG_32 (R285): INEG negates each lane. -/
  | ineg32 (b : Bool) (d x : Spec)
  /-- INEG_64 (R285): INEG negates each lane, with optional MOD. -/
  | ineg64 (b : Bool) (g : Guard) (d x : Spec) (m : BitVec 2)
  /-- IDP4 (R289): IDP4 adds a four-byte dot product to c per lane. -/
  | idp4 (b : Bool) (g : Guard) (d : Spec) (x y : Opd) (z : Spec) (m : BitVec 2)
  /-- IPRMT (R289): IPRMT permutes bytes of two sources per lane. -/
  | iprmt (b : Bool) (g : Guard) (d : Spec) (x y : Opd) (z : Spec)
  /-- ISAD (R289): ISAD adds an absolute difference to c per lane. -/
  | isad (b : Bool) (g : Guard) (d : Spec) (x y : Opd) (z : Spec) (u : Bool)
  /-- NOP_32 (R294): NOP occupies an issue slot with no effect. -/
  | nop32 (b : Bool)
  /-- NOP_64 (R294): The 64-bit NOP occupies an issue slot with no effect. -/
  | nop64 (b : Bool) (g : Guard)
  /-- NOP_96 (R294): The 96-bit NOP occupies an issue slot with no effect. -/
  | nop96 (b : Bool) (g : Guard)
  /-- PAND_32 (R299): PAND ANDs P predicates per lane. -/
  | pand32 (b : Bool) (d y : BitVec 3)
  /-- PAND_64 (R299): PAND ANDs P predicates per lane. -/
  | pand64 (b : Bool) (g : Guard) (d x y : BitVec 3)
  /-- POR_32 (R299): POR ORs P predicates per lane. -/
  | por32 (b : Bool) (d y : BitVec 3)
  /-- POR_64 (R299): POR ORs P predicates per lane. -/
  | por64 (b : Bool) (g : Guard) (d x y : BitVec 3)
  /-- PXOR_32 (R299): PXOR XORs P predicates per lane. -/
  | pxor32 (b : Bool) (d y : BitVec 3)
  /-- PXOR_64 (R299): PXOR XORs P predicates per lane. -/
  | pxor64 (b : Bool) (g : Guard) (d x y : BitVec 3)
  /-- PANDN_32 (R299): PANDN ANDs with a complemented P predicate per lane. -/
  | pandn32 (b : Bool) (d y : BitVec 3)
  /-- PANDN_64 (R299): PANDN ANDs with a complemented P predicate per lane. -/
  | pandn64 (b : Bool) (g : Guard) (d x y : BitVec 3)
  /-- PNOT_32 (R299): PNOT complements a P predicate per lane. -/
  | pnot32 (b : Bool) (d x : BitVec 3)
  /-- PNOT_64 (R299): PNOT complements a P predicate per lane. -/
  | pnot64 (b : Bool) (g : Guard) (d x : BitVec 3)
  /-- PMOV_32 (R299): PMOV copies a P predicate per lane. -/
  | pmov32 (b : Bool) (d x : BitVec 3)
  /-- PMOV_64 (R299): PMOV copies a P predicate per lane. -/
  | pmov64 (b : Bool) (g : Guard) (d x : BitVec 3)
  /-- PMOV_BIT (R299): PMOV.BIT sets a P predicate from a bit of a varying value. -/
  | pmovBit (b : Bool) (g : Guard) (d : BitVec 3) (x y : Opd)
  /-- PMOV_Q (R299): PMOV.Q sets a P predicate from a Q predicate. -/
  | pmovQ (b : Bool) (g : Guard) (d x : BitVec 3)
  /-- PMOV_HELP_32 (R299): PMOV.HELP sets a P predicate in helper lanes. -/
  | pmovHelp32 (b : Bool) (d : BitVec 3)
  /-- PMOV_HELP_64 (R299): PMOV.HELP sets a P predicate in helper lanes, with a guard. -/
  | pmovHelp64 (b : Bool) (g : Guard) (d : BitVec 3)
  /-- VOTE_ALL (R300): VOTE.ALL sets a Q predicate if a P predicate holds in every selected lane. -/
  | voteAll (b : Bool) (g : Guard) (d x : BitVec 3)
  /-- VOTE_ANY (R300): VOTE.ANY sets a Q predicate if a P predicate holds in some selected lane. -/
  | voteAny (b : Bool) (g : Guard) (d x : BitVec 3)
  /-- VOTE_BAL (R300): VOTE.BAL writes one word of the selected ballot mask to a uniform register. -/
  | voteBal (b : Bool) (g : Guard) (d : Spec) (x : BitVec 3) (y : Spec)
  /-- VOTE_CNT (R300): VOTE.CNT counts selected lanes where a predicate holds. -/
  | voteCnt (b : Bool) (g : Guard) (d : Spec) (x : BitVec 3)
  /-- SHFL_IDX (R301): SHFL.IDX reads each lane's value from an indexed source lane. -/
  | shflIdx (b : Bool) (g : Guard) (d : Spec) (x y : Opd)
  /-- SHFL_UP (R301): SHFL.UP reads from lane l minus b. -/
  | shflUp (b : Bool) (g : Guard) (d : Spec) (x y : Opd)
  /-- SHFL_DN (R301): SHFL.DN reads from lane l plus b. -/
  | shflDn (b : Bool) (g : Guard) (d : Spec) (x y : Opd)
  /-- SHFL_XOR (R301): SHFL.XOR reads from lane l xor b. -/
  | shflXor (b : Bool) (g : Guard) (d : Spec) (x y : Opd)
  /-- SHFL_QX (R301): SHFL.QX reads from the horizontal quad neighbour. -/
  | shflQx (b : Bool) (g : Guard) (d x : Spec)
  /-- SHFL_QY (R301): SHFL.QY reads from the vertical quad neighbour. -/
  | shflQy (b : Bool) (g : Guard) (d x : Spec)
  /-- REDX (R303): REDX reduces selected lanes by a fixed tree into a uniform register. -/
  | redx (b : Bool) (g : Guard) (o : BitVec 3) (d x : Spec)
  /-- SCAN (R304): SCAN writes per-lane inclusive or exclusive prefix combinations. -/
  | scan (b : Bool) (g : Guard) (o : BitVec 3) (d x : Spec) (excl : Bool)
  /-- BARR (R306): BARR arrives at a barrier instance of a span with a release and departs with an acquire and optional payload. -/
  | barr (b : Bool) (o : BitVec 3) (d : Spec) (x : Opd) (span : Spec)
  /-- BRA (R292): BRA jumps to a displacement target. -/
  | bra (b : Bool) (disp : BitVec 22)
  /-- BRX (R103): BRX divides the active mask by a predicate, pushing JOIN and DEFER entries when both paths are non-empty. -/
  | brx (b : Bool) (pd : PTerm) (taken join : BitVec 22)
  /-- JOIN (R104): JOIN pops or switches on the top visible reconvergence entry. -/
  | join (b : Bool)
  /-- LOOP (R105): LOOP pushes a LOOP entry with its exit pc and head. -/
  | loop (b : Bool) (disp : BitVec 22)
  /-- BRK_32 (R105): BRK removes the executing lanes from the active mask until the loop exit. -/
  | brk32 (b : Bool)
  /-- BRK_64 (R105): BRK removes the guarded lanes from the active mask until the loop exit. -/
  | brk64 (b : Bool) (g : Guard)
  /-- CONT_32 (R105): CONT removes the executing lanes and records them for the next iteration. -/
  | cont32 (b : Bool)
  /-- CONT_64 (R105): CONT removes the guarded lanes and records them for the next iteration. -/
  | cont64 (b : Bool) (g : Guard)
  /-- CALL_DISP (R292): CALL pushes a CALL entry and jumps to a displacement target. -/
  | callDisp (b : Bool) (disp : BitVec 22)
  /-- CALL_REG (R243): The register form of CALL pushes a CALL entry and jumps to the code offset held in a uniform register. -/
  | callReg (b : Bool) (x : Spec)
  /-- RET (R106): RET clears the executing lanes up to the topmost CALL entry and pops it when it becomes top. -/
  | ret (b : Bool)
  /-- EXIT_32 (R110): EXIT removes the executing lanes from the team, retiring it when none remain. -/
  | exit32 (b : Bool)
  /-- EXIT_64 (R110): EXIT removes the guarded lanes from the team. -/
  | exit64 (b : Bool) (g : Guard)
  /-- YIELD (R294): YIELD ends its run with no other effect. -/
  | yield (b : Bool)
  /-- TRAP_32 (R295): TRAP raises TRAP_INSTR with immediate 0. -/
  | trap32 (b : Bool)
  /-- TRAP_64 (R295): TRAP raises TRAP_INSTR with an immediate, under a guard. -/
  | trap64 (b : Bool) (g : Guard) (n : Spec)
  /-- BKPT_32 (R295): BKPT raises BREAKPOINT with immediate 0. -/
  | bkpt32 (b : Bool)
  /-- BKPT_64 (R295): BKPT raises BREAKPOINT with an immediate, under a guard. -/
  | bkpt64 (b : Bool) (g : Guard) (n : Spec)
  /-- SREAD_32 (R296): SREAD reads a special register into a uniform register. -/
  | sread32 (b : Bool) (d n : Spec)
  /-- SREAD_64 (R296): SREAD reads a special register, under a Q guard. -/
  | sread64 (b : Bool) (g : Guard) (d n : Spec)
  /-- SWRITE_32 (R296): SWRITE writes a uniform value into a writable special register. -/
  | swrite32 (b : Bool) (n x : Spec)
  /-- SWRITE_64 (R296): SWRITE writes a special register, under a Q guard. -/
  | swrite64 (b : Bool) (g : Guard) (n x : Spec)
  /-- FADD_32 (R311): FADD adds FP32 values per lane. -/
  | fadd32 (b : Bool) (d y : Spec)
  /-- FADD_64 (R311): FADD adds FP32 values per lane with a rounding mode. -/
  | fadd64 (b : Bool) (g : Guard) (d : Spec) (x y : Opd) (m : BitVec 2)
  /-- FSUB_32 (R311): FSUB subtracts FP32 values per lane. -/
  | fsub32 (b : Bool) (d y : Spec)
  /-- FSUB_64 (R311): FSUB subtracts FP32 values per lane with a rounding mode. -/
  | fsub64 (b : Bool) (g : Guard) (d : Spec) (x y : Opd) (m : BitVec 2)
  /-- FMUL_32 (R311): FMUL multiplies FP32 values per lane. -/
  | fmul32 (b : Bool) (d y : Spec)
  /-- FMUL_64 (R311): FMUL multiplies FP32 values per lane with a rounding mode. -/
  | fmul64 (b : Bool) (g : Guard) (d : Spec) (x y : Opd) (m : BitVec 2)
  /-- FFMA (R311): FFMA computes a fused multiply-add per lane with one rounding. -/
  | ffma (b : Bool) (g : Guard) (d : Spec) (x y : Opd) (z : Spec) (m : BitVec 2)
  /-- FMIN_32 (R311): FMIN gives minimumNumber per lane. -/
  | fmin32 (b : Bool) (d y : Spec)
  /-- FMIN_64 (R311): FMIN gives minimumNumber per lane. -/
  | fmin64 (b : Bool) (g : Guard) (d : Spec) (x y : Opd)
  /-- FMAX_32 (R311): FMAX gives maximumNumber per lane. -/
  | fmax32 (b : Bool) (d y : Spec)
  /-- FMAX_64 (R311): FMAX gives maximumNumber per lane. -/
  | fmax64 (b : Bool) (g : Guard) (d : Spec) (x y : Opd)
  /-- FABS_32 (R311): FABS clears the sign bit per lane. -/
  | fabs32 (b : Bool) (d x : Spec)
  /-- FABS_64 (R311): FABS clears the sign bit per lane. -/
  | fabs64 (b : Bool) (g : Guard) (d x : Spec)
  /-- FNEG_32 (R311): FNEG inverts the sign bit per lane. -/
  | fneg32 (b : Bool) (d x : Spec)
  /-- FNEG_64 (R311): FNEG inverts the sign bit per lane. -/
  | fneg64 (b : Bool) (g : Guard) (d x : Spec)
  /-- FCPSGN_32 (R311): FCPSGN copies the sign of one value onto another. -/
  | fcpsgn32 (b : Bool) (d y : Spec)
  /-- FCPSGN_64 (R311): FCPSGN copies the sign of one value onto another. -/
  | fcpsgn64 (b : Bool) (g : Guard) (d : Spec) (x y : Opd)
  /-- FSETP (R312): FSETP sets a P predicate per lane from an FP32 comparison. -/
  | fsetp (b : Bool) (g : Guard) (cc d : BitVec 3) (x y : Opd)
  /-- FRND_32 (R311): FRND rounds each lane to an integral FP32 value. -/
  | frnd32 (b : Bool) (d x : Spec)
  /-- FRND_64 (R311): FRND rounds each lane to an integral value in the MOD direction. -/
  | frnd64 (b : Bool) (g : Guard) (d x : Spec) (m : BitVec 2)
  /-- FCLASS_32 (R313): FCLASS writes a one-hot class mask of each lane's value. -/
  | fclass32 (b : Bool) (d x : Spec)
  /-- FCLASS_64 (R313): FCLASS writes a one-hot class mask, under a guard. -/
  | fclass64 (b : Bool) (g : Guard) (d x : Spec)
  /-- FSCL_32 (R311): FSCL scales each lane by a power of two. -/
  | fscl32 (b : Bool) (d y : Spec)
  /-- FSCL_64 (R311): FSCL scales each lane by a power of two with a rounding mode. -/
  | fscl64 (b : Bool) (g : Guard) (d : Spec) (x y : Opd) (m : BitVec 2)
  /-- HADD2_32 (R314): HADD2 adds packed FP16 pairs. -/
  | hadd232 (b : Bool) (d y : Spec)
  /-- HADD2_64 (R314): HADD2 adds packed FP16 pairs with a rounding mode. -/
  | hadd264 (b : Bool) (g : Guard) (d : Spec) (x y : Opd) (m : BitVec 2)
  /-- HMUL2_32 (R314): HMUL2 multiplies packed FP16 pairs. -/
  | hmul232 (b : Bool) (d y : Spec)
  /-- HMUL2_64 (R314): HMUL2 multiplies packed FP16 pairs with a rounding mode. -/
  | hmul264 (b : Bool) (g : Guard) (d : Spec) (x y : Opd) (m : BitVec 2)
  /-- HFMA2 (R314): HFMA2 computes packed FP16 fused multiply-adds. -/
  | hfma2 (b : Bool) (g : Guard) (d : Spec) (x y : Opd) (z : Spec) (m : BitVec 2)
  /-- FRCP_32 (R315): FRCP computes a correctly rounded reciprocal. -/
  | frcp32 (b : Bool) (d x : Spec)
  /-- FRCP_64 (R315): FRCP computes a correctly rounded reciprocal in the MOD direction. -/
  | frcp64 (b : Bool) (g : Guard) (d x : Spec) (m : BitVec 2)
  /-- FRSQ_32 (R315): FRSQ computes a correctly rounded reciprocal square root. -/
  | frsq32 (b : Bool) (d x : Spec)
  /-- FRSQ_64 (R315): FRSQ computes a correctly rounded reciprocal square root in the MOD direction. -/
  | frsq64 (b : Bool) (g : Guard) (d x : Spec) (m : BitVec 2)
  /-- FSQRT_32 (R315): FSQRT computes a correctly rounded square root. -/
  | fsqrt32 (b : Bool) (d x : Spec)
  /-- FSQRT_64 (R315): FSQRT computes a correctly rounded square root in the MOD direction. -/
  | fsqrt64 (b : Bool) (g : Guard) (d x : Spec) (m : BitVec 2)
  /-- FEXP2_32 (R315): FEXP2 computes a correctly rounded 2^x. -/
  | fexp232 (b : Bool) (d x : Spec)
  /-- FEXP2_64 (R315): FEXP2 computes a correctly rounded 2^x, under a guard. -/
  | fexp264 (b : Bool) (g : Guard) (d x : Spec)
  /-- FLOG2_32 (R316): FLOG2 computes log2 within its error bound. -/
  | flog232 (b : Bool) (d x : Spec)
  /-- FLOG2_64 (R316): FLOG2 computes log2 within its error bound, under a guard. -/
  | flog264 (b : Bool) (g : Guard) (d x : Spec)
  /-- FSIN_32 (R316): FSIN computes the sine of an argument in turns. -/
  | fsin32 (b : Bool) (d x : Spec)
  /-- FSIN_64 (R316): FSIN computes the sine of an argument in turns, under a guard. -/
  | fsin64 (b : Bool) (g : Guard) (d x : Spec)
  /-- FCOS_32 (R316): FCOS computes the cosine of an argument in turns. -/
  | fcos32 (b : Bool) (d x : Spec)
  /-- FCOS_64 (R316): FCOS computes the cosine of an argument in turns, under a guard. -/
  | fcos64 (b : Bool) (g : Guard) (d x : Spec)
  /-- FRAND_U32_32 (R317): FRAND.U32 draws 32 random bits per lane. -/
  | frandU3232 (b : Bool) (d : Spec)
  /-- FRAND_U32_64 (R317): FRAND.U32 draws 32 random bits per lane, under a guard. -/
  | frandU3264 (b : Bool) (g : Guard) (d : Spec)
  /-- FRAND_F32_32 (R317): FRAND.F32 draws a uniform FP32 value in [0, 1) per lane. -/
  | frandF3232 (b : Bool) (d : Spec)
  /-- FRAND_F32_64 (R317): FRAND.F32 draws a uniform FP32 value per lane, under a guard. -/
  | frandF3264 (b : Bool) (g : Guard) (d : Spec)
  /-- CVT (R319): CVT converts one element per lane between the formats of its format pair. -/
  | cvt (b : Bool) (g : Guard) (d x pair : Spec) (m : BitVec 2)
  /-- CVTP_PACK (R320): CVTP.PACK converts two FP32 values and packs them as narrow elements. -/
  | cvtpPack (b : Bool) (g : Guard) (d x y : Spec) (el : BitVec 4) (m : BitVec 2)
  /-- CVTP_PACKSR (R321): CVTP.PACKSR stochastically rounds an FP32 value to a narrow element using random bits. -/
  | cvtpPacksr (b : Bool) (g : Guard) (d x y : Spec) (el : BitVec 4)
  /-- CVTP_UNPACK (R320): CVTP.UNPACK widens one packed element exactly to FP32. -/
  | cvtpUnpack (b : Bool) (g : Guard) (d x : Spec) (j : BitVec 2) (el : BitVec 4)
  /-- LD (R326): LD loads from an object through a capability with a request type. -/
  | ld (b : Bool) (g : Guard) (wd : BitVec 3) (d : Spec) (off : Opd) (c : Spec) (n : Byte) (rq h : BitVec 2)
  /-- ST (R327): ST enters a store to an object into the team's store queue. -/
  | st (b : Bool) (g : Guard) (wd : BitVec 3) (d : Spec) (off : Opd) (c : Spec) (n : Byte) (rq h : BitVec 2)
  /-- LDB (R328): LDB loads a round-region word under a staleness bound. -/
  | ldb (b : Bool) (g : Guard) (wd : BitVec 3) (d : Spec) (off : Opd) (c n : Spec) (h m : BitVec 2)
  /-- LDS (R329): LDS loads from the team's scratchpad or the neighbourhood window. -/
  | lds (b : Bool) (g : Guard) (wd : BitVec 3) (d : Spec) (off : Opd) (n : Byte) (win : Bool)
  /-- STS (R329): STS stores to the team's scratchpad or the neighbourhood window. -/
  | sts (b : Bool) (g : Guard) (wd : BitVec 3) (d : Spec) (off : Opd) (n : Byte) (win : Bool)
  /-- ATOM (R331): ATOM performs an atomic read-modify-write on an object word and returns the old value. -/
  | atom (b : Bool) (g : Guard) (wd : BitVec 3) (d : Spec) (off : Opd) (c : Spec) (n : Byte) (loc : Bool) (h m : BitVec 2) (y z o : Spec)
  /-- RED (R331): RED performs an atomic reduction on an object word without a result. -/
  | red (b : Bool) (g : Guard) (wd : BitVec 3) (off : Opd) (c : Spec) (n : Byte) (loc : Bool) (h : BitVec 2) (rel : Bool) (y o : Spec)
  /-- ATOMS (R331): ATOMS performs an atomic on a scratchpad or window word. -/
  | atoms (b : Bool) (g : Guard) (wd : BitVec 3) (d : Spec) (off : Opd) (n : Byte) (win : Bool) (m : BitVec 2) (y z o : Spec)
  /-- FENCE_ACQ (R335): FENCE.ACQ waits for earlier loads and atomics and self-invalidates the L1. -/
  | fenceAcq (b : Bool)
  /-- FENCE_REL (R335): FENCE.REL marks the store queue so no later store, atomic or engine submission performs before earlier accesses. -/
  | fenceRel (b : Bool)
  /-- FENCE_AR (R335): FENCE.AR acts as both release and acquire fences and orders later loads after earlier stores drain. -/
  | fenceAr (b : Bool)
  /-- RREL_32 (R336): RREL releases the owner's tile of a round region. -/
  | rrel32 (b : Bool) (c : Spec)
  /-- RREL_64 (R336): RREL releases the owner's tile of a round region, under a Q guard. -/
  | rrel64 (b : Bool) (g : Guard) (c : Spec)
  /-- INVR (R337): INVR discards a range from the issuing core's L1 without write-back. -/
  | invr (b : Bool) (g : Guard) (x c y : Spec)
  /-- WBR (R337): WBR writes back and releases dirty bytes of a range in the L1. -/
  | wbr (b : Bool) (g : Guard) (x c y : Spec)
  /-- FLR (R337): FLR writes back and invalidates a range in the L1. -/
  | flr (b : Bool) (g : Guard) (x c y : Spec)
  /-- PREF (R337): PREF fetches the accessible words of a range into the L1 without faulting. -/
  | pref (b : Bool) (g : Guard) (x c y : Spec) (h : BitVec 2)
  /-- CPY (R342): CPY submits a per-lane chunk copy with zero fill to the copy queue under a tag. -/
  | cpy (b : Bool) (g : Guard) (off : Opd) (sc cnt : Spec) (h z : BitVec 2) (dof dc : Spec) (cwc : BitVec 4) (cw : Bool) (tag : BitVec 3) (dcls : BitVec 2) (ssp dsp win : Bool)
  /-- CPYT (R344): CPYT submits a strided tensor copy described in uniform registers. -/
  | cpyt (b : Bool) (g : Guard) (sd sp sc : Spec) (h : BitVec 2) (dc cwc : Spec) (ssp dsp cw : Bool) (tag : BitVec 3)
  /-- CPYM_MC (R346): CPYM.MC multicasts each lane's word into every team of a span. -/
  | cpymMc (b : Bool) (g : Guard) (off dat : Opd) (k : Spec) (h : BitVec 2) (cw : Bool) (cwc : Spec) (tag : BitVec 3) (dsp : Bool) (span : Spec)
  /-- CPYM_RD (R346): CPYM.RD combines each lane's word into every team of a span by a reduction. -/
  | cpymRd (b : Bool) (g : Guard) (off dat : Opd) (k : Spec) (h : BitVec 2) (cw : Bool) (cwc : Spec) (tag : BitVec 3) (dsp : Bool) (o : BitVec 4) (span : Spec)
  /-- WAITT_32 (R347): WAITT sleeps until the masked tag counts are zero and then acquires. -/
  | waitt32 (b : Bool) (mask : Spec)
  /-- WAITT_64 (R347): WAITT sleeps until the masked tag counts are zero, under a Q guard. -/
  | waitt64 (b : Bool) (g : Guard) (mask : Spec)
  /-- WAITW (R348): WAITW sleeps until a 64-bit word meets its condition and then acquires. -/
  | waitw (b : Bool) (g : Guard) (x y c : Spec) (m : BitVec 2)
  /-- NOTIFY (R350): NOTIFY adds to a mailbox word and makes an arrival, as a release. -/
  | notify (b : Bool) (g : Guard) (x y c : Spec)
  /-- NOTIFY_ST (R350): NOTIFY.ST stores into a mailbox word and makes an arrival, as a release. -/
  | notifySt (b : Bool) (g : Guard) (x y c : Spec)
  /-- QFENCE (R351): QFENCE orders later engine submissions after earlier ones on the named queues. -/
  | qfence (b : Bool) (set : BitVec 4)
  /-- ISEND (R353): ISEND submits per-lane island requests to a slot, owing line entries under a tag. -/
  | isend (b : Bool) (g : Guard) (w0 w1 w2 : Spec) (h : BitVec 2) (w3 w4 : Spec) (ks : BitVec 2) (ld cls : BitVec 3) (slot : Bool) (tag : BitVec 3) (cn : BitVec 4)
  /-- ISEND_SYNC (R353): ISEND.SYNC releases, invalidates the slot's island cache lines of the partition and submits. -/
  | isendSync (b : Bool) (g : Guard) (w0 w1 w2 : Spec) (h : BitVec 2) (w3 w4 : Spec) (ks : BitVec 2) (ld cls : BitVec 3) (slot : Bool) (tag : BitVec 3) (cn : BitVec 4)
  /-- LSTAT_32 (R354): LSTAT reads a line's present, owed and parked state into a uniform register. -/
  | lstat32 (b : Bool) (d x : Spec)
  /-- LSTAT_64 (R354): LSTAT reads a line's state, under a Q guard. -/
  | lstat64 (b : Bool) (g : Guard) (d x : Spec)
  /-- TRICLS (R355): TRICLS classifies triangles per lane as large, culled or small. -/
  | tricls (b : Bool) (g : Guard) (d : BitVec 3) (x : Spec) (cull : BitVec 2) (pe : BitVec 3) (lim : Byte)
  /-- WBLD (R357): WBLD submits a load of weight tiles into the weight buffer. -/
  | wbld (b : Bool) (g : Guard) (x y c : Spec) (h : BitVec 2)
  /-- WBGTH (R358): WBGTH submits a gather of one weight tile from a CSR matrix. -/
  | wbgth (b : Bool) (g : Guard) (x y c : Spec) (h : BitVec 2) (z : Spec)
  /-- MMA (R363): MMA multiplies each lane's A row by weight-buffer tiles into a 32-wide accumulator group, optionally draining a max. -/
  | mma (b : Bool) (g : Guard) (a vc : Spec) (h : BitVec 2) (z amax : Bool) (su cn : Spec) (ln : Bool) (fa : BitVec 5) (km1 : BitVec 7)
  /-- MMAS (R366): MMAS writes unscaled per-block sums of scaled-format products. -/
  | mmas (b : Bool) (g : Guard) (d a vs su : Spec) (ln : Bool) (fa : BitVec 5) (km1 : BitVec 7)
  /-- SCACC (R367): SCACC scales block sums and accumulates them into FP32 with one rounding per block. -/
  | scacc (b : Bool) (g : Guard) (d vp vs : Spec) (z : Bool) (su : Spec) (fa : BitVec 5) (km1 : BitVec 7)
  /-- LBIND (R369): LBIND binds aligned groups of n lanes as limbs of one integer. -/
  | lbind (b : Bool) (lg : BitVec 3)
  /-- LUNBIND (R369): LUNBIND clears the limb binding. -/
  | lunbind (b : Bool)
  /-- LADD (R371): LADD adds group numbers with carry-out to a predicate. -/
  | ladd (b : Bool) (g : Guard) (d x y : Spec) (po : BitVec 3) (tc ci : Bool)
  /-- LSUB (R371): LSUB subtracts group numbers with borrow-out to a predicate. -/
  | lsub (b : Bool) (g : Guard) (d x y : Spec) (po : BitVec 3) (tc ci : Bool)
  /-- LSHL (R372): LSHL shifts each group number left. -/
  | lshl (b : Bool) (g : Guard) (d : Spec) (x y : Opd)
  /-- LSHR (R372): LSHR shifts each group number right. -/
  | lshr (b : Bool) (g : Guard) (d : Spec) (x y : Opd)
  /-- LMACS (R374): LMACS adds a times limb j of b into a double-width group accumulator. -/
  | lmacs (b : Bool) (g : Guard) (d x y dhi : Spec) (tc : Bool) (j : BitVec 5)
  /-- LCMP (R373): LCMP sets a predicate across each group from a comparison of group numbers. -/
  | lcmp (b : Bool) (g : Guard) (cc d : BitVec 3) (x y : Spec)
  /-- ILL (R244): A fetched word or word group that is not an instruction (OP 0x00, reserved OP or SUB, LEN 11, or a form the instruction lacks) raises its decode fault with no effect. -/
  | ill (cause : Byte) (w0 : Word) (idx : BitVec 2) (bitPos : BitVec 5)
  /-- SYNCHRONISATION_LOST (R23): The SRC port's IEEE 802.1AS instance loses synchronisation to its grandmaster, and the device time then runs free at its last rate. -/
  | synchronisationLost
  /-- PREEMPTION_VERIFICATION (R17): IEEE 802.3br verification with the link partner succeeds on a port, after which PREEMPT takes effect for preemptable frames. -/
  | preemptionVerification (port : Nat) (ok : Bool)
  /-- DOMAIN_VOLTAGE_CHANGE (R5): The gondola changes a core domain's supply voltage while no team of that row is between a winch-granted start and its first run boundary. -/
  | domainVoltageChange (d mv : Nat)
  /-- APERTURE_GATING (R70): The notify aperture logic is clock- or power-gated once every queue of every partition is idle. -/
  | apertureGating
  /-- SINGLE_BIT_ERROR_CORRECTED (R178): A single-bit error in a register file, stack, line, weight buffer or scratchpad is corrected in place and counted, with no cause raised. -/
  | singleBitErrorCorrected (core : Nat) (arr : Byte)
  deriving DecidableEq, Repr

end Sys2Proof
end

