-- ==== Sys2Proof/WellFormed.lean ====
section
/-!
DEFINITION. Which instruction terms have words: the operand classes that some SIG admits (R236, R237), the sub-fields
that raise ILL_FIELD or ILL_OPCODE when decoded (R241, R263, R318, R320, R341, ...). A step with no encoding is always
well formed.
-/
namespace Sys2Proof

/-- The register specifier of an operand (0 for an immediate). -/
def Opd.spec : Opd → Spec
  | .v r => r | .a r => r | .s r => r | .imm _ => 0

/-- The immediate of an operand (0 for a register). -/
def Opd.immByte : Opd → Byte
  | .imm n => n | .v _ => 0 | .a _ => 0 | .s _ => 0

/-- SIG of a pair of sources (R237); 7 for a pair that no SIG names. -/
def pairSig : Opd → Opd → BitVec 3
  | .v _, .v _ => 0 | .v _, .a _ => 1 | .v _, .s _ => 2 | .v _, .imm _ => 3
  | .a _, .s _ => 4 | .a _, .a _ => 5 | .s _, .s _ => 6
  | _, _ => 7

/-- SIG of a memory offset or payload operand (R259): the class of S1 alone. -/
def Opd.offSig : Opd → BitVec 3
  | .v _ => 0 | .a _ => 5 | .s _ => 6 | .imm _ => 7

/-- SIG of a unary operand: 3 for an immediate, else the row's own SIG. -/
def unSig (sig : BitVec 3) : Opd → BitVec 3
  | .imm _ => 3 | .v _ => sig | .a _ => sig | .s _ => sig

/-- Whether some SIG of a list names a pair of sources. -/
def pairIn (sigs : List Nat) (x y : Opd) : Bool := sigs.contains (pairSig x y).toNat

/-- The class of a unary operand of the rows marked with a degree sign (R259). -/
inductive UnClass where
  | v
  | s
  deriving DecidableEq, Repr

def Opd.isUn (c : UnClass) : Opd → Bool
  | .v _ => decide (c = .v) | .s _ => decide (c = .s) | .imm _ => true | .a _ => false

def Opd.isOff : Opd → Bool
  | .v _ => true | .a _ => true | .s _ => true | .imm _ => false

def Opd.isPay : Opd → Bool
  | .v _ => true | .s _ => true | .a _ => false | .imm _ => false

def Opd.immLe (n : Nat) : Opd → Bool
  | .imm k => decide (k.toNat ≤ n) | .v _ => true | .a _ => true | .s _ => true

/-- The operations of R263: `ret` for ATOM and ATOMS, which take XCHG and CAS; FADD is for .W32 and DIMIN64 for .W64. -/
def atomOk (ret : Bool) (sub : BitVec 3) (o : Byte) : Bool :=
  if o.toNat < 8 then true
  else if o.toNat < 10 then ret
  else if o = 0x0A then decide (sub = 2)
  else if o = 0x0B then decide (sub = 3)
  else false

/-- The operations of CPYM.RD (R345). -/
def cpymOpOk (o : BitVec 4) : Bool := decide (o.toNat < 8 ∨ o = 10)

/-- The element formats of CVTP (R320). -/
def cvtpElem (el : BitVec 4) : Bool := decide (el = 7 ∨ el = 8 ∨ el = 10 ∨ el = 11 ∨ el = 12)

/-- The offending sub-field of CVT's format pair (R318), by its lowest bit within S3. -/
def cvtRule (pair : Byte) : Option Nat :=
  if (pair.extractLsb' 0 4).toNat ≥ 13 then some 0
  else if (pair.extractLsb' 4 4).toNat = 15 then some 4
  else none

/-- The offending sub-field of CVTP's S3 (R320). -/
def cvtpRule (s3 : Byte) : Option Nat :=
  if !cvtpElem (s3.extractLsb' 0 4) then some 0
  else if s3.extractLsb' 4 2 = 3 then some 4
  else if s3.extractLsb' 4 2 ≠ 2 ∧ s3.extractLsb' 6 2 ≠ 0 then some 6
  else if s3.extractLsb' 4 2 = 2 ∧ (s3.extractLsb' 0 4).toNat < 9 ∧ (s3.extractLsb' 6 2).toNat ≥ 2 then some 6
  else none

/-- UNPACK takes no S2 (R320). -/
def cvtpS2Rule (s2 s3 : Byte) : Option Nat := if s3.extractLsb' 4 2 = 2 ∧ s2 ≠ 0 then some 0 else none

/-- Only PACK takes a rounding direction (R320, R241). -/
def cvtpModRule (m : BitVec 2) (s3 : Byte) : Option Nat := if s3.extractLsb' 4 2 ≠ 0 ∧ m ≠ 0 then some 0 else none

/-- The offending sub-field of CPY's X2 (R341). -/
def cpyX2Rule (x2 : Byte) : Option Nat :=
  if x2.extractLsb' 0 3 ≠ 0 then some 0
  else if x2.getLsbD 3 ∧ ¬ x2.getLsbD 5 ∧ ¬ x2.getLsbD 4 then some 3
  else if x2.extractLsb' 6 2 = 3 then some 6
  else none

/-- The offending sub-field of TRICLS's X1 (R355). -/
def triclsRule (d x1 : Byte) : Option Nat :=
  if x1.extractLsb' 0 3 = d.setWidth 3 then some 0
  else if x1.extractLsb' 3 2 = 3 then some 3
  else if x1.extractLsb' 5 3 ≠ 0 then some 5
  else none

/-- The lowest set bit of a byte's field, when the field must be zero: the field is named by its own lowest bit (R165). -/
def nz {w : Nat} (x : BitVec w) : Option Nat := if x = 0 then none else some 0

/-- A predicate specifier has [7:3] zero (R238). -/
def predHigh (x : Byte) : Option Nat := if x.extractLsb' 3 5 = 0 then none else some 0

/-- Well-formedness of an instruction term. -/
def Instr.wellFormed : Instr → Bool
  | .smov64 _ _ _ x => x.isUn .s
  | .aadd64 _ _ _ x y => pairIn [5, 4] x y
  | .asub64 _ _ _ x y => pairIn [5, 4] x y
  | .iadd64 _ _ _ x y _ => pairIn [0, 1, 2, 3, 4, 5, 6] x y
  | .isub64 _ _ _ x y _ => pairIn [0, 1, 2, 3, 4, 5, 6] x y
  | .imul64 _ _ _ x y _ => pairIn [0, 1, 2, 3, 4, 5, 6] x y
  | .imulh64 _ _ _ x y => pairIn [0, 1, 2, 3, 4, 5, 6] x y
  | .imulhu64 _ _ _ x y => pairIn [0, 1, 2, 3, 4, 5, 6] x y
  | .imad _ _ _ x y _ _ => pairIn [0, 1, 2, 4, 5, 6] x y
  | .imin64 _ _ _ x y => pairIn [0, 1, 2, 3, 4, 5, 6] x y
  | .imax64 _ _ _ x y => pairIn [0, 1, 2, 3, 4, 5, 6] x y
  | .iminu64 _ _ _ x y => pairIn [0, 1, 2, 3, 4, 5, 6] x y
  | .imaxu64 _ _ _ x y => pairIn [0, 1, 2, 3, 4, 5, 6] x y
  | .iand64 _ _ _ x y => pairIn [0, 1, 2, 3, 4, 5, 6] x y
  | .ior64 _ _ _ x y => pairIn [0, 1, 2, 3, 4, 5, 6] x y
  | .ixor64 _ _ _ x y => pairIn [0, 1, 2, 3, 4, 5, 6] x y
  | .iandn64 _ _ _ x y => pairIn [0, 1, 2, 3, 4, 5, 6] x y
  | .inot64 _ _ _ x => x.isOff
  | .ishl64 _ _ _ x y => pairIn [0, 1, 2, 3, 4, 5, 6] x y
  | .ishr64 _ _ _ x y => pairIn [0, 1, 2, 3, 4, 5, 6] x y
  | .isar64 _ _ _ x y => pairIn [0, 1, 2, 3, 4, 5, 6] x y
  | .irot64 _ _ _ x y => pairIn [0, 1, 2, 3, 4, 5, 6] x y
  | .ibfx64 _ _ _ x y => pairIn [0, 1, 2, 3, 4, 5, 6] x y
  | .ibfxu64 _ _ _ x y => pairIn [0, 1, 2, 3, 4, 5, 6] x y
  | .ibfi _ _ _ x y _ => pairIn [0, 1, 2, 4, 5, 6] x y
  | .ipopc64 _ _ _ x => x.isOff
  | .iclz64 _ _ _ x => x.isOff
  | .ibrev64 _ _ _ x => x.isOff
  | .iaddc _ _ _ x y _ _ => pairIn [0, 1, 2, 4, 5, 6] x y
  | .isubb _ _ _ x y _ _ => pairIn [0, 1, 2, 4, 5, 6] x y
  | .isetp _ _ _ _ x y => pairIn [0, 1, 2, 3, 4, 5, 6] x y
  | .isel _ _ _ x y _ => pairIn [0, 1, 2, 4, 5, 6] x y
  | .imov64 _ _ _ x => x.isUn .v
  | .iabs64 _ _ _ _ m => decide (m ≠ 2)
  | .ineg64 _ _ _ _ m => decide (m ≠ 2)
  | .idp4 _ _ _ x y _ _ => pairIn [0, 1, 2, 4, 5, 6] x y
  | .iprmt _ _ _ x y _ => pairIn [0, 1, 2, 4, 5, 6] x y
  | .isad _ _ _ x y _ _ => pairIn [0, 1, 2, 4, 5, 6] x y
  | .pmovBit _ _ _ x y => pairIn [2, 3] x y
  | .shflIdx _ _ _ x y => pairIn [0, 2, 3] x y
  | .shflUp _ _ _ x y => pairIn [0, 2, 3] x y
  | .shflDn _ _ _ x y => pairIn [0, 2, 3] x y
  | .shflXor _ _ _ x y => pairIn [0, 2, 3] x y
  | .redx _ _ o _ _ => decide (o.toNat ≤ 6)
  | .scan _ _ o _ _ _ => decide (o.toNat ≤ 6)
  | .barr _ o d x _ => x.isPay && decide ((o = 7 → d = 0 ∧ x = .v 0))
  | .fadd64 _ _ _ x y _ => pairIn [0, 1, 2, 3, 4, 5, 6] x y
  | .fsub64 _ _ _ x y _ => pairIn [0, 1, 2, 3, 4, 5, 6] x y
  | .fmul64 _ _ _ x y _ => pairIn [0, 1, 2, 3, 4, 5, 6] x y
  | .ffma _ _ _ x y _ _ => pairIn [0, 1, 2, 4, 5, 6] x y
  | .fmin64 _ _ _ x y => pairIn [0, 1, 2, 3, 4, 5, 6] x y
  | .fmax64 _ _ _ x y => pairIn [0, 1, 2, 3, 4, 5, 6] x y
  | .fcpsgn64 _ _ _ x y => pairIn [0, 1, 2, 3, 4, 5, 6] x y
  | .fsetp _ _ _ _ x y => pairIn [0, 1, 2, 3, 4, 5, 6] x y
  | .fscl64 _ _ _ x y _ => pairIn [0, 1, 2, 3, 4, 5, 6] x y
  | .hadd264 _ _ _ x y _ => pairIn [0, 1, 2, 3, 4, 5, 6] x y
  | .hmul264 _ _ _ x y _ => pairIn [0, 1, 2, 3, 4, 5, 6] x y
  | .hfma2 _ _ _ x y _ _ => pairIn [0, 1, 2, 4, 5, 6] x y
  | .cvt _ _ _ _ pair _ => decide (cvtRule pair = none)
  | .cvtpPack _ _ _ _ _ el _ => cvtpElem el
  | .cvtpPacksr _ _ _ _ _ el => cvtpElem el
  | .cvtpUnpack _ _ _ _ j el => cvtpElem el && decide ((el = 7 ∨ el = 8 → j.toNat < 2))
  | .ld _ _ wd _ off _ _ rq _ => off.isOff && decide (wd.toNat ≤ 6) && decide (rq ≠ 3)
  | .st _ _ wd _ off _ _ rq _ => off.isOff && decide (wd.toNat ≤ 4) && decide (rq ≠ 3)
  | .ldb _ _ wd _ off _ _ _ _ => off.isOff && decide (wd = 2 ∨ wd = 3)
  | .lds _ _ wd _ off _ _ => off.isOff && decide (wd.toNat ≤ 6)
  | .sts _ _ wd _ off _ _ => off.isOff && decide (wd.toNat ≤ 4)
  | .atom _ _ wd _ off _ _ _ _ _ _ z o => off.isOff && decide (wd = 2 ∨ wd = 3) && atomOk true wd o && decide ((o ≠ 9 → z = 0))
  | .red _ _ wd off _ _ _ _ _ _ o => off.isOff && decide (wd = 2 ∨ wd = 3) && atomOk false wd o
  | .atoms _ _ wd _ off _ _ _ _ z o => off.isOff && decide (wd = 2 ∨ wd = 3) && atomOk true wd o && decide ((o ≠ 9 → z = 0))
  | .cpy _ _ off sc _ _ _ _ dc cwc cw _ dcls ssp dsp win => off.isOff && decide ((ssp → sc = 0)) && decide ((dsp → dc = 0)) && decide ((cw = false → cwc = 0)) && decide (dcls ≠ 3) && decide ((win → ssp ∨ dsp))
  | .cpyt _ _ _ _ sc _ dc cwc ssp dsp cw _ => decide ((ssp → sc = 0)) && decide ((dsp → dc = 0)) && decide ((cw = false → cwc = 0))
  | .cpymMc _ _ off dat k _ cw cwc _ dsp _ => off.isPay && dat.isPay && decide (off.offSig = dat.offSig) && decide ((dsp → k = 0)) && decide ((cw = false → cwc = 0))
  | .cpymRd _ _ off dat k _ cw cwc _ dsp o _ => off.isPay && dat.isPay && decide (off.offSig = dat.offSig) && decide ((dsp → k = 0)) && decide ((cw = false → cwc = 0)) && cpymOpOk o
  | .waitt32 _ mask => decide (mask ≠ 0)
  | .waitt64 _ _ mask => decide (mask ≠ 0)
  | .waitw _ _ _ _ _ m => decide (m ≠ 3)
  | .isend _ _ _ _ _ _ _ _ _ _ cls _ _ _ => decide (cls ≠ 0) && decide (cls ≠ 7)
  | .isendSync _ _ _ _ _ _ _ _ _ _ cls _ _ _ => decide (cls ≠ 0) && decide (cls ≠ 7)
  | .tricls _ _ d _ cull pe _ => decide (cull ≠ 3) && decide (pe ≠ d)
  | .mma _ _ _ _ h _ amax _ cn _ _ _ => decide ((amax = false → cn = 0 ∧ h = 0))
  | .lbind _ lg => decide (lg ≠ 0) && decide (lg.toNat ≤ 5)
  | .lshl _ _ _ x y => pairIn [0, 3] x y && y.immLe 31
  | .lshr _ _ _ x y => pairIn [0, 3] x y && y.immLe 31
  | .lmacs _ _ d _ _ dhi _ _ => decide (dhi ≠ d)
  | .ill cause w0 idx bitPos => decide (cause = 0 ∧ w0.extractLsb' 3 7 = 0 ∧ idx = 0 ∧ bitPos = 3)
  | .coldReset | .warmReset .. | .freeze .. | .bootRecover .. | .bootSvcset .. | .eccRegfile .. | .patrolScrub ..
  | .mcCecntClear .. | .mcUecntClear .. | .hostAccess .. | .hostCoherenceTimeout .. | .linkUp .. | .linkDown ..
  | .ethFrameReceive .. | .txRingPoll .. | .txFrameStart .. | .txFrameSent .. | .gateEntryChange .. | .gctlSwap ..
  | .gateListSwap .. | .streamFilterClear .. | .streamEntryWrite .. | .ethTimeWrite .. | .deviceTimeSync ..
  | .flipHndWrite .. | .flipOffWrite .. | .displayVblank .. | .scanoutRefresh .. | .dstatRead ..
  | .registerWrite .. | .claim | .activate | .retire | .reset | .release | .setHandle | .revoke | .setDesc
  | .setFrame | .attest | .tblStatRead | .qwrWrite .. | .qretryWrite .. | .qctlWrite .. | .mboxWrite ..
  | .apertureWake | .gondolaTimer .. | .nopPacket .. | .launch .. | .launchComplete .. | .signalStore ..
  | .signalAdd .. | .wait .. | .waitReread .. | .copyPacket .. | .copyPacketComplete .. | .replayByPage ..
  | .replayByToken .. | .envelopeLoad .. | .envelopeDrop .. | .envelopeDropComplete .. | .pin .. | .unpin ..
  | .fencePacket .. | .timestamp .. | .tetherBind .. | .tetherUnbind .. | .mailboxHandlerLaunch .. | .rfetch ..
  | .bfx .. | .sigw .. | .dspt .. | .qpark .. | .qwake .. | .placeNeighbourhood | .starvationPromote ..
  | .winchWindow .. | .winchWrite .. | .neighbourhoodStart .. | .envelopeReload .. | .sliceOut ..
  | .partitionSwitch .. | .runStart .. | .forcedBoundary .. | .teamRetire .. | .teamWatchdog .. | .l1WayAdjust ..
  | .storeDrain .. | .loadPerform .. | .atomicPerform .. | .l1Drop .. | .registryRecall .. | .rrelPerform ..
  | .staleTimeout .. | .faultBatchClose .. | .faultRecordPost .. | .parkLimitEvict .. | .evictedTeamReturn ..
  | .engineParkEntryGrant .. | .enginePerform .. | .copyCompletion .. | .wbldPerform .. | .wbgthPerform ..
  | .bind .. | .regw .. | .texfBilinear .. | .texfTrilinear .. | .texfAnisotropic .. | .rastTriangle ..
  | .rastPixelTeamOffer .. | .travClosestHit .. | .travAnyHit .. | .travKeyLookup .. | .splatComposite ..
  | .blndBlend .. | .blndResolve .. | .titleRequest .. | .islandEntryWrite .. | .islHang .. | .waitwReread ..
  | .waitTimeout .. | .smov32 .. | .sadd32 .. | .sadd64 .. | .ssub32 .. | .ssub64 .. | .smul32 .. | .smul64 ..
  | .smulh32 .. | .smulh64 .. | .smulhu32 .. | .smulhu64 .. | .sand32 .. | .sand64 .. | .sor32 .. | .sor64 ..
  | .sxor32 .. | .sxor64 .. | .sandn32 .. | .sandn64 .. | .snot32 .. | .snot64 .. | .sshl32 .. | .sshl64 ..
  | .sshr32 .. | .sshr64 .. | .ssar32 .. | .ssar64 .. | .smin32 .. | .smin64 .. | .smax32 .. | .smax64 ..
  | .sminu32 .. | .sminu64 .. | .smaxu32 .. | .smaxu64 .. | .scmp .. | .ssel .. | .sldcW32 .. | .sldcW64 ..
  | .sbfx32 .. | .sbfx64 .. | .sbfi .. | .spopc32 .. | .spopc64 .. | .sclz32 .. | .sclz64 .. | .qand32 ..
  | .qand64 .. | .qor32 .. | .qor64 .. | .qxor32 .. | .qxor64 .. | .qnot32 .. | .qnot64 .. | .amovS ..
  | .amovImm .. | .amovLane .. | .amov32 .. | .amov64 .. | .aadd32 .. | .asub32 .. | .amul .. | .ashl ..
  | .proma .. | .promv .. | .promb .. | .promp .. | .rdfirst .. | .rdlast .. | .rdlane .. | .capnar ..
  | .caprst .. | .capqryBase .. | .capqryLen .. | .capqryRights .. | .iadd32 .. | .isub32 .. | .imul32 ..
  | .imulh32 .. | .imulhu32 .. | .imin32 .. | .imax32 .. | .iminu32 .. | .imaxu32 .. | .iand32 .. | .ior32 ..
  | .ixor32 .. | .iandn32 .. | .inot32 .. | .ishl32 .. | .ishr32 .. | .isar32 .. | .irot32 .. | .ibfx32 ..
  | .ibfxu32 .. | .ipopc32 .. | .iclz32 .. | .ibrev32 .. | .imov32 .. | .iabs32 .. | .ineg32 .. | .nop32 ..
  | .nop64 .. | .nop96 .. | .pand32 .. | .pand64 .. | .por32 .. | .por64 .. | .pxor32 .. | .pxor64 ..
  | .pandn32 .. | .pandn64 .. | .pnot32 .. | .pnot64 .. | .pmov32 .. | .pmov64 .. | .pmovQ .. | .pmovHelp32 ..
  | .pmovHelp64 .. | .voteAll .. | .voteAny .. | .voteBal .. | .voteCnt .. | .shflQx .. | .shflQy .. | .bra ..
  | .brx .. | .join .. | .loop .. | .brk32 .. | .brk64 .. | .cont32 .. | .cont64 .. | .callDisp .. | .callReg ..
  | .ret .. | .exit32 .. | .exit64 .. | .yield .. | .trap32 .. | .trap64 .. | .bkpt32 .. | .bkpt64 ..
  | .sread32 .. | .sread64 .. | .swrite32 .. | .swrite64 .. | .fadd32 .. | .fsub32 .. | .fmul32 .. | .fmin32 ..
  | .fmax32 .. | .fabs32 .. | .fabs64 .. | .fneg32 .. | .fneg64 .. | .fcpsgn32 .. | .frnd32 .. | .frnd64 ..
  | .fclass32 .. | .fclass64 .. | .fscl32 .. | .hadd232 .. | .hmul232 .. | .frcp32 .. | .frcp64 .. | .frsq32 ..
  | .frsq64 .. | .fsqrt32 .. | .fsqrt64 .. | .fexp232 .. | .fexp264 .. | .flog232 .. | .flog264 .. | .fsin32 ..
  | .fsin64 .. | .fcos32 .. | .fcos64 .. | .frandU3232 .. | .frandU3264 .. | .frandF3232 .. | .frandF3264 ..
  | .fenceAcq .. | .fenceRel .. | .fenceAr .. | .rrel32 .. | .rrel64 .. | .invr .. | .wbr .. | .flr .. | .pref ..
  | .notify .. | .notifySt .. | .qfence .. | .lstat32 .. | .lstat64 .. | .wbld .. | .wbgth .. | .mmas ..
  | .scacc .. | .lunbind .. | .ladd .. | .lsub .. | .lcmp .. | .synchronisationLost | .preemptionVerification ..
  | .domainVoltageChange .. | .apertureGating | .singleBitErrorCorrected .. => true

end Sys2Proof
end

