-- ==== Sys2Proof/Decode.lean ====
section
/-!
DEFINITION. The fields of a word group (R233-R235), the decoder of team instructions by the opcode map (R258-R269) with
the causes of R244 in the order of R167, the decoder of the gondola's Xgnd words (R54), and the encoder.
-/
namespace Sys2Proof

/-- The fields of the three words of a group (R233, R234, R235). -/
structure Fields where
  sig : BitVec 3
  sub : BitVec 3
  s1 : Spec
  d : Spec
  op : BitVec 7
  b : Bool
  len : BitVec 2
  mod : BitVec 2
  hint : BitVec 2
  rq : BitVec 2
  gop : BitVec 2
  g2 : BitVec 4
  g1 : BitVec 4
  s3 : Byte
  s2 : Byte
  x2 : Byte
  x1 : Byte
  s5 : Byte
  s4 : Byte
  deriving DecidableEq, Repr

def Fields.zero : Fields :=
  { sig := 0, sub := 0, s1 := 0, d := 0, op := 0, b := false, len := 0, mod := 0, hint := 0, rq := 0, gop := 0,
    g2 := 0, g1 := 0, s3 := 0, s2 := 0, x2 := 0, x1 := 0, s5 := 0, s4 := 0 }

/-- The fields of three words. -/
def Fields.ofWords (w0 w1 w2 : Word) : Fields :=
  { sig := w0.extractLsb' 29 3, sub := w0.extractLsb' 26 3, s1 := w0.extractLsb' 18 8, d := w0.extractLsb' 10 8,
    op := w0.extractLsb' 3 7, b := w0.getLsbD 2, len := w0.extractLsb' 0 2,
    mod := w1.extractLsb' 30 2, hint := w1.extractLsb' 28 2, rq := w1.extractLsb' 26 2, gop := w1.extractLsb' 24 2,
    g2 := w1.extractLsb' 20 4, g1 := w1.extractLsb' 16 4, s3 := w1.extractLsb' 8 8, s2 := w1.extractLsb' 0 8,
    x2 := w2.extractLsb' 24 8, x1 := w2.extractLsb' 16 8, s5 := w2.extractLsb' 8 8, s4 := w2.extractLsb' 0 8 }

/-- Word 0 of a group (R233). -/
def Fields.word0 (f : Fields) : Word :=
  f.sig ++ f.sub ++ f.s1 ++ f.d ++ f.op ++ BitVec.ofBool f.b ++ f.len

/-- Word 1 of a group (R234). -/
def Fields.word1 (f : Fields) : Word :=
  f.mod ++ f.hint ++ f.rq ++ f.gop ++ f.g2 ++ f.g1 ++ f.s3 ++ f.s2

/-- Word 2 of a group (R235). -/
def Fields.word2 (f : Fields) : Word := f.x2 ++ f.x1 ++ f.s5 ++ f.s4

/-- The displacement of BRA, LOOP, CALL and BRX in word 0 [31:10] (R242). -/
def Fields.disp (f : Fields) : BitVec 22 := f.sig ++ f.sub ++ f.s1 ++ f.d

/-- The join displacement of BRX in word 2 [21:0] (R242). -/
def Fields.joinDisp (f : Fields) : BitVec 22 := f.x1.extractLsb' 0 6 ++ f.s5 ++ f.s4

/-- The rows of the opcode map (R264-R269), named as the constructors of Instr. -/
inductive Row where
  | smov32 | smov64 | sadd32 | sadd64 | ssub32 | ssub64 | smul32 | smul64 | smulh32 | smulh64 | smulhu32
  | smulhu64 | sand32 | sand64 | sor32 | sor64 | sxor32 | sxor64 | sandn32 | sandn64 | snot32 | snot64 | sshl32
  | sshl64 | sshr32 | sshr64 | ssar32 | ssar64 | smin32 | smin64 | smax32 | smax64 | sminu32 | sminu64 | smaxu32
  | smaxu64 | scmp | ssel | sldcW32 | sldcW64 | sbfx32 | sbfx64 | sbfi | spopc32 | spopc64 | sclz32 | sclz64
  | qand32 | qand64 | qor32 | qor64 | qxor32 | qxor64 | qnot32 | qnot64 | amovS | amovImm | amovLane | amov32
  | amov64 | aadd32 | aadd64 | asub32 | asub64 | amul | ashl | proma | promv | promb | promp | rdfirst | rdlast
  | rdlane | capnar | caprst | capqryBase | capqryLen | capqryRights | iadd32 | iadd64 | isub32 | isub64 | imul32
  | imul64 | imulh32 | imulh64 | imulhu32 | imulhu64 | imad | imin32 | imin64 | imax32 | imax64 | iminu32
  | iminu64 | imaxu32 | imaxu64 | iand32 | iand64 | ior32 | ior64 | ixor32 | ixor64 | iandn32 | iandn64 | inot32
  | inot64 | ishl32 | ishl64 | ishr32 | ishr64 | isar32 | isar64 | irot32 | irot64 | ibfx32 | ibfx64 | ibfxu32
  | ibfxu64 | ibfi | ipopc32 | ipopc64 | iclz32 | iclz64 | ibrev32 | ibrev64 | iaddc | isubb | isetp | isel
  | imov32 | imov64 | iabs32 | iabs64 | ineg32 | ineg64 | idp4 | iprmt | isad | nop32 | nop64 | nop96 | pand32
  | pand64 | por32 | por64 | pxor32 | pxor64 | pandn32 | pandn64 | pnot32 | pnot64 | pmov32 | pmov64 | pmovBit
  | pmovQ | pmovHelp32 | pmovHelp64 | voteAll | voteAny | voteBal | voteCnt | shflIdx | shflUp | shflDn | shflXor
  | shflQx | shflQy | redx | scan | barr | bra | brx | join | loop | brk32 | brk64 | cont32 | cont64 | callDisp
  | callReg | ret | exit32 | exit64 | yield | trap32 | trap64 | bkpt32 | bkpt64 | sread32 | sread64 | swrite32
  | swrite64 | fadd32 | fadd64 | fsub32 | fsub64 | fmul32 | fmul64 | ffma | fmin32 | fmin64 | fmax32 | fmax64
  | fabs32 | fabs64 | fneg32 | fneg64 | fcpsgn32 | fcpsgn64 | fsetp | frnd32 | frnd64 | fclass32 | fclass64
  | fscl32 | fscl64 | hadd232 | hadd264 | hmul232 | hmul264 | hfma2 | frcp32 | frcp64 | frsq32 | frsq64 | fsqrt32
  | fsqrt64 | fexp232 | fexp264 | flog232 | flog264 | fsin32 | fsin64 | fcos32 | fcos64 | frandU3232 | frandU3264
  | frandF3232 | frandF3264 | cvt | cvtpPack | cvtpPacksr | cvtpUnpack | ld | st | ldb | lds | sts | atom | red
  | atoms | fenceAcq | fenceRel | fenceAr | rrel32 | rrel64 | invr | wbr | flr | pref | cpy | cpyt | cpymMc
  | cpymRd | waitt32 | waitt64 | waitw | notify | notifySt | qfence | isend | isendSync | lstat32 | lstat64
  | tricls | wbld | wbgth | mma | mmas | scacc | lbind | lunbind | ladd | lsub | lshl | lshr | lmacs | lcmp
  deriving DecidableEq, Repr

/-- What a word group is: a row of the map, or a cause with the offending field (R165 form W, R244). -/
inductive Verdict where
  | ok (r : Row)
  | bad (cause : Byte) (idx : BitVec 2) (bitPos : BitVec 5)
  deriving DecidableEq, Repr

/-- The offending field at word `w`, bit `b` plus the offset of the sub-field. -/
def at_ (w b : Nat) (k : Option Nat) : Option (Nat × Nat) := k.map fun i => (w, b + i)

/-- The guard term of a G field (R234). -/
def gTerm (g : BitVec 4) : PTerm := { neg := g.getLsbD 3, idx := g.extractLsb' 0 3 }

/-- The guard (R234, R240). -/
def Fields.guard (f : Fields) : Guard :=
  if f.gop = 0 then .always
  else if f.gop = 1 then .one (gTerm f.g1)
  else if f.gop = 2 then .both (gTerm f.g1) (gTerm f.g2)
  else .either (gTerm f.g1) (gTerm f.g2)

/-- A guard field that GOP does not use must be zero (R240). -/
def Fields.guardFields (f : Fields) : Option (Nat × Nat) :=
  if f.gop = 0 ∧ f.g1 ≠ 0 then some (1, 16)
  else if f.gop.toNat < 2 ∧ f.g2 ≠ 0 then some (1, 20)
  else none

/-- S2 must be zero under SIG 011 (R237). -/
def Fields.zeroIfImm (f : Fields) : Option (Nat × Nat) := if f.sig = 3 ∧ f.s2 ≠ 0 then some (1, 0) else none

/-- S3 is the immediate under SIG 011 and must otherwise be zero. -/
def Fields.zeroUnlessImm (f : Fields) : Option (Nat × Nat) := if f.sig ≠ 3 ∧ f.s3 ≠ 0 then some (1, 8) else none

/-- S1 must be zero under SIG 011 of a unary instruction (R259). -/
def Fields.zeroS1IfImm (f : Fields) : Option (Nat × Nat) := if f.sig = 3 ∧ f.s1 ≠ 0 then some (0, 18) else none

/-- The first source (R237). -/
def Fields.opX (f : Fields) : Opd :=
  if f.sig = 4 ∨ f.sig = 5 then .a f.s1 else if f.sig = 6 then .s f.s1 else .v f.s1

/-- The second source (R237). -/
def Fields.opY (f : Fields) : Opd :=
  if f.sig = 0 then .v f.s2
  else if f.sig = 1 ∨ f.sig = 5 then .a f.s2
  else if f.sig = 3 then .imm f.s3
  else .s f.s2

/-- The source of a unary instruction that admits SIG 011 (R259). -/
def Fields.opUn (f : Fields) (c : UnClass) : Opd :=
  if f.sig = 3 then .imm f.s3 else match c with | .v => .v f.s1 | .s => .s f.s1

/-- A memory offset (R259, cell m). -/
def Fields.off (f : Fields) : Opd :=
  if f.sig = 0 then .v f.s1 else if f.sig = 5 then .a f.s1 else .s f.s1

/-- The data operand of CPYM, of the class of its offset (R345). -/
def Fields.dat (f : Fields) : Opd := if f.sig = 0 then .v f.s2 else .s f.s2

/-- The length forms that an OP and SUB have (R233, R258, R260). -/
def Fields.forms (f : Fields) (r32 r64 r96 : Option Verdict) : Verdict :=
  match f.len.toNat with
  | 0 => r32.getD (.bad 0x0F 0 0)
  | 1 => r64.getD (.bad 0x0F 0 0)
  | 2 => r96.getD (.bad 0x0F 0 0)
  | _ => .bad 0x02 0 0

/-- One row of the map: the admitted SIG values and the field checks, in the order of R167. -/
def Fields.row (f : Fields) (sigs : List Nat) (chks : List (Option (Nat × Nat))) (r : Row) : Verdict :=
  if !sigs.contains f.sig.toNat then .bad 0x04 0 29
  else match chks.findSome? id with
    | some (w, b) => .bad 0x03 (BitVec.ofNat 2 w) (BitVec.ofNat 5 b)
    | none => .ok r

/-- An instruction that takes no guard (R240); `all` where G1 and G2 count as well (R243). -/
def Fields.noGuard (f : Fields) (all : Bool) (v : Verdict) : Verdict :=
  if f.gop ≠ 0 ∨ (all ∧ (f.g1 ≠ 0 ∨ f.g2 ≠ 0)) then .bad 0x09 1 24 else v

/-- An operation byte in X1 that must be admitted (R263). -/
def Fields.allowOp (_ : Fields) (ok : Bool) (v : Verdict) : Verdict := if ok then v else .bad 0x01 2 16

/-- BRX (R240, R242). -/
def decodeBrx (f : Fields) : Verdict :=
  if f.gop ≠ 1 then .bad 0x09 1 24
  else match [at_ 1 0 (nz f.s2), at_ 1 8 (nz f.s3), at_ 1 20 (nz f.g2), at_ 1 26 (nz f.rq), at_ 1 28 (nz f.hint),
      at_ 1 30 (nz f.mod), at_ 2 22 (nz (f.x2 ++ f.x1.extractLsb' 6 2))].findSome? id with
    | some (w, b) => .bad 0x03 (BitVec.ofNat 2 w) (BitVec.ofNat 5 b)
    | none => .ok .brx

/-- OP 0x01 of the opcode map (R264-R269). -/
def decodeOp01 (f : Fields) : Verdict :=
  match f.sub.toNat with
  | 0 => f.forms (some (f.row [0] [at_ 0 10 (nz f.d), at_ 0 18 (nz f.s1)] .nop32))
      (some (f.row [0] [at_ 0 10 (nz f.d), at_ 0 18 (nz f.s1), at_ 1 0 (nz f.s2), at_ 1 8 (nz f.s3), f.guardFields, at_ 1 26 (nz f.rq), at_ 1 28 (nz f.hint), at_ 1 30 (nz f.mod)] .nop64))
      (some (f.row [0] [at_ 0 10 (nz f.d), at_ 0 18 (nz f.s1), at_ 1 0 (nz f.s2), at_ 1 8 (nz f.s3), f.guardFields, at_ 1 26 (nz f.rq), at_ 1 28 (nz f.hint), at_ 1 30 (nz f.mod), at_ 2 0 (nz f.s4), at_ 2 8 (nz f.s5), at_ 2 16 (nz f.x1), at_ 2 24 (nz f.x2)] .nop96))
  | _ => .bad 0x01 0 26

/-- OP 0x02 of the opcode map (R264-R269). -/
def decodeOp02 (f : Fields) : Verdict :=
  match f.sub.toNat with
  | 0 => f.forms (some (f.row [6] [] .smov32))
      (some (f.row [6, 3] [f.zeroS1IfImm, at_ 1 0 (nz f.s2), f.zeroUnlessImm, f.guardFields, at_ 1 26 (nz f.rq), at_ 1 28 (nz f.hint), at_ 1 30 (nz f.mod)] .smov64))
      none
  | _ => .bad 0x01 0 26

/-- OP 0x03 of the opcode map (R264-R269). -/
def decodeOp03 (f : Fields) : Verdict :=
  match f.sub.toNat with
  | 0 => f.forms (some (f.row [6] [] .sadd32))
      (some (f.row [6] [at_ 1 8 (nz f.s3), f.guardFields, at_ 1 26 (nz f.rq), at_ 1 28 (nz f.hint), at_ 1 30 (nz f.mod)] .sadd64))
      none
  | _ => .bad 0x01 0 26

/-- OP 0x04 of the opcode map (R264-R269). -/
def decodeOp04 (f : Fields) : Verdict :=
  match f.sub.toNat with
  | 0 => f.forms (some (f.row [6] [] .ssub32))
      (some (f.row [6] [at_ 1 8 (nz f.s3), f.guardFields, at_ 1 26 (nz f.rq), at_ 1 28 (nz f.hint), at_ 1 30 (nz f.mod)] .ssub64))
      none
  | _ => .bad 0x01 0 26

/-- OP 0x05 of the opcode map (R264-R269). -/
def decodeOp05 (f : Fields) : Verdict :=
  match f.sub.toNat with
  | 0 => f.forms (some (f.row [6] [] .smul32))
      (some (f.row [6] [at_ 1 8 (nz f.s3), f.guardFields, at_ 1 26 (nz f.rq), at_ 1 28 (nz f.hint), at_ 1 30 (nz f.mod)] .smul64))
      none
  | 1 => f.forms (some (f.row [6] [] .smulh32))
      (some (f.row [6] [at_ 1 8 (nz f.s3), f.guardFields, at_ 1 26 (nz f.rq), at_ 1 28 (nz f.hint), at_ 1 30 (nz f.mod)] .smulh64))
      none
  | 2 => f.forms (some (f.row [6] [] .smulhu32))
      (some (f.row [6] [at_ 1 8 (nz f.s3), f.guardFields, at_ 1 26 (nz f.rq), at_ 1 28 (nz f.hint), at_ 1 30 (nz f.mod)] .smulhu64))
      none
  | _ => .bad 0x01 0 26

/-- OP 0x06 of the opcode map (R264-R269). -/
def decodeOp06 (f : Fields) : Verdict :=
  match f.sub.toNat with
  | 0 => f.forms (some (f.row [6] [] .sand32))
      (some (f.row [6] [at_ 1 8 (nz f.s3), f.guardFields, at_ 1 26 (nz f.rq), at_ 1 28 (nz f.hint), at_ 1 30 (nz f.mod)] .sand64))
      none
  | 1 => f.forms (some (f.row [6] [] .sor32))
      (some (f.row [6] [at_ 1 8 (nz f.s3), f.guardFields, at_ 1 26 (nz f.rq), at_ 1 28 (nz f.hint), at_ 1 30 (nz f.mod)] .sor64))
      none
  | 2 => f.forms (some (f.row [6] [] .sxor32))
      (some (f.row [6] [at_ 1 8 (nz f.s3), f.guardFields, at_ 1 26 (nz f.rq), at_ 1 28 (nz f.hint), at_ 1 30 (nz f.mod)] .sxor64))
      none
  | 3 => f.forms (some (f.row [6] [] .sandn32))
      (some (f.row [6] [at_ 1 8 (nz f.s3), f.guardFields, at_ 1 26 (nz f.rq), at_ 1 28 (nz f.hint), at_ 1 30 (nz f.mod)] .sandn64))
      none
  | 4 => f.forms (some (f.row [6] [] .snot32))
      (some (f.row [6] [at_ 1 0 (nz f.s2), at_ 1 8 (nz f.s3), f.guardFields, at_ 1 26 (nz f.rq), at_ 1 28 (nz f.hint), at_ 1 30 (nz f.mod)] .snot64))
      none
  | _ => .bad 0x01 0 26

/-- OP 0x07 of the opcode map (R264-R269). -/
def decodeOp07 (f : Fields) : Verdict :=
  match f.sub.toNat with
  | 0 => f.forms (some (f.row [6] [] .sshl32))
      (some (f.row [6] [at_ 1 8 (nz f.s3), f.guardFields, at_ 1 26 (nz f.rq), at_ 1 28 (nz f.hint), at_ 1 30 (nz f.mod)] .sshl64))
      none
  | 1 => f.forms (some (f.row [6] [] .sshr32))
      (some (f.row [6] [at_ 1 8 (nz f.s3), f.guardFields, at_ 1 26 (nz f.rq), at_ 1 28 (nz f.hint), at_ 1 30 (nz f.mod)] .sshr64))
      none
  | 2 => f.forms (some (f.row [6] [] .ssar32))
      (some (f.row [6] [at_ 1 8 (nz f.s3), f.guardFields, at_ 1 26 (nz f.rq), at_ 1 28 (nz f.hint), at_ 1 30 (nz f.mod)] .ssar64))
      none
  | _ => .bad 0x01 0 26

/-- OP 0x08 of the opcode map (R264-R269). -/
def decodeOp08 (f : Fields) : Verdict :=
  match f.sub.toNat with
  | 0 => f.forms (some (f.row [6] [] .smin32))
      (some (f.row [6] [at_ 1 8 (nz f.s3), f.guardFields, at_ 1 26 (nz f.rq), at_ 1 28 (nz f.hint), at_ 1 30 (nz f.mod)] .smin64))
      none
  | 1 => f.forms (some (f.row [6] [] .smax32))
      (some (f.row [6] [at_ 1 8 (nz f.s3), f.guardFields, at_ 1 26 (nz f.rq), at_ 1 28 (nz f.hint), at_ 1 30 (nz f.mod)] .smax64))
      none
  | 2 => f.forms (some (f.row [6] [] .sminu32))
      (some (f.row [6] [at_ 1 8 (nz f.s3), f.guardFields, at_ 1 26 (nz f.rq), at_ 1 28 (nz f.hint), at_ 1 30 (nz f.mod)] .sminu64))
      none
  | 3 => f.forms (some (f.row [6] [] .smaxu32))
      (some (f.row [6] [at_ 1 8 (nz f.s3), f.guardFields, at_ 1 26 (nz f.rq), at_ 1 28 (nz f.hint), at_ 1 30 (nz f.mod)] .smaxu64))
      none
  | _ => .bad 0x01 0 26

/-- OP 0x09 of the opcode map (R264-R269). -/
def decodeOp09 (f : Fields) : Verdict :=
  f.forms none
      (some (f.row [6] [at_ 0 10 (predHigh f.d), at_ 1 8 (nz f.s3), f.guardFields, at_ 1 26 (nz f.rq), at_ 1 28 (nz f.hint), at_ 1 30 (nz f.mod)] .scmp))
      none

/-- OP 0x0A of the opcode map (R264-R269). -/
def decodeOp0A (f : Fields) : Verdict :=
  match f.sub.toNat with
  | 0 => f.forms none
      (some (f.row [6] [at_ 1 8 (predHigh f.s3), f.guardFields, at_ 1 26 (nz f.rq), at_ 1 28 (nz f.hint), at_ 1 30 (nz f.mod)] .ssel))
      none
  | _ => .bad 0x01 0 26

/-- OP 0x0B of the opcode map (R264-R269). -/
def decodeOp0B (f : Fields) : Verdict :=
  match f.sub.toNat with
  | 0 => f.forms none
      (some (f.row [6] [at_ 1 8 (nz f.s3), f.guardFields, at_ 1 26 (nz f.rq), at_ 1 28 (nz f.hint), at_ 1 30 (nz f.mod)] .sldcW32))
      none
  | 1 => f.forms none
      (some (f.row [6] [at_ 1 8 (nz f.s3), f.guardFields, at_ 1 26 (nz f.rq), at_ 1 28 (nz f.hint), at_ 1 30 (nz f.mod)] .sldcW64))
      none
  | _ => .bad 0x01 0 26

/-- OP 0x0C of the opcode map (R264-R269). -/
def decodeOp0C (f : Fields) : Verdict :=
  match f.sub.toNat with
  | 0 => f.forms (some (f.row [6] [] .sbfx32))
      (some (f.row [6] [at_ 1 8 (nz f.s3), f.guardFields, at_ 1 26 (nz f.rq), at_ 1 28 (nz f.hint), at_ 1 30 (nz f.mod)] .sbfx64))
      none
  | 1 => f.forms none
      (some (f.row [6] [f.guardFields, at_ 1 26 (nz f.rq), at_ 1 28 (nz f.hint), at_ 1 30 (nz f.mod)] .sbfi))
      none
  | 2 => f.forms (some (f.row [6] [] .spopc32))
      (some (f.row [6] [at_ 1 0 (nz f.s2), at_ 1 8 (nz f.s3), f.guardFields, at_ 1 26 (nz f.rq), at_ 1 28 (nz f.hint), at_ 1 30 (nz f.mod)] .spopc64))
      none
  | 3 => f.forms (some (f.row [6] [] .sclz32))
      (some (f.row [6] [at_ 1 0 (nz f.s2), at_ 1 8 (nz f.s3), f.guardFields, at_ 1 26 (nz f.rq), at_ 1 28 (nz f.hint), at_ 1 30 (nz f.mod)] .sclz64))
      none
  | _ => .bad 0x01 0 26

/-- OP 0x0D of the opcode map (R264-R269). -/
def decodeOp0D (f : Fields) : Verdict :=
  match f.sub.toNat with
  | 0 => f.forms (some (f.row [0] [at_ 0 10 (predHigh f.d), at_ 0 18 (predHigh f.s1)] .qand32))
      (some (f.row [0] [at_ 0 10 (predHigh f.d), at_ 0 18 (predHigh f.s1), at_ 1 0 (predHigh f.s2), at_ 1 8 (nz f.s3), f.guardFields, at_ 1 26 (nz f.rq), at_ 1 28 (nz f.hint), at_ 1 30 (nz f.mod)] .qand64))
      none
  | 1 => f.forms (some (f.row [0] [at_ 0 10 (predHigh f.d), at_ 0 18 (predHigh f.s1)] .qor32))
      (some (f.row [0] [at_ 0 10 (predHigh f.d), at_ 0 18 (predHigh f.s1), at_ 1 0 (predHigh f.s2), at_ 1 8 (nz f.s3), f.guardFields, at_ 1 26 (nz f.rq), at_ 1 28 (nz f.hint), at_ 1 30 (nz f.mod)] .qor64))
      none
  | 2 => f.forms (some (f.row [0] [at_ 0 10 (predHigh f.d), at_ 0 18 (predHigh f.s1)] .qxor32))
      (some (f.row [0] [at_ 0 10 (predHigh f.d), at_ 0 18 (predHigh f.s1), at_ 1 0 (predHigh f.s2), at_ 1 8 (nz f.s3), f.guardFields, at_ 1 26 (nz f.rq), at_ 1 28 (nz f.hint), at_ 1 30 (nz f.mod)] .qxor64))
      none
  | 3 => f.forms (some (f.row [0] [at_ 0 10 (predHigh f.d), at_ 0 18 (predHigh f.s1)] .qnot32))
      (some (f.row [0] [at_ 0 10 (predHigh f.d), at_ 0 18 (predHigh f.s1), at_ 1 0 (nz f.s2), at_ 1 8 (nz f.s3), f.guardFields, at_ 1 26 (nz f.rq), at_ 1 28 (nz f.hint), at_ 1 30 (nz f.mod)] .qnot64))
      none
  | _ => .bad 0x01 0 26

/-- OP 0x10 of the opcode map (R264-R269). -/
def decodeOp10 (f : Fields) : Verdict :=
  match f.sub.toNat with
  | 0 => f.forms none
      (some (f.row [6] [at_ 1 0 (nz f.s2), at_ 1 8 (nz f.s3), f.guardFields, at_ 1 26 (nz f.rq), at_ 1 28 (nz f.hint), at_ 1 30 (nz f.mod)] .amovS))
      none
  | 1 => f.forms none
      (some (f.row [3] [at_ 0 18 (nz f.s1), at_ 1 0 (nz f.s2), f.guardFields, at_ 1 26 (nz f.rq), at_ 1 28 (nz f.hint), at_ 1 30 (nz f.mod)] .amovImm))
      none
  | 2 => f.forms (some (f.row [0] [at_ 0 18 (nz f.s1)] .amovLane))
      none
      none
  | 3 => f.forms (some (f.row [5] [] .amov32))
      (some (f.row [5] [at_ 1 0 (nz f.s2), at_ 1 8 (nz f.s3), f.guardFields, at_ 1 26 (nz f.rq), at_ 1 28 (nz f.hint), at_ 1 30 (nz f.mod)] .amov64))
      none
  | _ => .bad 0x01 0 26

/-- OP 0x11 of the opcode map (R264-R269). -/
def decodeOp11 (f : Fields) : Verdict :=
  match f.sub.toNat with
  | 0 => f.forms (some (f.row [5] [] .aadd32))
      (some (f.row [5, 4] [at_ 1 8 (nz f.s3), f.guardFields, at_ 1 26 (nz f.rq), at_ 1 28 (nz f.hint), at_ 1 30 (nz f.mod)] .aadd64))
      none
  | _ => .bad 0x01 0 26

/-- OP 0x12 of the opcode map (R264-R269). -/
def decodeOp12 (f : Fields) : Verdict :=
  match f.sub.toNat with
  | 0 => f.forms (some (f.row [5] [] .asub32))
      (some (f.row [5, 4] [at_ 1 8 (nz f.s3), f.guardFields, at_ 1 26 (nz f.rq), at_ 1 28 (nz f.hint), at_ 1 30 (nz f.mod)] .asub64))
      none
  | _ => .bad 0x01 0 26

/-- OP 0x13 of the opcode map (R264-R269). -/
def decodeOp13 (f : Fields) : Verdict :=
  match f.sub.toNat with
  | 0 => f.forms none
      (some (f.row [4] [at_ 1 8 (nz f.s3), f.guardFields, at_ 1 26 (nz f.rq), at_ 1 28 (nz f.hint), at_ 1 30 (nz f.mod)] .amul))
      none
  | _ => .bad 0x01 0 26

/-- OP 0x14 of the opcode map (R264-R269). -/
def decodeOp14 (f : Fields) : Verdict :=
  match f.sub.toNat with
  | 0 => f.forms none
      (some (f.row [4] [at_ 1 8 (nz f.s3), f.guardFields, at_ 1 26 (nz f.rq), at_ 1 28 (nz f.hint), at_ 1 30 (nz f.mod)] .ashl))
      none
  | _ => .bad 0x01 0 26

/-- OP 0x15 of the opcode map (R264-R269). -/
def decodeOp15 (f : Fields) : Verdict :=
  match f.sub.toNat with
  | 0 => f.forms none
      (some (f.row [6] [at_ 1 8 (nz f.s3), f.guardFields, at_ 1 26 (nz f.rq), at_ 1 28 (nz f.hint), at_ 1 30 (nz f.mod)] .proma))
      none
  | 1 => f.forms none
      (some (f.row [1] [at_ 0 18 (nz f.s1), at_ 1 8 (nz f.s3), f.guardFields, at_ 1 26 (nz f.rq), at_ 1 28 (nz f.hint), at_ 1 30 (nz f.mod)] .promv))
      none
  | 2 => f.forms none
      (some (f.row [2] [at_ 0 18 (nz f.s1), at_ 1 8 (nz f.s3), f.guardFields, at_ 1 26 (nz f.rq), at_ 1 28 (nz f.hint), at_ 1 30 (nz f.mod)] .promb))
      none
  | 3 => f.forms none
      (some (f.row [0] [at_ 0 10 (predHigh f.d), at_ 0 18 (predHigh f.s1), at_ 1 0 (nz f.s2), at_ 1 8 (nz f.s3), f.guardFields, at_ 1 26 (nz f.rq), at_ 1 28 (nz f.hint), at_ 1 30 (nz f.mod)] .promp))
      none
  | _ => .bad 0x01 0 26

/-- OP 0x16 of the opcode map (R264-R269). -/
def decodeOp16 (f : Fields) : Verdict :=
  match f.sub.toNat with
  | 0 => f.forms none
      (some (f.row [0] [at_ 1 0 (nz f.s2), at_ 1 8 (nz f.s3), f.guardFields, at_ 1 26 (nz f.rq), at_ 1 28 (nz f.hint), at_ 1 30 (nz f.mod)] .rdfirst))
      none
  | 1 => f.forms none
      (some (f.row [0] [at_ 1 0 (nz f.s2), at_ 1 8 (nz f.s3), f.guardFields, at_ 1 26 (nz f.rq), at_ 1 28 (nz f.hint), at_ 1 30 (nz f.mod)] .rdlast))
      none
  | 2 => f.forms none
      (some (f.row [2] [at_ 1 8 (nz f.s3), f.guardFields, at_ 1 26 (nz f.rq), at_ 1 28 (nz f.hint), at_ 1 30 (nz f.mod)] .rdlane))
      none
  | _ => .bad 0x01 0 26

/-- OP 0x17 of the opcode map (R264-R269). -/
def decodeOp17 (f : Fields) : Verdict :=
  match f.sub.toNat with
  | 0 => f.forms none
      (some (f.row [6] [f.guardFields, at_ 1 26 (nz f.rq), at_ 1 28 (nz f.hint), at_ 1 30 (nz f.mod)] .capnar))
      none
  | 1 => f.forms none
      (some (f.row [6] [at_ 1 8 (nz f.s3), f.guardFields, at_ 1 26 (nz f.rq), at_ 1 28 (nz f.hint), at_ 1 30 (nz f.mod)] .caprst))
      none
  | 2 => f.forms none
      (some (f.row [0] [at_ 1 0 (nz f.s2), at_ 1 8 (nz f.s3), f.guardFields, at_ 1 26 (nz f.rq), at_ 1 28 (nz f.hint), at_ 1 30 (nz f.mod)] .capqryBase))
      none
  | 3 => f.forms none
      (some (f.row [0] [at_ 1 0 (nz f.s2), at_ 1 8 (nz f.s3), f.guardFields, at_ 1 26 (nz f.rq), at_ 1 28 (nz f.hint), at_ 1 30 (nz f.mod)] .capqryLen))
      none
  | 4 => f.forms none
      (some (f.row [0] [at_ 1 0 (nz f.s2), at_ 1 8 (nz f.s3), f.guardFields, at_ 1 26 (nz f.rq), at_ 1 28 (nz f.hint), at_ 1 30 (nz f.mod)] .capqryRights))
      none
  | _ => .bad 0x01 0 26

/-- OP 0x18 of the opcode map (R264-R269). -/
def decodeOp18 (f : Fields) : Verdict :=
  match f.sub.toNat with
  | 0 => f.forms (some (f.row [0] [] .iadd32))
      (some (f.row [0, 1, 2, 3, 4, 5, 6] [f.zeroIfImm, f.zeroUnlessImm, f.guardFields, at_ 1 26 (nz f.rq), at_ 1 28 (nz f.hint)] .iadd64))
      none
  | _ => .bad 0x01 0 26

/-- OP 0x19 of the opcode map (R264-R269). -/
def decodeOp19 (f : Fields) : Verdict :=
  match f.sub.toNat with
  | 0 => f.forms (some (f.row [0] [] .isub32))
      (some (f.row [0, 1, 2, 3, 4, 5, 6] [f.zeroIfImm, f.zeroUnlessImm, f.guardFields, at_ 1 26 (nz f.rq), at_ 1 28 (nz f.hint)] .isub64))
      none
  | _ => .bad 0x01 0 26

/-- OP 0x1A of the opcode map (R264-R269). -/
def decodeOp1A (f : Fields) : Verdict :=
  match f.sub.toNat with
  | 0 => f.forms (some (f.row [0] [] .imul32))
      (some (f.row [0, 1, 2, 3, 4, 5, 6] [f.zeroIfImm, f.zeroUnlessImm, f.guardFields, at_ 1 26 (nz f.rq), at_ 1 28 (nz f.hint)] .imul64))
      none
  | 1 => f.forms (some (f.row [0] [] .imulh32))
      (some (f.row [0, 1, 2, 3, 4, 5, 6] [f.zeroIfImm, f.zeroUnlessImm, f.guardFields, at_ 1 26 (nz f.rq), at_ 1 28 (nz f.hint), at_ 1 30 (nz f.mod)] .imulh64))
      none
  | 2 => f.forms (some (f.row [0] [] .imulhu32))
      (some (f.row [0, 1, 2, 3, 4, 5, 6] [f.zeroIfImm, f.zeroUnlessImm, f.guardFields, at_ 1 26 (nz f.rq), at_ 1 28 (nz f.hint), at_ 1 30 (nz f.mod)] .imulhu64))
      none
  | _ => .bad 0x01 0 26

/-- OP 0x1B of the opcode map (R264-R269). -/
def decodeOp1B (f : Fields) : Verdict :=
  match f.sub.toNat with
  | 0 => f.forms none
      (some (f.row [0, 1, 2, 4, 5, 6] [f.guardFields, at_ 1 26 (nz f.rq), at_ 1 28 (nz f.hint)] .imad))
      none
  | _ => .bad 0x01 0 26

/-- OP 0x1C of the opcode map (R264-R269). -/
def decodeOp1C (f : Fields) : Verdict :=
  match f.sub.toNat with
  | 0 => f.forms (some (f.row [0] [] .imin32))
      (some (f.row [0, 1, 2, 3, 4, 5, 6] [f.zeroIfImm, f.zeroUnlessImm, f.guardFields, at_ 1 26 (nz f.rq), at_ 1 28 (nz f.hint), at_ 1 30 (nz f.mod)] .imin64))
      none
  | 1 => f.forms (some (f.row [0] [] .imax32))
      (some (f.row [0, 1, 2, 3, 4, 5, 6] [f.zeroIfImm, f.zeroUnlessImm, f.guardFields, at_ 1 26 (nz f.rq), at_ 1 28 (nz f.hint), at_ 1 30 (nz f.mod)] .imax64))
      none
  | 2 => f.forms (some (f.row [0] [] .iminu32))
      (some (f.row [0, 1, 2, 3, 4, 5, 6] [f.zeroIfImm, f.zeroUnlessImm, f.guardFields, at_ 1 26 (nz f.rq), at_ 1 28 (nz f.hint), at_ 1 30 (nz f.mod)] .iminu64))
      none
  | 3 => f.forms (some (f.row [0] [] .imaxu32))
      (some (f.row [0, 1, 2, 3, 4, 5, 6] [f.zeroIfImm, f.zeroUnlessImm, f.guardFields, at_ 1 26 (nz f.rq), at_ 1 28 (nz f.hint), at_ 1 30 (nz f.mod)] .imaxu64))
      none
  | _ => .bad 0x01 0 26

/-- OP 0x1D of the opcode map (R264-R269). -/
def decodeOp1D (f : Fields) : Verdict :=
  match f.sub.toNat with
  | 0 => f.forms (some (f.row [0] [] .iand32))
      (some (f.row [0, 1, 2, 3, 4, 5, 6] [f.zeroIfImm, f.zeroUnlessImm, f.guardFields, at_ 1 26 (nz f.rq), at_ 1 28 (nz f.hint), at_ 1 30 (nz f.mod)] .iand64))
      none
  | 1 => f.forms (some (f.row [0] [] .ior32))
      (some (f.row [0, 1, 2, 3, 4, 5, 6] [f.zeroIfImm, f.zeroUnlessImm, f.guardFields, at_ 1 26 (nz f.rq), at_ 1 28 (nz f.hint), at_ 1 30 (nz f.mod)] .ior64))
      none
  | 2 => f.forms (some (f.row [0] [] .ixor32))
      (some (f.row [0, 1, 2, 3, 4, 5, 6] [f.zeroIfImm, f.zeroUnlessImm, f.guardFields, at_ 1 26 (nz f.rq), at_ 1 28 (nz f.hint), at_ 1 30 (nz f.mod)] .ixor64))
      none
  | 3 => f.forms (some (f.row [0] [] .iandn32))
      (some (f.row [0, 1, 2, 3, 4, 5, 6] [f.zeroIfImm, f.zeroUnlessImm, f.guardFields, at_ 1 26 (nz f.rq), at_ 1 28 (nz f.hint), at_ 1 30 (nz f.mod)] .iandn64))
      none
  | 4 => f.forms (some (f.row [0] [] .inot32))
      (some (f.row [0, 5, 6] [at_ 1 0 (nz f.s2), at_ 1 8 (nz f.s3), f.guardFields, at_ 1 26 (nz f.rq), at_ 1 28 (nz f.hint), at_ 1 30 (nz f.mod)] .inot64))
      none
  | _ => .bad 0x01 0 26

/-- OP 0x1E of the opcode map (R264-R269). -/
def decodeOp1E (f : Fields) : Verdict :=
  match f.sub.toNat with
  | 0 => f.forms (some (f.row [0] [] .ishl32))
      (some (f.row [0, 1, 2, 3, 4, 5, 6] [f.zeroIfImm, f.zeroUnlessImm, f.guardFields, at_ 1 26 (nz f.rq), at_ 1 28 (nz f.hint), at_ 1 30 (nz f.mod)] .ishl64))
      none
  | 1 => f.forms (some (f.row [0] [] .ishr32))
      (some (f.row [0, 1, 2, 3, 4, 5, 6] [f.zeroIfImm, f.zeroUnlessImm, f.guardFields, at_ 1 26 (nz f.rq), at_ 1 28 (nz f.hint), at_ 1 30 (nz f.mod)] .ishr64))
      none
  | 2 => f.forms (some (f.row [0] [] .isar32))
      (some (f.row [0, 1, 2, 3, 4, 5, 6] [f.zeroIfImm, f.zeroUnlessImm, f.guardFields, at_ 1 26 (nz f.rq), at_ 1 28 (nz f.hint), at_ 1 30 (nz f.mod)] .isar64))
      none
  | 3 => f.forms (some (f.row [0] [] .irot32))
      (some (f.row [0, 1, 2, 3, 4, 5, 6] [f.zeroIfImm, f.zeroUnlessImm, f.guardFields, at_ 1 26 (nz f.rq), at_ 1 28 (nz f.hint), at_ 1 30 (nz f.mod)] .irot64))
      none
  | _ => .bad 0x01 0 26

/-- OP 0x1F of the opcode map (R264-R269). -/
def decodeOp1F (f : Fields) : Verdict :=
  match f.sub.toNat with
  | 0 => f.forms (some (f.row [0] [] .ibfx32))
      (some (f.row [0, 1, 2, 3, 4, 5, 6] [f.zeroIfImm, f.zeroUnlessImm, f.guardFields, at_ 1 26 (nz f.rq), at_ 1 28 (nz f.hint), at_ 1 30 (nz f.mod)] .ibfx64))
      none
  | 1 => f.forms (some (f.row [0] [] .ibfxu32))
      (some (f.row [0, 1, 2, 3, 4, 5, 6] [f.zeroIfImm, f.zeroUnlessImm, f.guardFields, at_ 1 26 (nz f.rq), at_ 1 28 (nz f.hint), at_ 1 30 (nz f.mod)] .ibfxu64))
      none
  | 2 => f.forms none
      (some (f.row [0, 1, 2, 4, 5, 6] [f.guardFields, at_ 1 26 (nz f.rq), at_ 1 28 (nz f.hint), at_ 1 30 (nz f.mod)] .ibfi))
      none
  | 3 => f.forms (some (f.row [0] [] .ipopc32))
      (some (f.row [0, 5, 6] [at_ 1 0 (nz f.s2), at_ 1 8 (nz f.s3), f.guardFields, at_ 1 26 (nz f.rq), at_ 1 28 (nz f.hint), at_ 1 30 (nz f.mod)] .ipopc64))
      none
  | 4 => f.forms (some (f.row [0] [] .iclz32))
      (some (f.row [0, 5, 6] [at_ 1 0 (nz f.s2), at_ 1 8 (nz f.s3), f.guardFields, at_ 1 26 (nz f.rq), at_ 1 28 (nz f.hint), at_ 1 30 (nz f.mod)] .iclz64))
      none
  | 5 => f.forms (some (f.row [0] [] .ibrev32))
      (some (f.row [0, 5, 6] [at_ 1 0 (nz f.s2), at_ 1 8 (nz f.s3), f.guardFields, at_ 1 26 (nz f.rq), at_ 1 28 (nz f.hint), at_ 1 30 (nz f.mod)] .ibrev64))
      none
  | _ => .bad 0x01 0 26

/-- OP 0x20 of the opcode map (R264-R269). -/
def decodeOp20 (f : Fields) : Verdict :=
  match f.sub.toNat with
  | 0 => f.forms none
      none
      (some (f.row [0, 1, 2, 4, 5, 6] [at_ 1 8 (predHigh f.s3), f.guardFields, at_ 1 26 (nz f.rq), at_ 1 28 (nz f.hint), at_ 1 30 (nz f.mod), at_ 2 0 (nz f.s4), at_ 2 8 (nz f.s5), at_ 2 16 (predHigh f.x1), at_ 2 24 (nz f.x2)] .iaddc))
  | _ => .bad 0x01 0 26

/-- OP 0x21 of the opcode map (R264-R269). -/
def decodeOp21 (f : Fields) : Verdict :=
  match f.sub.toNat with
  | 0 => f.forms none
      none
      (some (f.row [0, 1, 2, 4, 5, 6] [at_ 1 8 (predHigh f.s3), f.guardFields, at_ 1 26 (nz f.rq), at_ 1 28 (nz f.hint), at_ 1 30 (nz f.mod), at_ 2 0 (nz f.s4), at_ 2 8 (nz f.s5), at_ 2 16 (predHigh f.x1), at_ 2 24 (nz f.x2)] .isubb))
  | _ => .bad 0x01 0 26

/-- OP 0x22 of the opcode map (R264-R269). -/
def decodeOp22 (f : Fields) : Verdict :=
  f.forms none
      (some (f.row [0, 1, 2, 3, 4, 5, 6] [at_ 0 10 (predHigh f.d), f.zeroIfImm, f.zeroUnlessImm, f.guardFields, at_ 1 26 (nz f.rq), at_ 1 28 (nz f.hint), at_ 1 30 (nz f.mod)] .isetp))
      none

/-- OP 0x23 of the opcode map (R264-R269). -/
def decodeOp23 (f : Fields) : Verdict :=
  match f.sub.toNat with
  | 0 => f.forms none
      (some (f.row [0, 1, 2, 4, 5, 6] [at_ 1 8 (predHigh f.s3), f.guardFields, at_ 1 26 (nz f.rq), at_ 1 28 (nz f.hint), at_ 1 30 (nz f.mod)] .isel))
      none
  | _ => .bad 0x01 0 26

/-- OP 0x24 of the opcode map (R264-R269). -/
def decodeOp24 (f : Fields) : Verdict :=
  match f.sub.toNat with
  | 0 => f.forms (some (f.row [0] [] .imov32))
      (some (f.row [0, 3] [f.zeroS1IfImm, at_ 1 0 (nz f.s2), f.zeroUnlessImm, f.guardFields, at_ 1 26 (nz f.rq), at_ 1 28 (nz f.hint), at_ 1 30 (nz f.mod)] .imov64))
      none
  | _ => .bad 0x01 0 26

/-- OP 0x25 of the opcode map (R264-R269). -/
def decodeOp25 (f : Fields) : Verdict :=
  match f.sub.toNat with
  | 0 => f.forms (some (f.row [0] [] .iabs32))
      (some (f.row [0] [at_ 1 0 (nz f.s2), at_ 1 8 (nz f.s3), f.guardFields, at_ 1 26 (nz f.rq), at_ 1 28 (nz f.hint), at_ 1 30 (if f.mod = 2 then some 0 else none)] .iabs64))
      none
  | 1 => f.forms (some (f.row [0] [] .ineg32))
      (some (f.row [0] [at_ 1 0 (nz f.s2), at_ 1 8 (nz f.s3), f.guardFields, at_ 1 26 (nz f.rq), at_ 1 28 (nz f.hint), at_ 1 30 (if f.mod = 2 then some 0 else none)] .ineg64))
      none
  | _ => .bad 0x01 0 26

/-- OP 0x26 of the opcode map (R264-R269). -/
def decodeOp26 (f : Fields) : Verdict :=
  match f.sub.toNat with
  | 0 => f.forms none
      (some (f.row [0, 1, 2, 4, 5, 6] [f.guardFields, at_ 1 26 (nz f.rq), at_ 1 28 (nz f.hint)] .idp4))
      none
  | _ => .bad 0x01 0 26

/-- OP 0x27 of the opcode map (R264-R269). -/
def decodeOp27 (f : Fields) : Verdict :=
  match f.sub.toNat with
  | 0 => f.forms none
      (some (f.row [0, 1, 2, 4, 5, 6] [f.guardFields, at_ 1 26 (nz f.rq), at_ 1 28 (nz f.hint), at_ 1 30 (nz f.mod)] .iprmt))
      none
  | _ => .bad 0x01 0 26

/-- OP 0x28 of the opcode map (R264-R269). -/
def decodeOp28 (f : Fields) : Verdict :=
  match f.sub.toNat with
  | 0 => f.forms none
      (some (f.row [0, 1, 2, 4, 5, 6] [f.guardFields, at_ 1 26 (nz f.rq), at_ 1 28 (nz f.hint), at_ 1 30 (if f.mod.toNat < 2 then none else some 0)] .isad))
      none
  | _ => .bad 0x01 0 26

/-- OP 0x30 of the opcode map (R264-R269). -/
def decodeOp30 (f : Fields) : Verdict :=
  match f.sub.toNat with
  | 0 => f.forms (some (f.row [0] [at_ 0 10 (predHigh f.d), at_ 0 18 (predHigh f.s1)] .pand32))
      (some (f.row [0] [at_ 0 10 (predHigh f.d), at_ 0 18 (predHigh f.s1), at_ 1 0 (predHigh f.s2), at_ 1 8 (nz f.s3), f.guardFields, at_ 1 26 (nz f.rq), at_ 1 28 (nz f.hint), at_ 1 30 (nz f.mod)] .pand64))
      none
  | 1 => f.forms (some (f.row [0] [at_ 0 10 (predHigh f.d), at_ 0 18 (predHigh f.s1)] .por32))
      (some (f.row [0] [at_ 0 10 (predHigh f.d), at_ 0 18 (predHigh f.s1), at_ 1 0 (predHigh f.s2), at_ 1 8 (nz f.s3), f.guardFields, at_ 1 26 (nz f.rq), at_ 1 28 (nz f.hint), at_ 1 30 (nz f.mod)] .por64))
      none
  | 2 => f.forms (some (f.row [0] [at_ 0 10 (predHigh f.d), at_ 0 18 (predHigh f.s1)] .pxor32))
      (some (f.row [0] [at_ 0 10 (predHigh f.d), at_ 0 18 (predHigh f.s1), at_ 1 0 (predHigh f.s2), at_ 1 8 (nz f.s3), f.guardFields, at_ 1 26 (nz f.rq), at_ 1 28 (nz f.hint), at_ 1 30 (nz f.mod)] .pxor64))
      none
  | 3 => f.forms (some (f.row [0] [at_ 0 10 (predHigh f.d), at_ 0 18 (predHigh f.s1)] .pandn32))
      (some (f.row [0] [at_ 0 10 (predHigh f.d), at_ 0 18 (predHigh f.s1), at_ 1 0 (predHigh f.s2), at_ 1 8 (nz f.s3), f.guardFields, at_ 1 26 (nz f.rq), at_ 1 28 (nz f.hint), at_ 1 30 (nz f.mod)] .pandn64))
      none
  | 4 => f.forms (some (f.row [0] [at_ 0 10 (predHigh f.d), at_ 0 18 (predHigh f.s1)] .pnot32))
      (some (f.row [0] [at_ 0 10 (predHigh f.d), at_ 0 18 (predHigh f.s1), at_ 1 0 (nz f.s2), at_ 1 8 (nz f.s3), f.guardFields, at_ 1 26 (nz f.rq), at_ 1 28 (nz f.hint), at_ 1 30 (nz f.mod)] .pnot64))
      none
  | _ => .bad 0x01 0 26

/-- OP 0x31 of the opcode map (R264-R269). -/
def decodeOp31 (f : Fields) : Verdict :=
  match f.sub.toNat with
  | 0 => f.forms (some (f.row [0] [at_ 0 10 (predHigh f.d), at_ 0 18 (predHigh f.s1)] .pmov32))
      (some (f.row [0] [at_ 0 10 (predHigh f.d), at_ 0 18 (predHigh f.s1), at_ 1 0 (nz f.s2), at_ 1 8 (nz f.s3), f.guardFields, at_ 1 26 (nz f.rq), at_ 1 28 (nz f.hint), at_ 1 30 (nz f.mod)] .pmov64))
      none
  | 1 => f.forms none
      (some (f.row [2, 3] [at_ 0 10 (predHigh f.d), f.zeroIfImm, f.zeroUnlessImm, f.guardFields, at_ 1 26 (nz f.rq), at_ 1 28 (nz f.hint), at_ 1 30 (nz f.mod)] .pmovBit))
      none
  | 2 => f.forms none
      (some (f.row [0] [at_ 0 10 (predHigh f.d), at_ 0 18 (predHigh f.s1), at_ 1 0 (nz f.s2), at_ 1 8 (nz f.s3), f.guardFields, at_ 1 26 (nz f.rq), at_ 1 28 (nz f.hint), at_ 1 30 (nz f.mod)] .pmovQ))
      none
  | 3 => f.forms (some (f.row [0] [at_ 0 10 (predHigh f.d), at_ 0 18 (nz f.s1)] .pmovHelp32))
      (some (f.row [0] [at_ 0 10 (predHigh f.d), at_ 0 18 (nz f.s1), at_ 1 0 (nz f.s2), at_ 1 8 (nz f.s3), f.guardFields, at_ 1 26 (nz f.rq), at_ 1 28 (nz f.hint), at_ 1 30 (nz f.mod)] .pmovHelp64))
      none
  | _ => .bad 0x01 0 26

/-- OP 0x32 of the opcode map (R264-R269). -/
def decodeOp32 (f : Fields) : Verdict :=
  match f.sub.toNat with
  | 0 => f.forms none
      (some (f.row [0] [at_ 0 10 (predHigh f.d), at_ 0 18 (predHigh f.s1), at_ 1 0 (nz f.s2), at_ 1 8 (nz f.s3), f.guardFields, at_ 1 26 (nz f.rq), at_ 1 28 (nz f.hint), at_ 1 30 (nz f.mod)] .voteAll))
      none
  | 1 => f.forms none
      (some (f.row [0] [at_ 0 10 (predHigh f.d), at_ 0 18 (predHigh f.s1), at_ 1 0 (nz f.s2), at_ 1 8 (nz f.s3), f.guardFields, at_ 1 26 (nz f.rq), at_ 1 28 (nz f.hint), at_ 1 30 (nz f.mod)] .voteAny))
      none
  | 2 => f.forms none
      (some (f.row [6] [at_ 0 18 (predHigh f.s1), at_ 1 8 (nz f.s3), f.guardFields, at_ 1 26 (nz f.rq), at_ 1 28 (nz f.hint), at_ 1 30 (nz f.mod)] .voteBal))
      none
  | 3 => f.forms none
      (some (f.row [0] [at_ 0 18 (predHigh f.s1), at_ 1 0 (nz f.s2), at_ 1 8 (nz f.s3), f.guardFields, at_ 1 26 (nz f.rq), at_ 1 28 (nz f.hint), at_ 1 30 (nz f.mod)] .voteCnt))
      none
  | _ => .bad 0x01 0 26

/-- OP 0x33 of the opcode map (R264-R269). -/
def decodeOp33 (f : Fields) : Verdict :=
  match f.sub.toNat with
  | 0 => f.forms none
      (some (f.row [0, 2, 3] [f.zeroIfImm, f.zeroUnlessImm, f.guardFields, at_ 1 26 (nz f.rq), at_ 1 28 (nz f.hint), at_ 1 30 (nz f.mod)] .shflIdx))
      none
  | 1 => f.forms none
      (some (f.row [0, 2, 3] [f.zeroIfImm, f.zeroUnlessImm, f.guardFields, at_ 1 26 (nz f.rq), at_ 1 28 (nz f.hint), at_ 1 30 (nz f.mod)] .shflUp))
      none
  | 2 => f.forms none
      (some (f.row [0, 2, 3] [f.zeroIfImm, f.zeroUnlessImm, f.guardFields, at_ 1 26 (nz f.rq), at_ 1 28 (nz f.hint), at_ 1 30 (nz f.mod)] .shflDn))
      none
  | 3 => f.forms none
      (some (f.row [0, 2, 3] [f.zeroIfImm, f.zeroUnlessImm, f.guardFields, at_ 1 26 (nz f.rq), at_ 1 28 (nz f.hint), at_ 1 30 (nz f.mod)] .shflXor))
      none
  | 4 => f.forms none
      (some (f.row [0] [at_ 1 0 (nz f.s2), at_ 1 8 (nz f.s3), f.guardFields, at_ 1 26 (nz f.rq), at_ 1 28 (nz f.hint), at_ 1 30 (nz f.mod)] .shflQx))
      none
  | 5 => f.forms none
      (some (f.row [0] [at_ 1 0 (nz f.s2), at_ 1 8 (nz f.s3), f.guardFields, at_ 1 26 (nz f.rq), at_ 1 28 (nz f.hint), at_ 1 30 (nz f.mod)] .shflQy))
      none
  | _ => .bad 0x01 0 26

/-- OP 0x34 of the opcode map (R264-R269). -/
def decodeOp34 (f : Fields) : Verdict :=
  if f.sub.toNat ≤ 6 then f.forms none
      (some (f.row [0] [at_ 1 0 (nz f.s2), at_ 1 8 (nz f.s3), f.guardFields, at_ 1 26 (nz f.rq), at_ 1 28 (nz f.hint), at_ 1 30 (nz f.mod)] .redx))
      none
  else .bad 0x01 0 26

/-- OP 0x35 of the opcode map (R264-R269). -/
def decodeOp35 (f : Fields) : Verdict :=
  if f.sub.toNat ≤ 6 then f.forms none
      (some (f.row [0] [at_ 1 0 (nz f.s2), at_ 1 8 (nz f.s3), f.guardFields, at_ 1 26 (nz f.rq), at_ 1 28 (nz f.hint), at_ 1 30 (if f.mod.toNat < 2 then none else some 0)] .scan))
      none
  else .bad 0x01 0 26

/-- OP 0x36 of the opcode map (R264-R269). -/
def decodeOp36 (f : Fields) : Verdict :=
  f.forms none
      none
      (some (f.noGuard false (f.row (if f.sub = 7 then [0] else [0, 6]) [at_ 0 10 (if f.sub = 7 ∧ f.d ≠ 0 then some 0 else none), at_ 0 18 (if f.sub = 7 ∧ f.s1 ≠ 0 then some 0 else none), at_ 1 0 (nz f.s2), at_ 1 8 (nz f.s3), f.guardFields, at_ 1 26 (nz f.rq), at_ 1 28 (nz f.hint), at_ 1 30 (nz f.mod), at_ 2 0 (nz f.s4), at_ 2 8 (nz f.s5), at_ 2 24 (nz f.x2)] .barr)))

/-- OP 0x38 of the opcode map (R264-R269). -/
def decodeOp38 (f : Fields) : Verdict :=
  match f.sub.toNat with
  | 0 => f.forms (some (f.row [0] [] .fadd32))
      (some (f.row [0, 1, 2, 3, 4, 5, 6] [f.zeroIfImm, f.zeroUnlessImm, f.guardFields, at_ 1 26 (nz f.rq), at_ 1 28 (nz f.hint)] .fadd64))
      none
  | _ => .bad 0x01 0 26

/-- OP 0x39 of the opcode map (R264-R269). -/
def decodeOp39 (f : Fields) : Verdict :=
  match f.sub.toNat with
  | 0 => f.forms (some (f.row [0] [] .fsub32))
      (some (f.row [0, 1, 2, 3, 4, 5, 6] [f.zeroIfImm, f.zeroUnlessImm, f.guardFields, at_ 1 26 (nz f.rq), at_ 1 28 (nz f.hint)] .fsub64))
      none
  | _ => .bad 0x01 0 26

/-- OP 0x3A of the opcode map (R264-R269). -/
def decodeOp3A (f : Fields) : Verdict :=
  match f.sub.toNat with
  | 0 => f.forms (some (f.row [0] [] .fmul32))
      (some (f.row [0, 1, 2, 3, 4, 5, 6] [f.zeroIfImm, f.zeroUnlessImm, f.guardFields, at_ 1 26 (nz f.rq), at_ 1 28 (nz f.hint)] .fmul64))
      none
  | _ => .bad 0x01 0 26

/-- OP 0x3B of the opcode map (R264-R269). -/
def decodeOp3B (f : Fields) : Verdict :=
  match f.sub.toNat with
  | 0 => f.forms none
      (some (f.row [0, 1, 2, 4, 5, 6] [f.guardFields, at_ 1 26 (nz f.rq), at_ 1 28 (nz f.hint)] .ffma))
      none
  | _ => .bad 0x01 0 26

/-- OP 0x3C of the opcode map (R264-R269). -/
def decodeOp3C (f : Fields) : Verdict :=
  match f.sub.toNat with
  | 0 => f.forms (some (f.row [0] [] .fmin32))
      (some (f.row [0, 1, 2, 3, 4, 5, 6] [f.zeroIfImm, f.zeroUnlessImm, f.guardFields, at_ 1 26 (nz f.rq), at_ 1 28 (nz f.hint), at_ 1 30 (nz f.mod)] .fmin64))
      none
  | 1 => f.forms (some (f.row [0] [] .fmax32))
      (some (f.row [0, 1, 2, 3, 4, 5, 6] [f.zeroIfImm, f.zeroUnlessImm, f.guardFields, at_ 1 26 (nz f.rq), at_ 1 28 (nz f.hint), at_ 1 30 (nz f.mod)] .fmax64))
      none
  | _ => .bad 0x01 0 26

/-- OP 0x3D of the opcode map (R264-R269). -/
def decodeOp3D (f : Fields) : Verdict :=
  match f.sub.toNat with
  | 0 => f.forms (some (f.row [0] [] .fabs32))
      (some (f.row [0] [at_ 1 0 (nz f.s2), at_ 1 8 (nz f.s3), f.guardFields, at_ 1 26 (nz f.rq), at_ 1 28 (nz f.hint), at_ 1 30 (nz f.mod)] .fabs64))
      none
  | 1 => f.forms (some (f.row [0] [] .fneg32))
      (some (f.row [0] [at_ 1 0 (nz f.s2), at_ 1 8 (nz f.s3), f.guardFields, at_ 1 26 (nz f.rq), at_ 1 28 (nz f.hint), at_ 1 30 (nz f.mod)] .fneg64))
      none
  | 2 => f.forms (some (f.row [0] [] .fcpsgn32))
      (some (f.row [0, 1, 2, 3, 4, 5, 6] [f.zeroIfImm, f.zeroUnlessImm, f.guardFields, at_ 1 26 (nz f.rq), at_ 1 28 (nz f.hint), at_ 1 30 (nz f.mod)] .fcpsgn64))
      none
  | _ => .bad 0x01 0 26

/-- OP 0x3E of the opcode map (R264-R269). -/
def decodeOp3E (f : Fields) : Verdict :=
  f.forms none
      (some (f.row [0, 1, 2, 3, 4, 5, 6] [at_ 0 10 (predHigh f.d), f.zeroIfImm, f.zeroUnlessImm, f.guardFields, at_ 1 26 (nz f.rq), at_ 1 28 (nz f.hint), at_ 1 30 (nz f.mod)] .fsetp))
      none

/-- OP 0x3F of the opcode map (R264-R269). -/
def decodeOp3F (f : Fields) : Verdict :=
  match f.sub.toNat with
  | 0 => f.forms (some (f.row [0] [] .frnd32))
      (some (f.row [0] [at_ 1 0 (nz f.s2), at_ 1 8 (nz f.s3), f.guardFields, at_ 1 26 (nz f.rq), at_ 1 28 (nz f.hint)] .frnd64))
      none
  | _ => .bad 0x01 0 26

/-- OP 0x40 of the opcode map (R264-R269). -/
def decodeOp40 (f : Fields) : Verdict :=
  match f.sub.toNat with
  | 0 => f.forms (some (f.row [0] [] .fclass32))
      (some (f.row [0] [at_ 1 0 (nz f.s2), at_ 1 8 (nz f.s3), f.guardFields, at_ 1 26 (nz f.rq), at_ 1 28 (nz f.hint), at_ 1 30 (nz f.mod)] .fclass64))
      none
  | _ => .bad 0x01 0 26

/-- OP 0x41 of the opcode map (R264-R269). -/
def decodeOp41 (f : Fields) : Verdict :=
  match f.sub.toNat with
  | 0 => f.forms (some (f.row [0] [] .fscl32))
      (some (f.row [0, 1, 2, 3, 4, 5, 6] [f.zeroIfImm, f.zeroUnlessImm, f.guardFields, at_ 1 26 (nz f.rq), at_ 1 28 (nz f.hint)] .fscl64))
      none
  | _ => .bad 0x01 0 26

/-- OP 0x42 of the opcode map (R264-R269). -/
def decodeOp42 (f : Fields) : Verdict :=
  match f.sub.toNat with
  | 0 => f.forms (some (f.row [0] [] .hadd232))
      (some (f.row [0, 1, 2, 3, 4, 5, 6] [f.zeroIfImm, f.zeroUnlessImm, f.guardFields, at_ 1 26 (nz f.rq), at_ 1 28 (nz f.hint)] .hadd264))
      none
  | _ => .bad 0x01 0 26

/-- OP 0x43 of the opcode map (R264-R269). -/
def decodeOp43 (f : Fields) : Verdict :=
  match f.sub.toNat with
  | 0 => f.forms (some (f.row [0] [] .hmul232))
      (some (f.row [0, 1, 2, 3, 4, 5, 6] [f.zeroIfImm, f.zeroUnlessImm, f.guardFields, at_ 1 26 (nz f.rq), at_ 1 28 (nz f.hint)] .hmul264))
      none
  | _ => .bad 0x01 0 26

/-- OP 0x44 of the opcode map (R264-R269). -/
def decodeOp44 (f : Fields) : Verdict :=
  match f.sub.toNat with
  | 0 => f.forms none
      (some (f.row [0, 1, 2, 4, 5, 6] [f.guardFields, at_ 1 26 (nz f.rq), at_ 1 28 (nz f.hint)] .hfma2))
      none
  | _ => .bad 0x01 0 26

/-- OP 0x46 of the opcode map (R264-R269). -/
def decodeOp46 (f : Fields) : Verdict :=
  match f.sub.toNat with
  | 0 => f.forms (some (f.row [0] [] .frcp32))
      (some (f.row [0] [at_ 1 0 (nz f.s2), at_ 1 8 (nz f.s3), f.guardFields, at_ 1 26 (nz f.rq), at_ 1 28 (nz f.hint)] .frcp64))
      none
  | _ => .bad 0x01 0 26

/-- OP 0x47 of the opcode map (R264-R269). -/
def decodeOp47 (f : Fields) : Verdict :=
  match f.sub.toNat with
  | 0 => f.forms (some (f.row [0] [] .frsq32))
      (some (f.row [0] [at_ 1 0 (nz f.s2), at_ 1 8 (nz f.s3), f.guardFields, at_ 1 26 (nz f.rq), at_ 1 28 (nz f.hint)] .frsq64))
      none
  | _ => .bad 0x01 0 26

/-- OP 0x48 of the opcode map (R264-R269). -/
def decodeOp48 (f : Fields) : Verdict :=
  match f.sub.toNat with
  | 0 => f.forms (some (f.row [0] [] .fsqrt32))
      (some (f.row [0] [at_ 1 0 (nz f.s2), at_ 1 8 (nz f.s3), f.guardFields, at_ 1 26 (nz f.rq), at_ 1 28 (nz f.hint)] .fsqrt64))
      none
  | _ => .bad 0x01 0 26

/-- OP 0x49 of the opcode map (R264-R269). -/
def decodeOp49 (f : Fields) : Verdict :=
  match f.sub.toNat with
  | 0 => f.forms (some (f.row [0] [] .fexp232))
      (some (f.row [0] [at_ 1 0 (nz f.s2), at_ 1 8 (nz f.s3), f.guardFields, at_ 1 26 (nz f.rq), at_ 1 28 (nz f.hint), at_ 1 30 (nz f.mod)] .fexp264))
      none
  | _ => .bad 0x01 0 26

/-- OP 0x4A of the opcode map (R264-R269). -/
def decodeOp4A (f : Fields) : Verdict :=
  match f.sub.toNat with
  | 0 => f.forms (some (f.row [0] [] .flog232))
      (some (f.row [0] [at_ 1 0 (nz f.s2), at_ 1 8 (nz f.s3), f.guardFields, at_ 1 26 (nz f.rq), at_ 1 28 (nz f.hint), at_ 1 30 (nz f.mod)] .flog264))
      none
  | _ => .bad 0x01 0 26

/-- OP 0x4B of the opcode map (R264-R269). -/
def decodeOp4B (f : Fields) : Verdict :=
  match f.sub.toNat with
  | 0 => f.forms (some (f.row [0] [] .fsin32))
      (some (f.row [0] [at_ 1 0 (nz f.s2), at_ 1 8 (nz f.s3), f.guardFields, at_ 1 26 (nz f.rq), at_ 1 28 (nz f.hint), at_ 1 30 (nz f.mod)] .fsin64))
      none
  | 1 => f.forms (some (f.row [0] [] .fcos32))
      (some (f.row [0] [at_ 1 0 (nz f.s2), at_ 1 8 (nz f.s3), f.guardFields, at_ 1 26 (nz f.rq), at_ 1 28 (nz f.hint), at_ 1 30 (nz f.mod)] .fcos64))
      none
  | _ => .bad 0x01 0 26

/-- OP 0x4C of the opcode map (R264-R269). -/
def decodeOp4C (f : Fields) : Verdict :=
  match f.sub.toNat with
  | 0 => f.forms (some (f.row [0] [at_ 0 18 (nz f.s1)] .frandU3232))
      (some (f.row [0] [at_ 0 18 (nz f.s1), at_ 1 0 (nz f.s2), at_ 1 8 (nz f.s3), f.guardFields, at_ 1 26 (nz f.rq), at_ 1 28 (nz f.hint), at_ 1 30 (nz f.mod)] .frandU3264))
      none
  | 1 => f.forms (some (f.row [0] [at_ 0 18 (nz f.s1)] .frandF3232))
      (some (f.row [0] [at_ 0 18 (nz f.s1), at_ 1 0 (nz f.s2), at_ 1 8 (nz f.s3), f.guardFields, at_ 1 26 (nz f.rq), at_ 1 28 (nz f.hint), at_ 1 30 (nz f.mod)] .frandF3264))
      none
  | _ => .bad 0x01 0 26

/-- OP 0x4D of the opcode map (R264-R269). -/
def decodeOp4D (f : Fields) : Verdict :=
  match f.sub.toNat with
  | 0 => f.forms none
      (some (f.row [0] [at_ 1 0 (nz f.s2), at_ 1 8 (cvtRule f.s3), f.guardFields, at_ 1 26 (nz f.rq), at_ 1 28 (nz f.hint)] .cvt))
      none
  | _ => .bad 0x01 0 26

/-- OP 0x4E of the opcode map (R264-R269). -/
def decodeOp4E (f : Fields) : Verdict :=
  match f.sub.toNat with
  | 0 => f.forms none
      (some (f.row [0] [at_ 1 0 (cvtpS2Rule f.s2 f.s3), at_ 1 8 (cvtpRule f.s3), f.guardFields, at_ 1 26 (nz f.rq), at_ 1 28 (nz f.hint), at_ 1 30 (cvtpModRule f.mod f.s3)] (if f.s3.extractLsb' 4 2 = 0 then .cvtpPack else if f.s3.extractLsb' 4 2 = 1 then .cvtpPacksr else .cvtpUnpack)))
      none
  | _ => .bad 0x01 0 26

/-- OP 0x52 of the opcode map (R264-R269). -/
def decodeOp52 (f : Fields) : Verdict :=
  match f.sub.toNat with
  | 0 => f.forms (some (f.row [0] [at_ 0 10 (nz f.d), at_ 0 18 (nz f.s1)] .join))
      none
      none
  | _ => .bad 0x01 0 26

/-- OP 0x54 of the opcode map (R264-R269). -/
def decodeOp54 (f : Fields) : Verdict :=
  match f.sub.toNat with
  | 0 => f.forms (some (f.row [0] [at_ 0 10 (nz f.d), at_ 0 18 (nz f.s1)] .brk32))
      (some (f.row [0] [at_ 0 10 (nz f.d), at_ 0 18 (nz f.s1), at_ 1 0 (nz f.s2), at_ 1 8 (nz f.s3), f.guardFields, at_ 1 26 (nz f.rq), at_ 1 28 (nz f.hint), at_ 1 30 (nz f.mod)] .brk64))
      none
  | 1 => f.forms (some (f.row [0] [at_ 0 10 (nz f.d), at_ 0 18 (nz f.s1)] .cont32))
      (some (f.row [0] [at_ 0 10 (nz f.d), at_ 0 18 (nz f.s1), at_ 1 0 (nz f.s2), at_ 1 8 (nz f.s3), f.guardFields, at_ 1 26 (nz f.rq), at_ 1 28 (nz f.hint), at_ 1 30 (nz f.mod)] .cont64))
      none
  | _ => .bad 0x01 0 26

/-- OP 0x56 of the opcode map (R264-R269). -/
def decodeOp56 (f : Fields) : Verdict :=
  match f.sub.toNat with
  | 0 => f.forms (some (f.row [0] [at_ 0 10 (nz f.d), at_ 0 18 (nz f.s1)] .ret))
      none
      none
  | _ => .bad 0x01 0 26

/-- OP 0x57 of the opcode map (R264-R269). -/
def decodeOp57 (f : Fields) : Verdict :=
  match f.sub.toNat with
  | 0 => f.forms (some (f.row [0] [at_ 0 10 (nz f.d), at_ 0 18 (nz f.s1)] .exit32))
      (some (f.row [0] [at_ 0 10 (nz f.d), at_ 0 18 (nz f.s1), at_ 1 0 (nz f.s2), at_ 1 8 (nz f.s3), f.guardFields, at_ 1 26 (nz f.rq), at_ 1 28 (nz f.hint), at_ 1 30 (nz f.mod)] .exit64))
      none
  | _ => .bad 0x01 0 26

/-- OP 0x58 of the opcode map (R264-R269). -/
def decodeOp58 (f : Fields) : Verdict :=
  match f.sub.toNat with
  | 0 => f.forms (some (f.row [0] [at_ 0 10 (nz f.d), at_ 0 18 (nz f.s1)] .yield))
      none
      none
  | _ => .bad 0x01 0 26

/-- OP 0x59 of the opcode map (R264-R269). -/
def decodeOp59 (f : Fields) : Verdict :=
  match f.sub.toNat with
  | 0 => f.forms (some (f.row [0] [at_ 0 10 (nz f.d), at_ 0 18 (nz f.s1)] .trap32))
      (some (f.row [3] [at_ 0 10 (nz f.d), at_ 0 18 (nz f.s1), at_ 1 0 (nz f.s2), f.guardFields, at_ 1 26 (nz f.rq), at_ 1 28 (nz f.hint), at_ 1 30 (nz f.mod)] .trap64))
      none
  | 1 => f.forms (some (f.row [0] [at_ 0 10 (nz f.d), at_ 0 18 (nz f.s1)] .bkpt32))
      (some (f.row [3] [at_ 0 10 (nz f.d), at_ 0 18 (nz f.s1), at_ 1 0 (nz f.s2), f.guardFields, at_ 1 26 (nz f.rq), at_ 1 28 (nz f.hint), at_ 1 30 (nz f.mod)] .bkpt64))
      none
  | _ => .bad 0x01 0 26

/-- OP 0x5A of the opcode map (R264-R269). -/
def decodeOp5A (f : Fields) : Verdict :=
  match f.sub.toNat with
  | 0 => f.forms (some (f.row [0] [] .sread32))
      (some (f.row [0] [at_ 1 0 (nz f.s2), at_ 1 8 (nz f.s3), f.guardFields, at_ 1 26 (nz f.rq), at_ 1 28 (nz f.hint), at_ 1 30 (nz f.mod)] .sread64))
      none
  | 1 => f.forms (some (f.row [6] [] .swrite32))
      (some (f.row [6] [at_ 1 0 (nz f.s2), at_ 1 8 (nz f.s3), f.guardFields, at_ 1 26 (nz f.rq), at_ 1 28 (nz f.hint), at_ 1 30 (nz f.mod)] .swrite64))
      none
  | _ => .bad 0x01 0 26

/-- OP 0x5C of the opcode map (R264-R269). -/
def decodeOp5C (f : Fields) : Verdict :=
  if f.sub.toNat ≤ 6 then f.forms none
      (some (f.row [0, 5, 6] [f.guardFields, at_ 1 26 (if f.rq = 3 then some 0 else none), at_ 1 30 (nz f.mod)] .ld))
      none
  else .bad 0x01 0 26

/-- OP 0x5D of the opcode map (R264-R269). -/
def decodeOp5D (f : Fields) : Verdict :=
  if f.sub.toNat ≤ 4 then f.forms none
      (some (f.row [0, 5, 6] [f.guardFields, at_ 1 26 (if f.rq = 3 then some 0 else none), at_ 1 30 (nz f.mod)] .st))
      none
  else .bad 0x01 0 26

/-- OP 0x5E of the opcode map (R264-R269). -/
def decodeOp5E (f : Fields) : Verdict :=
  if f.sub = 2 ∨ f.sub = 3 then f.forms none
      (some (f.row [0, 5, 6] [f.guardFields, at_ 1 26 (nz f.rq)] .ldb))
      none
  else .bad 0x01 0 26

/-- OP 0x5F of the opcode map (R264-R269). -/
def decodeOp5F (f : Fields) : Verdict :=
  if f.sub.toNat ≤ 6 then f.forms none
      (some (f.row [0, 5, 6] [at_ 1 0 (nz f.s2), f.guardFields, at_ 1 26 (if f.rq.toNat < 2 then none else some 0), at_ 1 28 (nz f.hint), at_ 1 30 (nz f.mod)] .lds))
      none
  else .bad 0x01 0 26

/-- OP 0x60 of the opcode map (R264-R269). -/
def decodeOp60 (f : Fields) : Verdict :=
  if f.sub.toNat ≤ 4 then f.forms none
      (some (f.row [0, 5, 6] [at_ 1 0 (nz f.s2), f.guardFields, at_ 1 26 (if f.rq.toNat < 2 then none else some 0), at_ 1 28 (nz f.hint), at_ 1 30 (nz f.mod)] .sts))
      none
  else .bad 0x01 0 26

/-- OP 0x61 of the opcode map (R264-R269). -/
def decodeOp61 (f : Fields) : Verdict :=
  if f.sub = 2 ∨ f.sub = 3 then f.forms none
      none
      (some (f.allowOp (atomOk true f.sub f.x1) (f.row [0, 5, 6] [f.guardFields, at_ 1 26 (if f.rq.toNat < 2 then none else some 0), at_ 2 8 (if f.x1 ≠ 9 ∧ f.s5 ≠ 0 then some 0 else none), at_ 2 24 (nz f.x2)] .atom)))
  else .bad 0x01 0 26

/-- OP 0x62 of the opcode map (R264-R269). -/
def decodeOp62 (f : Fields) : Verdict :=
  if f.sub = 2 ∨ f.sub = 3 then f.forms none
      none
      (some (f.allowOp (atomOk false f.sub f.x1) (f.row [0, 5, 6] [at_ 0 10 (nz f.d), f.guardFields, at_ 1 26 (if f.rq.toNat < 2 then none else some 0), at_ 1 30 (if f.mod = 0 ∨ f.mod = 2 then none else some 0), at_ 2 8 (nz f.s5), at_ 2 24 (nz f.x2)] .red)))
  else .bad 0x01 0 26

/-- OP 0x63 of the opcode map (R264-R269). -/
def decodeOp63 (f : Fields) : Verdict :=
  match f.sub.toNat with
  | 0 => f.forms (some (f.row [0] [at_ 0 10 (nz f.d), at_ 0 18 (nz f.s1)] .fenceAcq))
      none
      none
  | 1 => f.forms (some (f.row [0] [at_ 0 10 (nz f.d), at_ 0 18 (nz f.s1)] .fenceRel))
      none
      none
  | 2 => f.forms (some (f.row [0] [at_ 0 10 (nz f.d), at_ 0 18 (nz f.s1)] .fenceAr))
      none
      none
  | _ => .bad 0x01 0 26

/-- OP 0x64 of the opcode map (R264-R269). -/
def decodeOp64 (f : Fields) : Verdict :=
  match f.sub.toNat with
  | 0 => f.forms (some (f.row [0] [at_ 0 10 (nz f.d)] .rrel32))
      (some (f.row [0] [at_ 0 10 (nz f.d), at_ 1 0 (nz f.s2), at_ 1 8 (nz f.s3), f.guardFields, at_ 1 26 (nz f.rq), at_ 1 28 (nz f.hint), at_ 1 30 (nz f.mod)] .rrel64))
      none
  | _ => .bad 0x01 0 26

/-- OP 0x65 of the opcode map (R264-R269). -/
def decodeOp65 (f : Fields) : Verdict :=
  match f.sub.toNat with
  | 0 => f.forms none
      (some (f.row [6] [at_ 0 10 (nz f.d), f.guardFields, at_ 1 26 (nz f.rq), at_ 1 28 (nz f.hint), at_ 1 30 (nz f.mod)] .invr))
      none
  | 1 => f.forms none
      (some (f.row [6] [at_ 0 10 (nz f.d), f.guardFields, at_ 1 26 (nz f.rq), at_ 1 28 (nz f.hint), at_ 1 30 (nz f.mod)] .wbr))
      none
  | 2 => f.forms none
      (some (f.row [6] [at_ 0 10 (nz f.d), f.guardFields, at_ 1 26 (nz f.rq), at_ 1 28 (nz f.hint), at_ 1 30 (nz f.mod)] .flr))
      none
  | 3 => f.forms none
      (some (f.row [6] [at_ 0 10 (nz f.d), f.guardFields, at_ 1 26 (nz f.rq), at_ 1 30 (nz f.mod)] .pref))
      none
  | _ => .bad 0x01 0 26

/-- OP 0x66 of the opcode map (R264-R269). -/
def decodeOp66 (f : Fields) : Verdict :=
  if f.sub = 2 ∨ f.sub = 3 then f.forms none
      none
      (some (f.allowOp (atomOk true f.sub f.x1) (f.row [0, 5, 6] [at_ 1 0 (nz f.s2), f.guardFields, at_ 1 26 (if f.rq.toNat < 2 then none else some 0), at_ 1 28 (nz f.hint), at_ 2 8 (if f.x1 ≠ 9 ∧ f.s5 ≠ 0 then some 0 else none), at_ 2 24 (nz f.x2)] .atoms)))
  else .bad 0x01 0 26

/-- OP 0x68 of the opcode map (R264-R269). -/
def decodeOp68 (f : Fields) : Verdict :=
  match f.sub.toNat with
  | 0 => f.forms none
      none
      (some (f.row [0, 5, 6] [at_ 0 10 (nz f.d), at_ 1 0 (if f.x2.getLsbD 5 ∧ f.s2 ≠ 0 then some 0 else none), f.guardFields, at_ 1 26 (nz f.rq), at_ 2 8 (if f.x2.getLsbD 4 ∧ f.s5 ≠ 0 then some 0 else none), at_ 2 16 (if ¬ f.x1.getLsbD 3 ∧ f.x1.extractLsb' 4 4 ≠ 0 then some 4 else none), at_ 2 24 (cpyX2Rule f.x2)] .cpy))
  | _ => .bad 0x01 0 26

/-- OP 0x69 of the opcode map (R264-R269). -/
def decodeOp69 (f : Fields) : Verdict :=
  match f.sub.toNat with
  | 0 => f.forms none
      none
      (some (f.row [6] [at_ 0 10 (nz f.d), at_ 1 8 (if f.x1.getLsbD 5 ∧ f.s3 ≠ 0 then some 0 else none), f.guardFields, at_ 1 26 (nz f.rq), at_ 1 30 (nz f.mod), at_ 2 0 (if f.x1.getLsbD 4 ∧ f.s4 ≠ 0 then some 0 else none), at_ 2 8 (if ¬ f.x1.getLsbD 3 ∧ f.s5 ≠ 0 then some 0 else none), at_ 2 16 (if f.x1.extractLsb' 6 2 ≠ 0 then some 6 else none), at_ 2 24 (nz f.x2)] .cpyt))
  | _ => .bad 0x01 0 26

/-- OP 0x6A of the opcode map (R264-R269). -/
def decodeOp6A (f : Fields) : Verdict :=
  match f.sub.toNat with
  | 0 => f.forms none
      none
      (some (f.row [0, 6] [at_ 0 10 (nz f.d), at_ 1 8 (if f.x1.getLsbD 4 ∧ f.s3 ≠ 0 then some 0 else none), f.guardFields, at_ 1 26 (nz f.rq), at_ 1 30 (if f.mod.toNat < 2 then none else some 1), at_ 2 0 (if f.mod = 0 ∧ f.s4 ≠ 0 then some 0 else none), at_ 2 8 (nz f.s5), at_ 2 16 (if f.x1.setWidth 4 ≠ (0 : BitVec 4) then some 0 else none)] .cpymMc))
  | 1 => f.forms none
      none
      (some (f.allowOp (cpymOpOk (f.x1.setWidth 4)) (f.row [0, 6] [at_ 0 10 (nz f.d), at_ 1 8 (if f.x1.getLsbD 4 ∧ f.s3 ≠ 0 then some 0 else none), f.guardFields, at_ 1 26 (nz f.rq), at_ 1 30 (if f.mod.toNat < 2 then none else some 1), at_ 2 0 (if f.mod = 0 ∧ f.s4 ≠ 0 then some 0 else none), at_ 2 8 (nz f.s5)] .cpymRd)))
  | _ => .bad 0x01 0 26

/-- OP 0x6B of the opcode map (R264-R269). -/
def decodeOp6B (f : Fields) : Verdict :=
  match f.sub.toNat with
  | 0 => f.forms (some (f.row [0] [at_ 0 10 (nz f.d), at_ 0 18 (if f.s1 = 0 then some 0 else none)] .waitt32))
      (some (f.row [0] [at_ 0 10 (nz f.d), at_ 0 18 (if f.s1 = 0 then some 0 else none), at_ 1 0 (nz f.s2), at_ 1 8 (nz f.s3), f.guardFields, at_ 1 26 (nz f.rq), at_ 1 28 (nz f.hint), at_ 1 30 (nz f.mod)] .waitt64))
      none
  | _ => .bad 0x01 0 26

/-- OP 0x6C of the opcode map (R264-R269). -/
def decodeOp6C (f : Fields) : Verdict :=
  match f.sub.toNat with
  | 0 => f.forms none
      (some (f.row [6] [at_ 0 10 (nz f.d), f.guardFields, at_ 1 26 (nz f.rq), at_ 1 28 (nz f.hint), at_ 1 30 (if f.mod = 3 then some 0 else none)] .waitw))
      none
  | _ => .bad 0x01 0 26

/-- OP 0x6D of the opcode map (R264-R269). -/
def decodeOp6D (f : Fields) : Verdict :=
  match f.sub.toNat with
  | 0 => f.forms none
      (some (f.row [6] [at_ 0 10 (nz f.d), f.guardFields, at_ 1 26 (nz f.rq), at_ 1 28 (nz f.hint), at_ 1 30 (if f.mod.toNat < 2 then none else some 1)] (if f.mod = 0 then .notify else .notifySt)))
      none
  | _ => .bad 0x01 0 26

/-- OP 0x6E of the opcode map (R264-R269). -/
def decodeOp6E (f : Fields) : Verdict :=
  match f.sub.toNat with
  | 0 => f.forms (some (f.row [0] [at_ 0 10 (nz f.d), at_ 0 18 (if f.s1.extractLsb' 4 4 ≠ 0 then some 4 else none)] .qfence))
      none
      none
  | _ => .bad 0x01 0 26

/-- OP 0x6F of the opcode map (R264-R269). -/
def decodeOp6F (f : Fields) : Verdict :=
  match f.sub.toNat with
  | 0 => f.forms none
      none
      (some (f.row [0] [at_ 0 10 (nz f.d), f.guardFields, at_ 1 26 (nz f.rq), at_ 1 30 (nz f.mod), at_ 2 16 (if f.x1.setWidth 3 = (0 : BitVec 3) ∨ f.x1.setWidth 3 = (7 : BitVec 3) then some 0 else none)] .isend))
  | 1 => f.forms none
      none
      (some (f.row [0] [at_ 0 10 (nz f.d), f.guardFields, at_ 1 26 (nz f.rq), at_ 1 30 (nz f.mod), at_ 2 16 (if f.x1.setWidth 3 = (0 : BitVec 3) ∨ f.x1.setWidth 3 = (7 : BitVec 3) then some 0 else none)] .isendSync))
  | _ => .bad 0x01 0 26

/-- OP 0x70 of the opcode map (R264-R269). -/
def decodeOp70 (f : Fields) : Verdict :=
  match f.sub.toNat with
  | 0 => f.forms (some (f.row [0] [] .lstat32))
      (some (f.row [0] [at_ 1 0 (nz f.s2), at_ 1 8 (nz f.s3), f.guardFields, at_ 1 26 (nz f.rq), at_ 1 28 (nz f.hint), at_ 1 30 (nz f.mod)] .lstat64))
      none
  | _ => .bad 0x01 0 26

/-- OP 0x71 of the opcode map (R264-R269). -/
def decodeOp71 (f : Fields) : Verdict :=
  match f.sub.toNat with
  | 0 => f.forms none
      none
      (some (f.row [0] [at_ 0 10 (predHigh f.d), at_ 1 0 (nz f.s2), at_ 1 8 (nz f.s3), f.guardFields, at_ 1 26 (nz f.rq), at_ 1 28 (nz f.hint), at_ 1 30 (nz f.mod), at_ 2 0 (nz f.s4), at_ 2 8 (nz f.s5), at_ 2 16 (triclsRule f.d f.x1)] .tricls))
  | _ => .bad 0x01 0 26

/-- OP 0x72 of the opcode map (R264-R269). -/
def decodeOp72 (f : Fields) : Verdict :=
  match f.sub.toNat with
  | 0 => f.forms none
      none
      (some (f.row [6] [at_ 0 10 (nz f.d), f.guardFields, at_ 1 26 (nz f.rq), at_ 1 30 (nz f.mod), at_ 2 0 (nz f.s4), at_ 2 8 (nz f.s5), at_ 2 16 (nz f.x1), at_ 2 24 (nz f.x2)] .wbld))
  | _ => .bad 0x01 0 26

/-- OP 0x73 of the opcode map (R264-R269). -/
def decodeOp73 (f : Fields) : Verdict :=
  match f.sub.toNat with
  | 0 => f.forms none
      none
      (some (f.row [6] [at_ 0 10 (nz f.d), f.guardFields, at_ 1 26 (nz f.rq), at_ 1 30 (nz f.mod), at_ 2 8 (nz f.s5), at_ 2 16 (nz f.x1), at_ 2 24 (nz f.x2)] .wbgth))
  | _ => .bad 0x01 0 26

/-- OP 0x74 of the opcode map (R264-R269). -/
def decodeOp74 (f : Fields) : Verdict :=
  match f.sub.toNat with
  | 0 => f.forms none
      none
      (some (f.row [0] [at_ 0 10 (nz f.d), at_ 1 8 (nz f.s3), f.guardFields, at_ 1 26 (nz f.rq), at_ 1 28 (if ¬ f.mod.getLsbD 0 ∧ f.hint ≠ 0 then some 0 else none), at_ 2 8 (if ¬ f.mod.getLsbD 0 ∧ f.s5 ≠ 0 then some 0 else none), at_ 2 16 (if f.x1.extractLsb' 6 2 ≠ 0 then some 6 else none), at_ 2 24 (if f.x2.getLsbD 7 then some 7 else none)] .mma))
  | _ => .bad 0x01 0 26

/-- OP 0x75 of the opcode map (R264-R269). -/
def decodeOp75 (f : Fields) : Verdict :=
  match f.sub.toNat with
  | 0 => f.forms none
      none
      (some (f.row [0] [at_ 1 0 (nz f.s2), f.guardFields, at_ 1 26 (nz f.rq), at_ 1 28 (nz f.hint), at_ 1 30 (nz f.mod), at_ 2 8 (nz f.s5), at_ 2 16 (if f.x1.extractLsb' 6 2 ≠ 0 then some 6 else none), at_ 2 24 (if f.x2.getLsbD 7 then some 7 else none)] .mmas))
  | _ => .bad 0x01 0 26

/-- OP 0x76 of the opcode map (R264-R269). -/
def decodeOp76 (f : Fields) : Verdict :=
  match f.sub.toNat with
  | 0 => f.forms none
      none
      (some (f.row [0] [at_ 1 0 (nz f.s2), f.guardFields, at_ 1 26 (nz f.rq), at_ 1 28 (nz f.hint), at_ 1 30 (if f.mod.toNat < 2 then none else some 1), at_ 2 8 (nz f.s5), at_ 2 16 (if f.x1.extractLsb' 5 3 ≠ 0 then some 5 else none), at_ 2 24 (if f.x2.getLsbD 7 then some 7 else none)] .scacc))
  | _ => .bad 0x01 0 26

/-- OP 0x78 of the opcode map (R264-R269). -/
def decodeOp78 (f : Fields) : Verdict :=
  match f.sub.toNat with
  | 0 => f.forms (some (f.row [0] [at_ 0 10 (nz f.d), at_ 0 18 (if 1 ≤ f.s1.toNat ∧ f.s1.toNat ≤ 5 then none else some 0)] .lbind))
      none
      none
  | 1 => f.forms (some (f.row [0] [at_ 0 10 (nz f.d), at_ 0 18 (nz f.s1)] .lunbind))
      none
      none
  | _ => .bad 0x01 0 26

/-- OP 0x79 of the opcode map (R264-R269). -/
def decodeOp79 (f : Fields) : Verdict :=
  match f.sub.toNat with
  | 0 => f.forms none
      (some (f.row [0] [at_ 1 8 (predHigh f.s3), f.guardFields, at_ 1 26 (nz f.rq), at_ 1 28 (nz f.hint)] .ladd))
      none
  | _ => .bad 0x01 0 26

/-- OP 0x7A of the opcode map (R264-R269). -/
def decodeOp7A (f : Fields) : Verdict :=
  match f.sub.toNat with
  | 0 => f.forms none
      (some (f.row [0] [at_ 1 8 (predHigh f.s3), f.guardFields, at_ 1 26 (nz f.rq), at_ 1 28 (nz f.hint)] .lsub))
      none
  | _ => .bad 0x01 0 26

/-- OP 0x7B of the opcode map (R264-R269). -/
def decodeOp7B (f : Fields) : Verdict :=
  match f.sub.toNat with
  | 0 => f.forms none
      (some (f.row [0, 3] [f.zeroIfImm, f.zeroUnlessImm, at_ 1 8 (if f.sig = 3 ∧ f.s3.toNat > 31 then some 0 else none), f.guardFields, at_ 1 26 (nz f.rq), at_ 1 28 (nz f.hint), at_ 1 30 (nz f.mod)] .lshl))
      none
  | 1 => f.forms none
      (some (f.row [0, 3] [f.zeroIfImm, f.zeroUnlessImm, at_ 1 8 (if f.sig = 3 ∧ f.s3.toNat > 31 then some 0 else none), f.guardFields, at_ 1 26 (nz f.rq), at_ 1 28 (nz f.hint), at_ 1 30 (nz f.mod)] .lshr))
      none
  | _ => .bad 0x01 0 26

/-- OP 0x7C of the opcode map (R264-R269). -/
def decodeOp7C (f : Fields) : Verdict :=
  match f.sub.toNat with
  | 0 => f.forms none
      none
      (some (f.row [0] [at_ 1 8 (if f.s3 = f.d then some 0 else none), f.guardFields, at_ 1 26 (nz f.rq), at_ 1 28 (nz f.hint), at_ 1 30 (if f.mod = 0 ∨ f.mod = 2 then none else some 0), at_ 2 0 (nz f.s4), at_ 2 8 (nz f.s5), at_ 2 16 (if f.x1.extractLsb' 5 3 ≠ 0 then some 5 else none), at_ 2 24 (nz f.x2)] .lmacs))
  | _ => .bad 0x01 0 26

/-- OP 0x7D of the opcode map (R264-R269). -/
def decodeOp7D (f : Fields) : Verdict :=
  f.forms none
      (some (f.row [0] [at_ 0 10 (predHigh f.d), at_ 1 8 (nz f.s3), f.guardFields, at_ 1 26 (nz f.rq), at_ 1 28 (nz f.hint), at_ 1 30 (nz f.mod)] .lcmp))
      none

/-- OP 0x55, CALL: the displacement form has no SUB, the register form has SUB 1 (R242, R243). -/
def decodeOp55 (f : Fields) : Verdict :=
  if f.len = 0 then .ok .callDisp
  else if f.len = 1 then
    if f.sub = 1 then f.noGuard true (f.row [6] [at_ 0 10 (nz f.d), at_ 1 0 (nz f.s2), at_ 1 8 (nz f.s3), f.guardFields, at_ 1 26 (nz f.rq), at_ 1 28 (nz f.hint), at_ 1 30 (nz f.mod)] .callReg)
    else .bad 0x01 0 26
  else if f.sub = 1 then
    if f.len = 3 then .bad 0x02 0 0 else .bad 0x0F 0 0
  else .bad 0x01 0 26

/-- What one word group is, in the order of R167: ILL_WORD, ILL_OPCODE, ILL_LENGTH, ILL_FORM,
ILL_GUARD, ILL_SIGNATURE, ILL_FIELD. ILL_REGISTER needs the team's allocation and is judged by the executor. -/
def classify (f : Fields) : Verdict :=
  match f.op.toNat with
  | 0x00 => .bad 0x00 0 3
  | 0x01 => decodeOp01 f
  | 0x02 => decodeOp02 f
  | 0x03 => decodeOp03 f
  | 0x04 => decodeOp04 f
  | 0x05 => decodeOp05 f
  | 0x06 => decodeOp06 f
  | 0x07 => decodeOp07 f
  | 0x08 => decodeOp08 f
  | 0x09 => decodeOp09 f
  | 0x0A => decodeOp0A f
  | 0x0B => decodeOp0B f
  | 0x0C => decodeOp0C f
  | 0x0D => decodeOp0D f
  | 0x10 => decodeOp10 f
  | 0x11 => decodeOp11 f
  | 0x12 => decodeOp12 f
  | 0x13 => decodeOp13 f
  | 0x14 => decodeOp14 f
  | 0x15 => decodeOp15 f
  | 0x16 => decodeOp16 f
  | 0x17 => decodeOp17 f
  | 0x18 => decodeOp18 f
  | 0x19 => decodeOp19 f
  | 0x1A => decodeOp1A f
  | 0x1B => decodeOp1B f
  | 0x1C => decodeOp1C f
  | 0x1D => decodeOp1D f
  | 0x1E => decodeOp1E f
  | 0x1F => decodeOp1F f
  | 0x20 => decodeOp20 f
  | 0x21 => decodeOp21 f
  | 0x22 => decodeOp22 f
  | 0x23 => decodeOp23 f
  | 0x24 => decodeOp24 f
  | 0x25 => decodeOp25 f
  | 0x26 => decodeOp26 f
  | 0x27 => decodeOp27 f
  | 0x28 => decodeOp28 f
  | 0x30 => decodeOp30 f
  | 0x31 => decodeOp31 f
  | 0x32 => decodeOp32 f
  | 0x33 => decodeOp33 f
  | 0x34 => decodeOp34 f
  | 0x35 => decodeOp35 f
  | 0x36 => decodeOp36 f
  | 0x38 => decodeOp38 f
  | 0x39 => decodeOp39 f
  | 0x3A => decodeOp3A f
  | 0x3B => decodeOp3B f
  | 0x3C => decodeOp3C f
  | 0x3D => decodeOp3D f
  | 0x3E => decodeOp3E f
  | 0x3F => decodeOp3F f
  | 0x40 => decodeOp40 f
  | 0x41 => decodeOp41 f
  | 0x42 => decodeOp42 f
  | 0x43 => decodeOp43 f
  | 0x44 => decodeOp44 f
  | 0x46 => decodeOp46 f
  | 0x47 => decodeOp47 f
  | 0x48 => decodeOp48 f
  | 0x49 => decodeOp49 f
  | 0x4A => decodeOp4A f
  | 0x4B => decodeOp4B f
  | 0x4C => decodeOp4C f
  | 0x4D => decodeOp4D f
  | 0x4E => decodeOp4E f
  | 0x50 => f.forms (some (.ok .bra)) none none
  | 0x51 => f.forms none none (some (decodeBrx f))
  | 0x52 => decodeOp52 f
  | 0x53 => f.forms (some (.ok .loop)) none none
  | 0x54 => decodeOp54 f
  | 0x55 => decodeOp55 f
  | 0x56 => decodeOp56 f
  | 0x57 => decodeOp57 f
  | 0x58 => decodeOp58 f
  | 0x59 => decodeOp59 f
  | 0x5A => decodeOp5A f
  | 0x5C => decodeOp5C f
  | 0x5D => decodeOp5D f
  | 0x5E => decodeOp5E f
  | 0x5F => decodeOp5F f
  | 0x60 => decodeOp60 f
  | 0x61 => decodeOp61 f
  | 0x62 => decodeOp62 f
  | 0x63 => decodeOp63 f
  | 0x64 => decodeOp64 f
  | 0x65 => decodeOp65 f
  | 0x66 => decodeOp66 f
  | 0x68 => decodeOp68 f
  | 0x69 => decodeOp69 f
  | 0x6A => decodeOp6A f
  | 0x6B => decodeOp6B f
  | 0x6C => decodeOp6C f
  | 0x6D => decodeOp6D f
  | 0x6E => decodeOp6E f
  | 0x6F => decodeOp6F f
  | 0x70 => decodeOp70 f
  | 0x71 => decodeOp71 f
  | 0x72 => decodeOp72 f
  | 0x73 => decodeOp73 f
  | 0x74 => decodeOp74 f
  | 0x75 => decodeOp75 f
  | 0x76 => decodeOp76 f
  | 0x78 => decodeOp78 f
  | 0x79 => decodeOp79 f
  | 0x7A => decodeOp7A f
  | 0x7B => decodeOp7B f
  | 0x7C => decodeOp7C f
  | 0x7D => decodeOp7D f
  | _ => .bad 0x01 0 3

/-- The instruction of a row, its operands read from the fields. No code is generated for it: the runtime numbers
no more than 245 constructors that carry data, and Instr has more (Machine/Run.lean runs rows without building them). -/
noncomputable def Row.build (f : Fields) : Row → Instr
  | .smov32 => .smov32 f.b f.d f.s1
  | .smov64 => .smov64 f.b f.guard f.d (f.opUn .s)
  | .sadd32 => .sadd32 f.b f.d f.s1
  | .sadd64 => .sadd64 f.b f.guard f.d f.s1 f.s2
  | .ssub32 => .ssub32 f.b f.d f.s1
  | .ssub64 => .ssub64 f.b f.guard f.d f.s1 f.s2
  | .smul32 => .smul32 f.b f.d f.s1
  | .smul64 => .smul64 f.b f.guard f.d f.s1 f.s2
  | .smulh32 => .smulh32 f.b f.d f.s1
  | .smulh64 => .smulh64 f.b f.guard f.d f.s1 f.s2
  | .smulhu32 => .smulhu32 f.b f.d f.s1
  | .smulhu64 => .smulhu64 f.b f.guard f.d f.s1 f.s2
  | .sand32 => .sand32 f.b f.d f.s1
  | .sand64 => .sand64 f.b f.guard f.d f.s1 f.s2
  | .sor32 => .sor32 f.b f.d f.s1
  | .sor64 => .sor64 f.b f.guard f.d f.s1 f.s2
  | .sxor32 => .sxor32 f.b f.d f.s1
  | .sxor64 => .sxor64 f.b f.guard f.d f.s1 f.s2
  | .sandn32 => .sandn32 f.b f.d f.s1
  | .sandn64 => .sandn64 f.b f.guard f.d f.s1 f.s2
  | .snot32 => .snot32 f.b f.d f.s1
  | .snot64 => .snot64 f.b f.guard f.d f.s1
  | .sshl32 => .sshl32 f.b f.d f.s1
  | .sshl64 => .sshl64 f.b f.guard f.d f.s1 f.s2
  | .sshr32 => .sshr32 f.b f.d f.s1
  | .sshr64 => .sshr64 f.b f.guard f.d f.s1 f.s2
  | .ssar32 => .ssar32 f.b f.d f.s1
  | .ssar64 => .ssar64 f.b f.guard f.d f.s1 f.s2
  | .smin32 => .smin32 f.b f.d f.s1
  | .smin64 => .smin64 f.b f.guard f.d f.s1 f.s2
  | .smax32 => .smax32 f.b f.d f.s1
  | .smax64 => .smax64 f.b f.guard f.d f.s1 f.s2
  | .sminu32 => .sminu32 f.b f.d f.s1
  | .sminu64 => .sminu64 f.b f.guard f.d f.s1 f.s2
  | .smaxu32 => .smaxu32 f.b f.d f.s1
  | .smaxu64 => .smaxu64 f.b f.guard f.d f.s1 f.s2
  | .scmp => .scmp f.b f.guard f.sub (f.d.setWidth 3) f.s1 f.s2
  | .ssel => .ssel f.b f.guard f.d f.s1 f.s2 (f.s3.setWidth 3)
  | .sldcW32 => .sldcW32 f.b f.guard f.d f.s1 f.s2
  | .sldcW64 => .sldcW64 f.b f.guard f.d f.s1 f.s2
  | .sbfx32 => .sbfx32 f.b f.d f.s1
  | .sbfx64 => .sbfx64 f.b f.guard f.d f.s1 f.s2
  | .sbfi => .sbfi f.b f.guard f.d f.s1 f.s2 f.s3
  | .spopc32 => .spopc32 f.b f.d f.s1
  | .spopc64 => .spopc64 f.b f.guard f.d f.s1
  | .sclz32 => .sclz32 f.b f.d f.s1
  | .sclz64 => .sclz64 f.b f.guard f.d f.s1
  | .qand32 => .qand32 f.b (f.d.setWidth 3) (f.s1.setWidth 3)
  | .qand64 => .qand64 f.b f.guard (f.d.setWidth 3) (f.s1.setWidth 3) (f.s2.setWidth 3)
  | .qor32 => .qor32 f.b (f.d.setWidth 3) (f.s1.setWidth 3)
  | .qor64 => .qor64 f.b f.guard (f.d.setWidth 3) (f.s1.setWidth 3) (f.s2.setWidth 3)
  | .qxor32 => .qxor32 f.b (f.d.setWidth 3) (f.s1.setWidth 3)
  | .qxor64 => .qxor64 f.b f.guard (f.d.setWidth 3) (f.s1.setWidth 3) (f.s2.setWidth 3)
  | .qnot32 => .qnot32 f.b (f.d.setWidth 3) (f.s1.setWidth 3)
  | .qnot64 => .qnot64 f.b f.guard (f.d.setWidth 3) (f.s1.setWidth 3)
  | .amovS => .amovS f.b f.guard f.d f.s1
  | .amovImm => .amovImm f.b f.guard f.d f.s3
  | .amovLane => .amovLane f.b f.d
  | .amov32 => .amov32 f.b f.d f.s1
  | .amov64 => .amov64 f.b f.guard f.d f.s1
  | .aadd32 => .aadd32 f.b f.d f.s1
  | .aadd64 => .aadd64 f.b f.guard f.d f.opX f.opY
  | .asub32 => .asub32 f.b f.d f.s1
  | .asub64 => .asub64 f.b f.guard f.d f.opX f.opY
  | .amul => .amul f.b f.guard f.d f.s1 f.s2
  | .ashl => .ashl f.b f.guard f.d f.s1 f.s2
  | .proma => .proma f.b f.guard f.d f.s1 f.s2
  | .promv => .promv f.b f.guard f.d f.s2
  | .promb => .promb f.b f.guard f.d f.s2
  | .promp => .promp f.b f.guard (f.d.setWidth 3) (f.s1.setWidth 3)
  | .rdfirst => .rdfirst f.b f.guard f.d f.s1
  | .rdlast => .rdlast f.b f.guard f.d f.s1
  | .rdlane => .rdlane f.b f.guard f.d f.s1 f.s2
  | .capnar => .capnar f.b f.guard f.d f.s1 f.s2 f.s3
  | .caprst => .caprst f.b f.guard f.d f.s1 f.s2
  | .capqryBase => .capqryBase f.b f.guard f.d f.s1
  | .capqryLen => .capqryLen f.b f.guard f.d f.s1
  | .capqryRights => .capqryRights f.b f.guard f.d f.s1
  | .iadd32 => .iadd32 f.b f.d f.s1
  | .iadd64 => .iadd64 f.b f.guard f.d f.opX f.opY f.mod
  | .isub32 => .isub32 f.b f.d f.s1
  | .isub64 => .isub64 f.b f.guard f.d f.opX f.opY f.mod
  | .imul32 => .imul32 f.b f.d f.s1
  | .imul64 => .imul64 f.b f.guard f.d f.opX f.opY f.mod
  | .imulh32 => .imulh32 f.b f.d f.s1
  | .imulh64 => .imulh64 f.b f.guard f.d f.opX f.opY
  | .imulhu32 => .imulhu32 f.b f.d f.s1
  | .imulhu64 => .imulhu64 f.b f.guard f.d f.opX f.opY
  | .imad => .imad f.b f.guard f.d f.opX f.opY f.s3 f.mod
  | .imin32 => .imin32 f.b f.d f.s1
  | .imin64 => .imin64 f.b f.guard f.d f.opX f.opY
  | .imax32 => .imax32 f.b f.d f.s1
  | .imax64 => .imax64 f.b f.guard f.d f.opX f.opY
  | .iminu32 => .iminu32 f.b f.d f.s1
  | .iminu64 => .iminu64 f.b f.guard f.d f.opX f.opY
  | .imaxu32 => .imaxu32 f.b f.d f.s1
  | .imaxu64 => .imaxu64 f.b f.guard f.d f.opX f.opY
  | .iand32 => .iand32 f.b f.d f.s1
  | .iand64 => .iand64 f.b f.guard f.d f.opX f.opY
  | .ior32 => .ior32 f.b f.d f.s1
  | .ior64 => .ior64 f.b f.guard f.d f.opX f.opY
  | .ixor32 => .ixor32 f.b f.d f.s1
  | .ixor64 => .ixor64 f.b f.guard f.d f.opX f.opY
  | .iandn32 => .iandn32 f.b f.d f.s1
  | .iandn64 => .iandn64 f.b f.guard f.d f.opX f.opY
  | .inot32 => .inot32 f.b f.d f.s1
  | .inot64 => .inot64 f.b f.guard f.d f.off
  | .ishl32 => .ishl32 f.b f.d f.s1
  | .ishl64 => .ishl64 f.b f.guard f.d f.opX f.opY
  | .ishr32 => .ishr32 f.b f.d f.s1
  | .ishr64 => .ishr64 f.b f.guard f.d f.opX f.opY
  | .isar32 => .isar32 f.b f.d f.s1
  | .isar64 => .isar64 f.b f.guard f.d f.opX f.opY
  | .irot32 => .irot32 f.b f.d f.s1
  | .irot64 => .irot64 f.b f.guard f.d f.opX f.opY
  | .ibfx32 => .ibfx32 f.b f.d f.s1
  | .ibfx64 => .ibfx64 f.b f.guard f.d f.opX f.opY
  | .ibfxu32 => .ibfxu32 f.b f.d f.s1
  | .ibfxu64 => .ibfxu64 f.b f.guard f.d f.opX f.opY
  | .ibfi => .ibfi f.b f.guard f.d f.opX f.opY f.s3
  | .ipopc32 => .ipopc32 f.b f.d f.s1
  | .ipopc64 => .ipopc64 f.b f.guard f.d f.off
  | .iclz32 => .iclz32 f.b f.d f.s1
  | .iclz64 => .iclz64 f.b f.guard f.d f.off
  | .ibrev32 => .ibrev32 f.b f.d f.s1
  | .ibrev64 => .ibrev64 f.b f.guard f.d f.off
  | .iaddc => .iaddc f.b f.guard f.d f.opX f.opY (f.s3.setWidth 3) (f.x1.setWidth 3)
  | .isubb => .isubb f.b f.guard f.d f.opX f.opY (f.s3.setWidth 3) (f.x1.setWidth 3)
  | .isetp => .isetp f.b f.guard f.sub (f.d.setWidth 3) f.opX f.opY
  | .isel => .isel f.b f.guard f.d f.opX f.opY (f.s3.setWidth 3)
  | .imov32 => .imov32 f.b f.d f.s1
  | .imov64 => .imov64 f.b f.guard f.d (f.opUn .v)
  | .iabs32 => .iabs32 f.b f.d f.s1
  | .iabs64 => .iabs64 f.b f.guard f.d f.s1 f.mod
  | .ineg32 => .ineg32 f.b f.d f.s1
  | .ineg64 => .ineg64 f.b f.guard f.d f.s1 f.mod
  | .idp4 => .idp4 f.b f.guard f.d f.opX f.opY f.s3 f.mod
  | .iprmt => .iprmt f.b f.guard f.d f.opX f.opY f.s3
  | .isad => .isad f.b f.guard f.d f.opX f.opY f.s3 (f.mod == 1)
  | .nop32 => .nop32 f.b
  | .nop64 => .nop64 f.b f.guard
  | .nop96 => .nop96 f.b f.guard
  | .pand32 => .pand32 f.b (f.d.setWidth 3) (f.s1.setWidth 3)
  | .pand64 => .pand64 f.b f.guard (f.d.setWidth 3) (f.s1.setWidth 3) (f.s2.setWidth 3)
  | .por32 => .por32 f.b (f.d.setWidth 3) (f.s1.setWidth 3)
  | .por64 => .por64 f.b f.guard (f.d.setWidth 3) (f.s1.setWidth 3) (f.s2.setWidth 3)
  | .pxor32 => .pxor32 f.b (f.d.setWidth 3) (f.s1.setWidth 3)
  | .pxor64 => .pxor64 f.b f.guard (f.d.setWidth 3) (f.s1.setWidth 3) (f.s2.setWidth 3)
  | .pandn32 => .pandn32 f.b (f.d.setWidth 3) (f.s1.setWidth 3)
  | .pandn64 => .pandn64 f.b f.guard (f.d.setWidth 3) (f.s1.setWidth 3) (f.s2.setWidth 3)
  | .pnot32 => .pnot32 f.b (f.d.setWidth 3) (f.s1.setWidth 3)
  | .pnot64 => .pnot64 f.b f.guard (f.d.setWidth 3) (f.s1.setWidth 3)
  | .pmov32 => .pmov32 f.b (f.d.setWidth 3) (f.s1.setWidth 3)
  | .pmov64 => .pmov64 f.b f.guard (f.d.setWidth 3) (f.s1.setWidth 3)
  | .pmovBit => .pmovBit f.b f.guard (f.d.setWidth 3) f.opX f.opY
  | .pmovQ => .pmovQ f.b f.guard (f.d.setWidth 3) (f.s1.setWidth 3)
  | .pmovHelp32 => .pmovHelp32 f.b (f.d.setWidth 3)
  | .pmovHelp64 => .pmovHelp64 f.b f.guard (f.d.setWidth 3)
  | .voteAll => .voteAll f.b f.guard (f.d.setWidth 3) (f.s1.setWidth 3)
  | .voteAny => .voteAny f.b f.guard (f.d.setWidth 3) (f.s1.setWidth 3)
  | .voteBal => .voteBal f.b f.guard f.d (f.s1.setWidth 3) f.s2
  | .voteCnt => .voteCnt f.b f.guard f.d (f.s1.setWidth 3)
  | .shflIdx => .shflIdx f.b f.guard f.d f.opX f.opY
  | .shflUp => .shflUp f.b f.guard f.d f.opX f.opY
  | .shflDn => .shflDn f.b f.guard f.d f.opX f.opY
  | .shflXor => .shflXor f.b f.guard f.d f.opX f.opY
  | .shflQx => .shflQx f.b f.guard f.d f.s1
  | .shflQy => .shflQy f.b f.guard f.d f.s1
  | .redx => .redx f.b f.guard f.sub f.d f.s1
  | .scan => .scan f.b f.guard f.sub f.d f.s1 (f.mod == 1)
  | .barr => .barr f.b f.sub f.d f.off f.x1
  | .bra => .bra f.b f.disp
  | .brx => .brx f.b (gTerm f.g1) f.disp f.joinDisp
  | .join => .join f.b
  | .loop => .loop f.b f.disp
  | .brk32 => .brk32 f.b
  | .brk64 => .brk64 f.b f.guard
  | .cont32 => .cont32 f.b
  | .cont64 => .cont64 f.b f.guard
  | .callDisp => .callDisp f.b f.disp
  | .callReg => .callReg f.b f.s1
  | .ret => .ret f.b
  | .exit32 => .exit32 f.b
  | .exit64 => .exit64 f.b f.guard
  | .yield => .yield f.b
  | .trap32 => .trap32 f.b
  | .trap64 => .trap64 f.b f.guard f.s3
  | .bkpt32 => .bkpt32 f.b
  | .bkpt64 => .bkpt64 f.b f.guard f.s3
  | .sread32 => .sread32 f.b f.d f.s1
  | .sread64 => .sread64 f.b f.guard f.d f.s1
  | .swrite32 => .swrite32 f.b f.d f.s1
  | .swrite64 => .swrite64 f.b f.guard f.d f.s1
  | .fadd32 => .fadd32 f.b f.d f.s1
  | .fadd64 => .fadd64 f.b f.guard f.d f.opX f.opY f.mod
  | .fsub32 => .fsub32 f.b f.d f.s1
  | .fsub64 => .fsub64 f.b f.guard f.d f.opX f.opY f.mod
  | .fmul32 => .fmul32 f.b f.d f.s1
  | .fmul64 => .fmul64 f.b f.guard f.d f.opX f.opY f.mod
  | .ffma => .ffma f.b f.guard f.d f.opX f.opY f.s3 f.mod
  | .fmin32 => .fmin32 f.b f.d f.s1
  | .fmin64 => .fmin64 f.b f.guard f.d f.opX f.opY
  | .fmax32 => .fmax32 f.b f.d f.s1
  | .fmax64 => .fmax64 f.b f.guard f.d f.opX f.opY
  | .fabs32 => .fabs32 f.b f.d f.s1
  | .fabs64 => .fabs64 f.b f.guard f.d f.s1
  | .fneg32 => .fneg32 f.b f.d f.s1
  | .fneg64 => .fneg64 f.b f.guard f.d f.s1
  | .fcpsgn32 => .fcpsgn32 f.b f.d f.s1
  | .fcpsgn64 => .fcpsgn64 f.b f.guard f.d f.opX f.opY
  | .fsetp => .fsetp f.b f.guard f.sub (f.d.setWidth 3) f.opX f.opY
  | .frnd32 => .frnd32 f.b f.d f.s1
  | .frnd64 => .frnd64 f.b f.guard f.d f.s1 f.mod
  | .fclass32 => .fclass32 f.b f.d f.s1
  | .fclass64 => .fclass64 f.b f.guard f.d f.s1
  | .fscl32 => .fscl32 f.b f.d f.s1
  | .fscl64 => .fscl64 f.b f.guard f.d f.opX f.opY f.mod
  | .hadd232 => .hadd232 f.b f.d f.s1
  | .hadd264 => .hadd264 f.b f.guard f.d f.opX f.opY f.mod
  | .hmul232 => .hmul232 f.b f.d f.s1
  | .hmul264 => .hmul264 f.b f.guard f.d f.opX f.opY f.mod
  | .hfma2 => .hfma2 f.b f.guard f.d f.opX f.opY f.s3 f.mod
  | .frcp32 => .frcp32 f.b f.d f.s1
  | .frcp64 => .frcp64 f.b f.guard f.d f.s1 f.mod
  | .frsq32 => .frsq32 f.b f.d f.s1
  | .frsq64 => .frsq64 f.b f.guard f.d f.s1 f.mod
  | .fsqrt32 => .fsqrt32 f.b f.d f.s1
  | .fsqrt64 => .fsqrt64 f.b f.guard f.d f.s1 f.mod
  | .fexp232 => .fexp232 f.b f.d f.s1
  | .fexp264 => .fexp264 f.b f.guard f.d f.s1
  | .flog232 => .flog232 f.b f.d f.s1
  | .flog264 => .flog264 f.b f.guard f.d f.s1
  | .fsin32 => .fsin32 f.b f.d f.s1
  | .fsin64 => .fsin64 f.b f.guard f.d f.s1
  | .fcos32 => .fcos32 f.b f.d f.s1
  | .fcos64 => .fcos64 f.b f.guard f.d f.s1
  | .frandU3232 => .frandU3232 f.b f.d
  | .frandU3264 => .frandU3264 f.b f.guard f.d
  | .frandF3232 => .frandF3232 f.b f.d
  | .frandF3264 => .frandF3264 f.b f.guard f.d
  | .cvt => .cvt f.b f.guard f.d f.s1 f.s3 f.mod
  | .cvtpPack => .cvtpPack f.b f.guard f.d f.s1 f.s2 (f.s3.setWidth 4) f.mod
  | .cvtpPacksr => .cvtpPacksr f.b f.guard f.d f.s1 f.s2 (f.s3.setWidth 4)
  | .cvtpUnpack => .cvtpUnpack f.b f.guard f.d f.s1 (f.s3.extractLsb' 6 2) (f.s3.setWidth 4)
  | .ld => .ld f.b f.guard f.sub f.d f.off f.s2 f.s3 f.rq f.hint
  | .st => .st f.b f.guard f.sub f.d f.off f.s2 f.s3 f.rq f.hint
  | .ldb => .ldb f.b f.guard f.sub f.d f.off f.s2 f.s3 f.hint f.mod
  | .lds => .lds f.b f.guard f.sub f.d f.off f.s3 (f.rq == 1)
  | .sts => .sts f.b f.guard f.sub f.d f.off f.s3 (f.rq == 1)
  | .atom => .atom f.b f.guard f.sub f.d f.off f.s2 f.s3 (f.rq == 1) f.hint f.mod f.s4 f.s5 f.x1
  | .red => .red f.b f.guard f.sub f.off f.s2 f.s3 (f.rq == 1) f.hint (f.mod == 2) f.s4 f.x1
  | .atoms => .atoms f.b f.guard f.sub f.d f.off f.s3 (f.rq == 1) f.mod f.s4 f.s5 f.x1
  | .fenceAcq => .fenceAcq f.b
  | .fenceRel => .fenceRel f.b
  | .fenceAr => .fenceAr f.b
  | .rrel32 => .rrel32 f.b f.s1
  | .rrel64 => .rrel64 f.b f.guard f.s1
  | .invr => .invr f.b f.guard f.s1 f.s2 f.s3
  | .wbr => .wbr f.b f.guard f.s1 f.s2 f.s3
  | .flr => .flr f.b f.guard f.s1 f.s2 f.s3
  | .pref => .pref f.b f.guard f.s1 f.s2 f.s3 f.hint
  | .cpy => .cpy f.b f.guard f.off f.s2 f.s3 f.hint f.mod f.s4 f.s5 (f.x1.extractLsb' 4 4) (f.x1.getLsbD 3) (f.x1.setWidth 3) (f.x2.extractLsb' 6 2) (f.x2.getLsbD 5) (f.x2.getLsbD 4) (f.x2.getLsbD 3)
  | .cpyt => .cpyt f.b f.guard f.s1 f.s2 f.s3 f.hint f.s4 f.s5 (f.x1.getLsbD 5) (f.x1.getLsbD 4) (f.x1.getLsbD 3) (f.x1.setWidth 3)
  | .cpymMc => .cpymMc f.b f.guard f.off f.dat f.s3 f.hint (f.mod == 1) f.s4 (f.x1.extractLsb' 5 3) (f.x1.getLsbD 4) f.x2
  | .cpymRd => .cpymRd f.b f.guard f.off f.dat f.s3 f.hint (f.mod == 1) f.s4 (f.x1.extractLsb' 5 3) (f.x1.getLsbD 4) (f.x1.setWidth 4) f.x2
  | .waitt32 => .waitt32 f.b f.s1
  | .waitt64 => .waitt64 f.b f.guard f.s1
  | .waitw => .waitw f.b f.guard f.s1 f.s2 f.s3 f.mod
  | .notify => .notify f.b f.guard f.s1 f.s2 f.s3
  | .notifySt => .notifySt f.b f.guard f.s1 f.s2 f.s3
  | .qfence => .qfence f.b (f.s1.setWidth 4)
  | .isend => .isend f.b f.guard f.s1 f.s2 f.s3 f.hint f.s4 f.s5 (f.x1.extractLsb' 6 2) (f.x1.extractLsb' 3 3) (f.x1.setWidth 3) (f.x2.getLsbD 7) (f.x2.extractLsb' 4 3) (f.x2.setWidth 4)
  | .isendSync => .isendSync f.b f.guard f.s1 f.s2 f.s3 f.hint f.s4 f.s5 (f.x1.extractLsb' 6 2) (f.x1.extractLsb' 3 3) (f.x1.setWidth 3) (f.x2.getLsbD 7) (f.x2.extractLsb' 4 3) (f.x2.setWidth 4)
  | .lstat32 => .lstat32 f.b f.d f.s1
  | .lstat64 => .lstat64 f.b f.guard f.d f.s1
  | .tricls => .tricls f.b f.guard (f.d.setWidth 3) f.s1 (f.x1.extractLsb' 3 2) (f.x1.setWidth 3) f.x2
  | .wbld => .wbld f.b f.guard f.s1 f.s2 f.s3 f.hint
  | .wbgth => .wbgth f.b f.guard f.s1 f.s2 f.s3 f.hint f.s4
  | .mma => .mma f.b f.guard f.s1 f.s2 f.hint (f.mod.getLsbD 1) (f.mod.getLsbD 0) f.s4 f.s5 (f.x1.getLsbD 5) (f.x1.setWidth 5) (f.x2.setWidth 7)
  | .mmas => .mmas f.b f.guard f.d f.s1 f.s3 f.s4 (f.x1.getLsbD 5) (f.x1.setWidth 5) (f.x2.setWidth 7)
  | .scacc => .scacc f.b f.guard f.d f.s1 f.s3 (f.mod == 1) f.s4 (f.x1.setWidth 5) (f.x2.setWidth 7)
  | .lbind => .lbind f.b (f.s1.setWidth 3)
  | .lunbind => .lunbind f.b
  | .ladd => .ladd f.b f.guard f.d f.s1 f.s2 (f.s3.setWidth 3) (f.mod.getLsbD 1) (f.mod.getLsbD 0)
  | .lsub => .lsub f.b f.guard f.d f.s1 f.s2 (f.s3.setWidth 3) (f.mod.getLsbD 1) (f.mod.getLsbD 0)
  | .lshl => .lshl f.b f.guard f.d f.opX f.opY
  | .lshr => .lshr f.b f.guard f.d f.opX f.opY
  | .lmacs => .lmacs f.b f.guard f.d f.s1 f.s2 f.s3 (f.mod == 2) (f.x1.setWidth 5)
  | .lcmp => .lcmp f.b f.guard f.sub (f.d.setWidth 3) f.s1 f.s2

/-- The decoder over the fields of one word group (R244). -/
noncomputable def decodeFields (f : Fields) : Instr :=
  match classify f with
  | .ok r => r.build f
  | .bad cause idx bitPos => .ill cause f.word0 idx bitPos

/-- How many words LEN names; one for LEN = 11 (R233, R260). -/
def wordCount (w0 : Word) : Nat :=
  let l := (w0.extractLsb' 0 2).toNat
  if l = 3 then 1 else l + 1

/-- The fields of a fetched group: words that LEN does not name are not looked at (R232, R233). -/
def teamFields (w0 w1 w2 : Word) : Fields :=
  let n := wordCount w0
  Fields.ofWords w0 (if n < 2 then 0 else w1) (if n < 3 then 0 else w2)

/-- The team instruction that up to three words hold; words that LEN does not name are not looked at (R232, R233). -/
noncomputable def decodeTeam (w0 w1 w2 : Word) : Instr := decodeFields (teamFields w0 w1 w2)

/-- What a gondola word is (R53, R54): an Xgnd instruction, an Xgnd word that raises mcause 2, or a word of the base
RV32IMC set, whose meaning is another manual's. -/
inductive GondolaWord where
  | xgnd (i : Instr)
  | illegal
  | base
  deriving DecidableEq, Repr

/-- The gondola's decoder (R54). -/
def decodeGondola (w : Word) : GondolaWord :=
  let rd := w.extractLsb' 7 5
  let rs := w.extractLsb' 15 5
  let rt := w.extractLsb' 20 5
  let f3 := (w.extractLsb' 12 3).toNat
  let hi := w.extractLsb' 20 12
  match (w.extractLsb' 0 7).toNat with
  | 0x0B =>
    match f3 with
    | 0 => if hi = 0 then .xgnd (.rfetch rd rs) else .illegal
    | 1 => if w.extractLsb' 25 2 = 0 then .xgnd (.bfx rd rs rt (w.extractLsb' 27 5)) else .illegal
    | 2 => if hi = 0 then .xgnd (.sigw rd rs) else .illegal
    | 3 => if hi = 0 then .xgnd (.dspt rd rs) else .illegal
    | _ => .illegal
  | 0x2B =>
    match f3 with
    | 0 => if w.extractLsb' 25 7 = 0 ∧ rd = 0 then .xgnd (.qpark rs rt) else .illegal
    | 1 => if hi = 0 ∧ rd = 0 then .xgnd (.qwake rs) else .illegal
    | _ => .illegal
  | _ => .base

/-- A word of the Xgnd opcodes: both end in 11, so no team word of a legal length has these seven bits (R54, R233). -/
def isXgnd (w : Word) : Bool := w.extractLsb' 0 7 = 0x0B || w.extractLsb' 0 7 = 0x2B

/-- The decoder over stored bytes, little-endian words, word 0 at the lowest address (R232). Total: a group that is no
instruction is `ill`, and none is an Xgnd word that the gondola refuses. -/
noncomputable def decodeBytes (bs : List Byte) : Option Instr :=
  let word (k : Nat) : Word := BitVec.ofNat 32 (leNat ((bs.drop (4 * k)).take 4))
  if isXgnd (word 0) then
    match decodeGondola (word 0) with
    | .xgnd i => some i
    | .illegal => none
    | .base => none
  else some (decodeTeam (word 0) (word 1) (word 2))

/-- The instruction whose bits, numbered as the opcode table numbers them, are `w`: the bytes as stored, then the
decoder. Bits above `nbits` are 0. -/
noncomputable def decodeTableWord (nbits w : Nat) : Option Instr := decodeBytes (leBytes 12 (w % 2 ^ nbits))

/-- The fields of a displacement form (R242). -/
def Fields.ofDisp (op : BitVec 7) (b : Bool) (disp : BitVec 22) : Fields :=
  { Fields.zero with op := op, b := b, sig := disp.extractLsb' 19 3, sub := disp.extractLsb' 16 3,
                     s1 := disp.extractLsb' 8 8, d := disp.extractLsb' 0 8 }

/-- The fields of BRX (R242). -/
def Fields.ofBrx (b : Bool) (pd : PTerm) (taken join : BitVec 22) : Fields :=
  { Fields.ofDisp 0x51 b taken with
      len := 2, gop := 1, g1 := BitVec.ofBool pd.neg ++ pd.idx,
      x1 := (0 : BitVec 2) ++ join.extractLsb' 16 6, s5 := join.extractLsb' 8 8, s4 := join.extractLsb' 0 8 }

/-- The G field of a guard term. -/
def PTerm.bits (t : PTerm) : BitVec 4 := BitVec.ofBool t.neg ++ t.idx

/-- The GOP field of a guard (R234). -/
def Guard.gop : Guard → BitVec 2
  | .always => 0
  | .one _ => 1
  | .both _ _ => 2
  | .either _ _ => 3

/-- The G1 field of a guard; zero where GOP does not use it (R240). -/
def Guard.g1 : Guard → BitVec 4
  | .always => 0
  | .one t => t.bits
  | .both t _ => t.bits
  | .either t _ => t.bits

/-- The G2 field of a guard; zero where GOP does not use it (R240). -/
def Guard.g2 : Guard → BitVec 4
  | .always => 0
  | .one _ => 0
  | .both _ u => u.bits
  | .either _ u => u.bits

/-- The guard fields (R234, R240). -/
def Fields.setGuard (f : Fields) (g : Guard) : Fields := { f with gop := g.gop, g1 := g.g1, g2 := g.g2 }

/-- The fields of SMOV_32 (R264-R269). -/
def encSmov32 (b : Bool) (d x : Spec) : Fields :=
  { Fields.zero with op := 0x02, b := b, len := 0, sub := 0, sig := 6, d := d, s1 := x }

/-- The fields of SMOV_64 (R264-R269). -/
def encSmov64 (b : Bool) (g : Guard) (d : Spec) (x : Opd) : Fields :=
  ({ Fields.zero with op := 0x02, b := b, len := 1, sub := 0, sig := unSig 6 x, s1 := x.spec, s3 := x.immByte, d := d }).setGuard g

/-- The fields of SADD_32 (R264-R269). -/
def encSadd32 (b : Bool) (d y : Spec) : Fields :=
  { Fields.zero with op := 0x03, b := b, len := 0, sub := 0, sig := 6, d := d, s1 := y }

/-- The fields of SADD_64 (R264-R269). -/
def encSadd64 (b : Bool) (g : Guard) (d x y : Spec) : Fields :=
  ({ Fields.zero with op := 0x03, b := b, len := 1, sub := 0, sig := 6, d := d, s1 := x, s2 := y }).setGuard g

/-- The fields of SSUB_32 (R264-R269). -/
def encSsub32 (b : Bool) (d y : Spec) : Fields :=
  { Fields.zero with op := 0x04, b := b, len := 0, sub := 0, sig := 6, d := d, s1 := y }

/-- The fields of SSUB_64 (R264-R269). -/
def encSsub64 (b : Bool) (g : Guard) (d x y : Spec) : Fields :=
  ({ Fields.zero with op := 0x04, b := b, len := 1, sub := 0, sig := 6, d := d, s1 := x, s2 := y }).setGuard g

/-- The fields of SMUL_32 (R264-R269). -/
def encSmul32 (b : Bool) (d y : Spec) : Fields :=
  { Fields.zero with op := 0x05, b := b, len := 0, sub := 0, sig := 6, d := d, s1 := y }

/-- The fields of SMUL_64 (R264-R269). -/
def encSmul64 (b : Bool) (g : Guard) (d x y : Spec) : Fields :=
  ({ Fields.zero with op := 0x05, b := b, len := 1, sub := 0, sig := 6, d := d, s1 := x, s2 := y }).setGuard g

/-- The fields of SMULH_32 (R264-R269). -/
def encSmulh32 (b : Bool) (d y : Spec) : Fields :=
  { Fields.zero with op := 0x05, b := b, len := 0, sub := 1, sig := 6, d := d, s1 := y }

/-- The fields of SMULH_64 (R264-R269). -/
def encSmulh64 (b : Bool) (g : Guard) (d x y : Spec) : Fields :=
  ({ Fields.zero with op := 0x05, b := b, len := 1, sub := 1, sig := 6, d := d, s1 := x, s2 := y }).setGuard g

/-- The fields of SMULHU_32 (R264-R269). -/
def encSmulhu32 (b : Bool) (d y : Spec) : Fields :=
  { Fields.zero with op := 0x05, b := b, len := 0, sub := 2, sig := 6, d := d, s1 := y }

/-- The fields of SMULHU_64 (R264-R269). -/
def encSmulhu64 (b : Bool) (g : Guard) (d x y : Spec) : Fields :=
  ({ Fields.zero with op := 0x05, b := b, len := 1, sub := 2, sig := 6, d := d, s1 := x, s2 := y }).setGuard g

/-- The fields of SAND_32 (R264-R269). -/
def encSand32 (b : Bool) (d y : Spec) : Fields :=
  { Fields.zero with op := 0x06, b := b, len := 0, sub := 0, sig := 6, d := d, s1 := y }

/-- The fields of SAND_64 (R264-R269). -/
def encSand64 (b : Bool) (g : Guard) (d x y : Spec) : Fields :=
  ({ Fields.zero with op := 0x06, b := b, len := 1, sub := 0, sig := 6, d := d, s1 := x, s2 := y }).setGuard g

/-- The fields of SOR_32 (R264-R269). -/
def encSor32 (b : Bool) (d y : Spec) : Fields :=
  { Fields.zero with op := 0x06, b := b, len := 0, sub := 1, sig := 6, d := d, s1 := y }

/-- The fields of SOR_64 (R264-R269). -/
def encSor64 (b : Bool) (g : Guard) (d x y : Spec) : Fields :=
  ({ Fields.zero with op := 0x06, b := b, len := 1, sub := 1, sig := 6, d := d, s1 := x, s2 := y }).setGuard g

/-- The fields of SXOR_32 (R264-R269). -/
def encSxor32 (b : Bool) (d y : Spec) : Fields :=
  { Fields.zero with op := 0x06, b := b, len := 0, sub := 2, sig := 6, d := d, s1 := y }

/-- The fields of SXOR_64 (R264-R269). -/
def encSxor64 (b : Bool) (g : Guard) (d x y : Spec) : Fields :=
  ({ Fields.zero with op := 0x06, b := b, len := 1, sub := 2, sig := 6, d := d, s1 := x, s2 := y }).setGuard g

/-- The fields of SANDN_32 (R264-R269). -/
def encSandn32 (b : Bool) (d y : Spec) : Fields :=
  { Fields.zero with op := 0x06, b := b, len := 0, sub := 3, sig := 6, d := d, s1 := y }

/-- The fields of SANDN_64 (R264-R269). -/
def encSandn64 (b : Bool) (g : Guard) (d x y : Spec) : Fields :=
  ({ Fields.zero with op := 0x06, b := b, len := 1, sub := 3, sig := 6, d := d, s1 := x, s2 := y }).setGuard g

/-- The fields of SNOT_32 (R264-R269). -/
def encSnot32 (b : Bool) (d x : Spec) : Fields :=
  { Fields.zero with op := 0x06, b := b, len := 0, sub := 4, sig := 6, d := d, s1 := x }

/-- The fields of SNOT_64 (R264-R269). -/
def encSnot64 (b : Bool) (g : Guard) (d x : Spec) : Fields :=
  ({ Fields.zero with op := 0x06, b := b, len := 1, sub := 4, sig := 6, d := d, s1 := x }).setGuard g

/-- The fields of SSHL_32 (R264-R269). -/
def encSshl32 (b : Bool) (d y : Spec) : Fields :=
  { Fields.zero with op := 0x07, b := b, len := 0, sub := 0, sig := 6, d := d, s1 := y }

/-- The fields of SSHL_64 (R264-R269). -/
def encSshl64 (b : Bool) (g : Guard) (d x y : Spec) : Fields :=
  ({ Fields.zero with op := 0x07, b := b, len := 1, sub := 0, sig := 6, d := d, s1 := x, s2 := y }).setGuard g

/-- The fields of SSHR_32 (R264-R269). -/
def encSshr32 (b : Bool) (d y : Spec) : Fields :=
  { Fields.zero with op := 0x07, b := b, len := 0, sub := 1, sig := 6, d := d, s1 := y }

/-- The fields of SSHR_64 (R264-R269). -/
def encSshr64 (b : Bool) (g : Guard) (d x y : Spec) : Fields :=
  ({ Fields.zero with op := 0x07, b := b, len := 1, sub := 1, sig := 6, d := d, s1 := x, s2 := y }).setGuard g

/-- The fields of SSAR_32 (R264-R269). -/
def encSsar32 (b : Bool) (d y : Spec) : Fields :=
  { Fields.zero with op := 0x07, b := b, len := 0, sub := 2, sig := 6, d := d, s1 := y }

/-- The fields of SSAR_64 (R264-R269). -/
def encSsar64 (b : Bool) (g : Guard) (d x y : Spec) : Fields :=
  ({ Fields.zero with op := 0x07, b := b, len := 1, sub := 2, sig := 6, d := d, s1 := x, s2 := y }).setGuard g

/-- The fields of SMIN_32 (R264-R269). -/
def encSmin32 (b : Bool) (d y : Spec) : Fields :=
  { Fields.zero with op := 0x08, b := b, len := 0, sub := 0, sig := 6, d := d, s1 := y }

/-- The fields of SMIN_64 (R264-R269). -/
def encSmin64 (b : Bool) (g : Guard) (d x y : Spec) : Fields :=
  ({ Fields.zero with op := 0x08, b := b, len := 1, sub := 0, sig := 6, d := d, s1 := x, s2 := y }).setGuard g

/-- The fields of SMAX_32 (R264-R269). -/
def encSmax32 (b : Bool) (d y : Spec) : Fields :=
  { Fields.zero with op := 0x08, b := b, len := 0, sub := 1, sig := 6, d := d, s1 := y }

/-- The fields of SMAX_64 (R264-R269). -/
def encSmax64 (b : Bool) (g : Guard) (d x y : Spec) : Fields :=
  ({ Fields.zero with op := 0x08, b := b, len := 1, sub := 1, sig := 6, d := d, s1 := x, s2 := y }).setGuard g

/-- The fields of SMINU_32 (R264-R269). -/
def encSminu32 (b : Bool) (d y : Spec) : Fields :=
  { Fields.zero with op := 0x08, b := b, len := 0, sub := 2, sig := 6, d := d, s1 := y }

/-- The fields of SMINU_64 (R264-R269). -/
def encSminu64 (b : Bool) (g : Guard) (d x y : Spec) : Fields :=
  ({ Fields.zero with op := 0x08, b := b, len := 1, sub := 2, sig := 6, d := d, s1 := x, s2 := y }).setGuard g

/-- The fields of SMAXU_32 (R264-R269). -/
def encSmaxu32 (b : Bool) (d y : Spec) : Fields :=
  { Fields.zero with op := 0x08, b := b, len := 0, sub := 3, sig := 6, d := d, s1 := y }

/-- The fields of SMAXU_64 (R264-R269). -/
def encSmaxu64 (b : Bool) (g : Guard) (d x y : Spec) : Fields :=
  ({ Fields.zero with op := 0x08, b := b, len := 1, sub := 3, sig := 6, d := d, s1 := x, s2 := y }).setGuard g

/-- The fields of SCMP (R264-R269). -/
def encScmp (b : Bool) (g : Guard) (cc d : BitVec 3) (x y : Spec) : Fields :=
  ({ Fields.zero with op := 0x09, b := b, len := 1, sub := cc, sig := 6, d := d.setWidth 8, s1 := x, s2 := y }).setGuard g

/-- The fields of SSEL (R264-R269). -/
def encSsel (b : Bool) (g : Guard) (d x y : Spec) (c : BitVec 3) : Fields :=
  ({ Fields.zero with op := 0x0A, b := b, len := 1, sub := 0, sig := 6, d := d, s1 := x, s2 := y, s3 := c.setWidth 8 }).setGuard g

/-- The fields of SLDC_W32 (R264-R269). -/
def encSldcW32 (b : Bool) (g : Guard) (d x y : Spec) : Fields :=
  ({ Fields.zero with op := 0x0B, b := b, len := 1, sub := 0, sig := 6, d := d, s1 := x, s2 := y }).setGuard g

/-- The fields of SLDC_W64 (R264-R269). -/
def encSldcW64 (b : Bool) (g : Guard) (d x y : Spec) : Fields :=
  ({ Fields.zero with op := 0x0B, b := b, len := 1, sub := 1, sig := 6, d := d, s1 := x, s2 := y }).setGuard g

/-- The fields of SBFX_32 (R264-R269). -/
def encSbfx32 (b : Bool) (d y : Spec) : Fields :=
  { Fields.zero with op := 0x0C, b := b, len := 0, sub := 0, sig := 6, d := d, s1 := y }

/-- The fields of SBFX_64 (R264-R269). -/
def encSbfx64 (b : Bool) (g : Guard) (d x y : Spec) : Fields :=
  ({ Fields.zero with op := 0x0C, b := b, len := 1, sub := 0, sig := 6, d := d, s1 := x, s2 := y }).setGuard g

/-- The fields of SBFI (R264-R269). -/
def encSbfi (b : Bool) (g : Guard) (d x y z : Spec) : Fields :=
  ({ Fields.zero with op := 0x0C, b := b, len := 1, sub := 1, sig := 6, d := d, s1 := x, s2 := y, s3 := z }).setGuard g

/-- The fields of SPOPC_32 (R264-R269). -/
def encSpopc32 (b : Bool) (d x : Spec) : Fields :=
  { Fields.zero with op := 0x0C, b := b, len := 0, sub := 2, sig := 6, d := d, s1 := x }

/-- The fields of SPOPC_64 (R264-R269). -/
def encSpopc64 (b : Bool) (g : Guard) (d x : Spec) : Fields :=
  ({ Fields.zero with op := 0x0C, b := b, len := 1, sub := 2, sig := 6, d := d, s1 := x }).setGuard g

/-- The fields of SCLZ_32 (R264-R269). -/
def encSclz32 (b : Bool) (d x : Spec) : Fields :=
  { Fields.zero with op := 0x0C, b := b, len := 0, sub := 3, sig := 6, d := d, s1 := x }

/-- The fields of SCLZ_64 (R264-R269). -/
def encSclz64 (b : Bool) (g : Guard) (d x : Spec) : Fields :=
  ({ Fields.zero with op := 0x0C, b := b, len := 1, sub := 3, sig := 6, d := d, s1 := x }).setGuard g

/-- The fields of QAND_32 (R264-R269). -/
def encQand32 (b : Bool) (d y : BitVec 3) : Fields :=
  { Fields.zero with op := 0x0D, b := b, len := 0, sub := 0, sig := 0, d := d.setWidth 8, s1 := y.setWidth 8 }

/-- The fields of QAND_64 (R264-R269). -/
def encQand64 (b : Bool) (g : Guard) (d x y : BitVec 3) : Fields :=
  ({ Fields.zero with op := 0x0D, b := b, len := 1, sub := 0, sig := 0, d := d.setWidth 8, s1 := x.setWidth 8, s2 := y.setWidth 8 }).setGuard g

/-- The fields of QOR_32 (R264-R269). -/
def encQor32 (b : Bool) (d y : BitVec 3) : Fields :=
  { Fields.zero with op := 0x0D, b := b, len := 0, sub := 1, sig := 0, d := d.setWidth 8, s1 := y.setWidth 8 }

/-- The fields of QOR_64 (R264-R269). -/
def encQor64 (b : Bool) (g : Guard) (d x y : BitVec 3) : Fields :=
  ({ Fields.zero with op := 0x0D, b := b, len := 1, sub := 1, sig := 0, d := d.setWidth 8, s1 := x.setWidth 8, s2 := y.setWidth 8 }).setGuard g

/-- The fields of QXOR_32 (R264-R269). -/
def encQxor32 (b : Bool) (d y : BitVec 3) : Fields :=
  { Fields.zero with op := 0x0D, b := b, len := 0, sub := 2, sig := 0, d := d.setWidth 8, s1 := y.setWidth 8 }

/-- The fields of QXOR_64 (R264-R269). -/
def encQxor64 (b : Bool) (g : Guard) (d x y : BitVec 3) : Fields :=
  ({ Fields.zero with op := 0x0D, b := b, len := 1, sub := 2, sig := 0, d := d.setWidth 8, s1 := x.setWidth 8, s2 := y.setWidth 8 }).setGuard g

/-- The fields of QNOT_32 (R264-R269). -/
def encQnot32 (b : Bool) (d x : BitVec 3) : Fields :=
  { Fields.zero with op := 0x0D, b := b, len := 0, sub := 3, sig := 0, d := d.setWidth 8, s1 := x.setWidth 8 }

/-- The fields of QNOT_64 (R264-R269). -/
def encQnot64 (b : Bool) (g : Guard) (d x : BitVec 3) : Fields :=
  ({ Fields.zero with op := 0x0D, b := b, len := 1, sub := 3, sig := 0, d := d.setWidth 8, s1 := x.setWidth 8 }).setGuard g

/-- The fields of AMOV_S (R264-R269). -/
def encAmovS (b : Bool) (g : Guard) (d x : Spec) : Fields :=
  ({ Fields.zero with op := 0x10, b := b, len := 1, sub := 0, sig := 6, d := d, s1 := x }).setGuard g

/-- The fields of AMOV_IMM (R264-R269). -/
def encAmovImm (b : Bool) (g : Guard) (d n : Spec) : Fields :=
  ({ Fields.zero with op := 0x10, b := b, len := 1, sub := 1, sig := 3, d := d, s3 := n }).setGuard g

/-- The fields of AMOV_LANE (R264-R269). -/
def encAmovLane (b : Bool) (d : Spec) : Fields :=
  { Fields.zero with op := 0x10, b := b, len := 0, sub := 2, sig := 0, d := d }

/-- The fields of AMOV_32 (R264-R269). -/
def encAmov32 (b : Bool) (d x : Spec) : Fields :=
  { Fields.zero with op := 0x10, b := b, len := 0, sub := 3, sig := 5, d := d, s1 := x }

/-- The fields of AMOV_64 (R264-R269). -/
def encAmov64 (b : Bool) (g : Guard) (d x : Spec) : Fields :=
  ({ Fields.zero with op := 0x10, b := b, len := 1, sub := 3, sig := 5, d := d, s1 := x }).setGuard g

/-- The fields of AADD_32 (R264-R269). -/
def encAadd32 (b : Bool) (d y : Spec) : Fields :=
  { Fields.zero with op := 0x11, b := b, len := 0, sub := 0, sig := 5, d := d, s1 := y }

/-- The fields of AADD_64 (R264-R269). -/
def encAadd64 (b : Bool) (g : Guard) (d : Spec) (x y : Opd) : Fields :=
  ({ Fields.zero with op := 0x11, b := b, len := 1, sub := 0, sig := pairSig x y, s1 := x.spec, s2 := y.spec, d := d }).setGuard g

/-- The fields of ASUB_32 (R264-R269). -/
def encAsub32 (b : Bool) (d y : Spec) : Fields :=
  { Fields.zero with op := 0x12, b := b, len := 0, sub := 0, sig := 5, d := d, s1 := y }

/-- The fields of ASUB_64 (R264-R269). -/
def encAsub64 (b : Bool) (g : Guard) (d : Spec) (x y : Opd) : Fields :=
  ({ Fields.zero with op := 0x12, b := b, len := 1, sub := 0, sig := pairSig x y, s1 := x.spec, s2 := y.spec, d := d }).setGuard g

/-- The fields of AMUL (R264-R269). -/
def encAmul (b : Bool) (g : Guard) (d x y : Spec) : Fields :=
  ({ Fields.zero with op := 0x13, b := b, len := 1, sub := 0, sig := 4, d := d, s1 := x, s2 := y }).setGuard g

/-- The fields of ASHL (R264-R269). -/
def encAshl (b : Bool) (g : Guard) (d x y : Spec) : Fields :=
  ({ Fields.zero with op := 0x14, b := b, len := 1, sub := 0, sig := 4, d := d, s1 := x, s2 := y }).setGuard g

/-- The fields of PROMA (R264-R269). -/
def encProma (b : Bool) (g : Guard) (d x y : Spec) : Fields :=
  ({ Fields.zero with op := 0x15, b := b, len := 1, sub := 0, sig := 6, d := d, s1 := x, s2 := y }).setGuard g

/-- The fields of PROMV (R264-R269). -/
def encPromv (b : Bool) (g : Guard) (d y : Spec) : Fields :=
  ({ Fields.zero with op := 0x15, b := b, len := 1, sub := 1, sig := 1, d := d, s2 := y }).setGuard g

/-- The fields of PROMB (R264-R269). -/
def encPromb (b : Bool) (g : Guard) (d y : Spec) : Fields :=
  ({ Fields.zero with op := 0x15, b := b, len := 1, sub := 2, sig := 2, d := d, s2 := y }).setGuard g

/-- The fields of PROMP (R264-R269). -/
def encPromp (b : Bool) (g : Guard) (d x : BitVec 3) : Fields :=
  ({ Fields.zero with op := 0x15, b := b, len := 1, sub := 3, sig := 0, d := d.setWidth 8, s1 := x.setWidth 8 }).setGuard g

/-- The fields of RDFIRST (R264-R269). -/
def encRdfirst (b : Bool) (g : Guard) (d x : Spec) : Fields :=
  ({ Fields.zero with op := 0x16, b := b, len := 1, sub := 0, sig := 0, d := d, s1 := x }).setGuard g

/-- The fields of RDLAST (R264-R269). -/
def encRdlast (b : Bool) (g : Guard) (d x : Spec) : Fields :=
  ({ Fields.zero with op := 0x16, b := b, len := 1, sub := 1, sig := 0, d := d, s1 := x }).setGuard g

/-- The fields of RDLANE (R264-R269). -/
def encRdlane (b : Bool) (g : Guard) (d x y : Spec) : Fields :=
  ({ Fields.zero with op := 0x16, b := b, len := 1, sub := 2, sig := 2, d := d, s1 := x, s2 := y }).setGuard g

/-- The fields of CAPNAR (R264-R269). -/
def encCapnar (b : Bool) (g : Guard) (d x y z : Spec) : Fields :=
  ({ Fields.zero with op := 0x17, b := b, len := 1, sub := 0, sig := 6, d := d, s1 := x, s2 := y, s3 := z }).setGuard g

/-- The fields of CAPRST (R264-R269). -/
def encCaprst (b : Bool) (g : Guard) (d x y : Spec) : Fields :=
  ({ Fields.zero with op := 0x17, b := b, len := 1, sub := 1, sig := 6, d := d, s1 := x, s2 := y }).setGuard g

/-- The fields of CAPQRY_BASE (R264-R269). -/
def encCapqryBase (b : Bool) (g : Guard) (d x : Spec) : Fields :=
  ({ Fields.zero with op := 0x17, b := b, len := 1, sub := 2, sig := 0, d := d, s1 := x }).setGuard g

/-- The fields of CAPQRY_LEN (R264-R269). -/
def encCapqryLen (b : Bool) (g : Guard) (d x : Spec) : Fields :=
  ({ Fields.zero with op := 0x17, b := b, len := 1, sub := 3, sig := 0, d := d, s1 := x }).setGuard g

/-- The fields of CAPQRY_RIGHTS (R264-R269). -/
def encCapqryRights (b : Bool) (g : Guard) (d x : Spec) : Fields :=
  ({ Fields.zero with op := 0x17, b := b, len := 1, sub := 4, sig := 0, d := d, s1 := x }).setGuard g

/-- The fields of IADD_32 (R264-R269). -/
def encIadd32 (b : Bool) (d y : Spec) : Fields :=
  { Fields.zero with op := 0x18, b := b, len := 0, sub := 0, sig := 0, d := d, s1 := y }

/-- The fields of IADD_64 (R264-R269). -/
def encIadd64 (b : Bool) (g : Guard) (d : Spec) (x y : Opd) (m : BitVec 2) : Fields :=
  ({ Fields.zero with op := 0x18, b := b, len := 1, sub := 0, sig := pairSig x y, s1 := x.spec, s2 := y.spec, s3 := y.immByte, d := d, mod := m }).setGuard g

/-- The fields of ISUB_32 (R264-R269). -/
def encIsub32 (b : Bool) (d y : Spec) : Fields :=
  { Fields.zero with op := 0x19, b := b, len := 0, sub := 0, sig := 0, d := d, s1 := y }

/-- The fields of ISUB_64 (R264-R269). -/
def encIsub64 (b : Bool) (g : Guard) (d : Spec) (x y : Opd) (m : BitVec 2) : Fields :=
  ({ Fields.zero with op := 0x19, b := b, len := 1, sub := 0, sig := pairSig x y, s1 := x.spec, s2 := y.spec, s3 := y.immByte, d := d, mod := m }).setGuard g

/-- The fields of IMUL_32 (R264-R269). -/
def encImul32 (b : Bool) (d y : Spec) : Fields :=
  { Fields.zero with op := 0x1A, b := b, len := 0, sub := 0, sig := 0, d := d, s1 := y }

/-- The fields of IMUL_64 (R264-R269). -/
def encImul64 (b : Bool) (g : Guard) (d : Spec) (x y : Opd) (m : BitVec 2) : Fields :=
  ({ Fields.zero with op := 0x1A, b := b, len := 1, sub := 0, sig := pairSig x y, s1 := x.spec, s2 := y.spec, s3 := y.immByte, d := d, mod := m }).setGuard g

/-- The fields of IMULH_32 (R264-R269). -/
def encImulh32 (b : Bool) (d y : Spec) : Fields :=
  { Fields.zero with op := 0x1A, b := b, len := 0, sub := 1, sig := 0, d := d, s1 := y }

/-- The fields of IMULH_64 (R264-R269). -/
def encImulh64 (b : Bool) (g : Guard) (d : Spec) (x y : Opd) : Fields :=
  ({ Fields.zero with op := 0x1A, b := b, len := 1, sub := 1, sig := pairSig x y, s1 := x.spec, s2 := y.spec, s3 := y.immByte, d := d }).setGuard g

/-- The fields of IMULHU_32 (R264-R269). -/
def encImulhu32 (b : Bool) (d y : Spec) : Fields :=
  { Fields.zero with op := 0x1A, b := b, len := 0, sub := 2, sig := 0, d := d, s1 := y }

/-- The fields of IMULHU_64 (R264-R269). -/
def encImulhu64 (b : Bool) (g : Guard) (d : Spec) (x y : Opd) : Fields :=
  ({ Fields.zero with op := 0x1A, b := b, len := 1, sub := 2, sig := pairSig x y, s1 := x.spec, s2 := y.spec, s3 := y.immByte, d := d }).setGuard g

/-- The fields of IMAD (R264-R269). -/
def encImad (b : Bool) (g : Guard) (d : Spec) (x y : Opd) (z : Spec) (m : BitVec 2) : Fields :=
  ({ Fields.zero with op := 0x1B, b := b, len := 1, sub := 0, sig := pairSig x y, s1 := x.spec, s2 := y.spec, d := d, s3 := z, mod := m }).setGuard g

/-- The fields of IMIN_32 (R264-R269). -/
def encImin32 (b : Bool) (d y : Spec) : Fields :=
  { Fields.zero with op := 0x1C, b := b, len := 0, sub := 0, sig := 0, d := d, s1 := y }

/-- The fields of IMIN_64 (R264-R269). -/
def encImin64 (b : Bool) (g : Guard) (d : Spec) (x y : Opd) : Fields :=
  ({ Fields.zero with op := 0x1C, b := b, len := 1, sub := 0, sig := pairSig x y, s1 := x.spec, s2 := y.spec, s3 := y.immByte, d := d }).setGuard g

/-- The fields of IMAX_32 (R264-R269). -/
def encImax32 (b : Bool) (d y : Spec) : Fields :=
  { Fields.zero with op := 0x1C, b := b, len := 0, sub := 1, sig := 0, d := d, s1 := y }

/-- The fields of IMAX_64 (R264-R269). -/
def encImax64 (b : Bool) (g : Guard) (d : Spec) (x y : Opd) : Fields :=
  ({ Fields.zero with op := 0x1C, b := b, len := 1, sub := 1, sig := pairSig x y, s1 := x.spec, s2 := y.spec, s3 := y.immByte, d := d }).setGuard g

/-- The fields of IMINU_32 (R264-R269). -/
def encIminu32 (b : Bool) (d y : Spec) : Fields :=
  { Fields.zero with op := 0x1C, b := b, len := 0, sub := 2, sig := 0, d := d, s1 := y }

/-- The fields of IMINU_64 (R264-R269). -/
def encIminu64 (b : Bool) (g : Guard) (d : Spec) (x y : Opd) : Fields :=
  ({ Fields.zero with op := 0x1C, b := b, len := 1, sub := 2, sig := pairSig x y, s1 := x.spec, s2 := y.spec, s3 := y.immByte, d := d }).setGuard g

/-- The fields of IMAXU_32 (R264-R269). -/
def encImaxu32 (b : Bool) (d y : Spec) : Fields :=
  { Fields.zero with op := 0x1C, b := b, len := 0, sub := 3, sig := 0, d := d, s1 := y }

/-- The fields of IMAXU_64 (R264-R269). -/
def encImaxu64 (b : Bool) (g : Guard) (d : Spec) (x y : Opd) : Fields :=
  ({ Fields.zero with op := 0x1C, b := b, len := 1, sub := 3, sig := pairSig x y, s1 := x.spec, s2 := y.spec, s3 := y.immByte, d := d }).setGuard g

/-- The fields of IAND_32 (R264-R269). -/
def encIand32 (b : Bool) (d y : Spec) : Fields :=
  { Fields.zero with op := 0x1D, b := b, len := 0, sub := 0, sig := 0, d := d, s1 := y }

/-- The fields of IAND_64 (R264-R269). -/
def encIand64 (b : Bool) (g : Guard) (d : Spec) (x y : Opd) : Fields :=
  ({ Fields.zero with op := 0x1D, b := b, len := 1, sub := 0, sig := pairSig x y, s1 := x.spec, s2 := y.spec, s3 := y.immByte, d := d }).setGuard g

/-- The fields of IOR_32 (R264-R269). -/
def encIor32 (b : Bool) (d y : Spec) : Fields :=
  { Fields.zero with op := 0x1D, b := b, len := 0, sub := 1, sig := 0, d := d, s1 := y }

/-- The fields of IOR_64 (R264-R269). -/
def encIor64 (b : Bool) (g : Guard) (d : Spec) (x y : Opd) : Fields :=
  ({ Fields.zero with op := 0x1D, b := b, len := 1, sub := 1, sig := pairSig x y, s1 := x.spec, s2 := y.spec, s3 := y.immByte, d := d }).setGuard g

/-- The fields of IXOR_32 (R264-R269). -/
def encIxor32 (b : Bool) (d y : Spec) : Fields :=
  { Fields.zero with op := 0x1D, b := b, len := 0, sub := 2, sig := 0, d := d, s1 := y }

/-- The fields of IXOR_64 (R264-R269). -/
def encIxor64 (b : Bool) (g : Guard) (d : Spec) (x y : Opd) : Fields :=
  ({ Fields.zero with op := 0x1D, b := b, len := 1, sub := 2, sig := pairSig x y, s1 := x.spec, s2 := y.spec, s3 := y.immByte, d := d }).setGuard g

/-- The fields of IANDN_32 (R264-R269). -/
def encIandn32 (b : Bool) (d y : Spec) : Fields :=
  { Fields.zero with op := 0x1D, b := b, len := 0, sub := 3, sig := 0, d := d, s1 := y }

/-- The fields of IANDN_64 (R264-R269). -/
def encIandn64 (b : Bool) (g : Guard) (d : Spec) (x y : Opd) : Fields :=
  ({ Fields.zero with op := 0x1D, b := b, len := 1, sub := 3, sig := pairSig x y, s1 := x.spec, s2 := y.spec, s3 := y.immByte, d := d }).setGuard g

/-- The fields of INOT_32 (R264-R269). -/
def encInot32 (b : Bool) (d x : Spec) : Fields :=
  { Fields.zero with op := 0x1D, b := b, len := 0, sub := 4, sig := 0, d := d, s1 := x }

/-- The fields of INOT_64 (R264-R269). -/
def encInot64 (b : Bool) (g : Guard) (d : Spec) (x : Opd) : Fields :=
  ({ Fields.zero with op := 0x1D, b := b, len := 1, sub := 4, sig := x.offSig, s1 := x.spec, d := d }).setGuard g

/-- The fields of ISHL_32 (R264-R269). -/
def encIshl32 (b : Bool) (d y : Spec) : Fields :=
  { Fields.zero with op := 0x1E, b := b, len := 0, sub := 0, sig := 0, d := d, s1 := y }

/-- The fields of ISHL_64 (R264-R269). -/
def encIshl64 (b : Bool) (g : Guard) (d : Spec) (x y : Opd) : Fields :=
  ({ Fields.zero with op := 0x1E, b := b, len := 1, sub := 0, sig := pairSig x y, s1 := x.spec, s2 := y.spec, s3 := y.immByte, d := d }).setGuard g

/-- The fields of ISHR_32 (R264-R269). -/
def encIshr32 (b : Bool) (d y : Spec) : Fields :=
  { Fields.zero with op := 0x1E, b := b, len := 0, sub := 1, sig := 0, d := d, s1 := y }

/-- The fields of ISHR_64 (R264-R269). -/
def encIshr64 (b : Bool) (g : Guard) (d : Spec) (x y : Opd) : Fields :=
  ({ Fields.zero with op := 0x1E, b := b, len := 1, sub := 1, sig := pairSig x y, s1 := x.spec, s2 := y.spec, s3 := y.immByte, d := d }).setGuard g

/-- The fields of ISAR_32 (R264-R269). -/
def encIsar32 (b : Bool) (d y : Spec) : Fields :=
  { Fields.zero with op := 0x1E, b := b, len := 0, sub := 2, sig := 0, d := d, s1 := y }

/-- The fields of ISAR_64 (R264-R269). -/
def encIsar64 (b : Bool) (g : Guard) (d : Spec) (x y : Opd) : Fields :=
  ({ Fields.zero with op := 0x1E, b := b, len := 1, sub := 2, sig := pairSig x y, s1 := x.spec, s2 := y.spec, s3 := y.immByte, d := d }).setGuard g

/-- The fields of IROT_32 (R264-R269). -/
def encIrot32 (b : Bool) (d y : Spec) : Fields :=
  { Fields.zero with op := 0x1E, b := b, len := 0, sub := 3, sig := 0, d := d, s1 := y }

/-- The fields of IROT_64 (R264-R269). -/
def encIrot64 (b : Bool) (g : Guard) (d : Spec) (x y : Opd) : Fields :=
  ({ Fields.zero with op := 0x1E, b := b, len := 1, sub := 3, sig := pairSig x y, s1 := x.spec, s2 := y.spec, s3 := y.immByte, d := d }).setGuard g

/-- The fields of IBFX_32 (R264-R269). -/
def encIbfx32 (b : Bool) (d y : Spec) : Fields :=
  { Fields.zero with op := 0x1F, b := b, len := 0, sub := 0, sig := 0, d := d, s1 := y }

/-- The fields of IBFX_64 (R264-R269). -/
def encIbfx64 (b : Bool) (g : Guard) (d : Spec) (x y : Opd) : Fields :=
  ({ Fields.zero with op := 0x1F, b := b, len := 1, sub := 0, sig := pairSig x y, s1 := x.spec, s2 := y.spec, s3 := y.immByte, d := d }).setGuard g

/-- The fields of IBFXU_32 (R264-R269). -/
def encIbfxu32 (b : Bool) (d y : Spec) : Fields :=
  { Fields.zero with op := 0x1F, b := b, len := 0, sub := 1, sig := 0, d := d, s1 := y }

/-- The fields of IBFXU_64 (R264-R269). -/
def encIbfxu64 (b : Bool) (g : Guard) (d : Spec) (x y : Opd) : Fields :=
  ({ Fields.zero with op := 0x1F, b := b, len := 1, sub := 1, sig := pairSig x y, s1 := x.spec, s2 := y.spec, s3 := y.immByte, d := d }).setGuard g

/-- The fields of IBFI (R264-R269). -/
def encIbfi (b : Bool) (g : Guard) (d : Spec) (x y : Opd) (z : Spec) : Fields :=
  ({ Fields.zero with op := 0x1F, b := b, len := 1, sub := 2, sig := pairSig x y, s1 := x.spec, s2 := y.spec, d := d, s3 := z }).setGuard g

/-- The fields of IPOPC_32 (R264-R269). -/
def encIpopc32 (b : Bool) (d x : Spec) : Fields :=
  { Fields.zero with op := 0x1F, b := b, len := 0, sub := 3, sig := 0, d := d, s1 := x }

/-- The fields of IPOPC_64 (R264-R269). -/
def encIpopc64 (b : Bool) (g : Guard) (d : Spec) (x : Opd) : Fields :=
  ({ Fields.zero with op := 0x1F, b := b, len := 1, sub := 3, sig := x.offSig, s1 := x.spec, d := d }).setGuard g

/-- The fields of ICLZ_32 (R264-R269). -/
def encIclz32 (b : Bool) (d x : Spec) : Fields :=
  { Fields.zero with op := 0x1F, b := b, len := 0, sub := 4, sig := 0, d := d, s1 := x }

/-- The fields of ICLZ_64 (R264-R269). -/
def encIclz64 (b : Bool) (g : Guard) (d : Spec) (x : Opd) : Fields :=
  ({ Fields.zero with op := 0x1F, b := b, len := 1, sub := 4, sig := x.offSig, s1 := x.spec, d := d }).setGuard g

/-- The fields of IBREV_32 (R264-R269). -/
def encIbrev32 (b : Bool) (d x : Spec) : Fields :=
  { Fields.zero with op := 0x1F, b := b, len := 0, sub := 5, sig := 0, d := d, s1 := x }

/-- The fields of IBREV_64 (R264-R269). -/
def encIbrev64 (b : Bool) (g : Guard) (d : Spec) (x : Opd) : Fields :=
  ({ Fields.zero with op := 0x1F, b := b, len := 1, sub := 5, sig := x.offSig, s1 := x.spec, d := d }).setGuard g

/-- The fields of IADDC (R264-R269). -/
def encIaddc (b : Bool) (g : Guard) (d : Spec) (x y : Opd) (pi po : BitVec 3) : Fields :=
  ({ Fields.zero with op := 0x20, b := b, len := 2, sub := 0, sig := pairSig x y, s1 := x.spec, s2 := y.spec, d := d, s3 := pi.setWidth 8, x1 := po.setWidth 8 }).setGuard g

/-- The fields of ISUBB (R264-R269). -/
def encIsubb (b : Bool) (g : Guard) (d : Spec) (x y : Opd) (pi po : BitVec 3) : Fields :=
  ({ Fields.zero with op := 0x21, b := b, len := 2, sub := 0, sig := pairSig x y, s1 := x.spec, s2 := y.spec, d := d, s3 := pi.setWidth 8, x1 := po.setWidth 8 }).setGuard g

/-- The fields of ISETP (R264-R269). -/
def encIsetp (b : Bool) (g : Guard) (cc d : BitVec 3) (x y : Opd) : Fields :=
  ({ Fields.zero with op := 0x22, b := b, len := 1, sub := cc, sig := pairSig x y, s1 := x.spec, s2 := y.spec, s3 := y.immByte, d := d.setWidth 8 }).setGuard g

/-- The fields of ISEL (R264-R269). -/
def encIsel (b : Bool) (g : Guard) (d : Spec) (x y : Opd) (c : BitVec 3) : Fields :=
  ({ Fields.zero with op := 0x23, b := b, len := 1, sub := 0, sig := pairSig x y, s1 := x.spec, s2 := y.spec, d := d, s3 := c.setWidth 8 }).setGuard g

/-- The fields of IMOV_32 (R264-R269). -/
def encImov32 (b : Bool) (d x : Spec) : Fields :=
  { Fields.zero with op := 0x24, b := b, len := 0, sub := 0, sig := 0, d := d, s1 := x }

/-- The fields of IMOV_64 (R264-R269). -/
def encImov64 (b : Bool) (g : Guard) (d : Spec) (x : Opd) : Fields :=
  ({ Fields.zero with op := 0x24, b := b, len := 1, sub := 0, sig := unSig 0 x, s1 := x.spec, s3 := x.immByte, d := d }).setGuard g

/-- The fields of IABS_32 (R264-R269). -/
def encIabs32 (b : Bool) (d x : Spec) : Fields :=
  { Fields.zero with op := 0x25, b := b, len := 0, sub := 0, sig := 0, d := d, s1 := x }

/-- The fields of IABS_64 (R264-R269). -/
def encIabs64 (b : Bool) (g : Guard) (d x : Spec) (m : BitVec 2) : Fields :=
  ({ Fields.zero with op := 0x25, b := b, len := 1, sub := 0, sig := 0, d := d, s1 := x, mod := m }).setGuard g

/-- The fields of INEG_32 (R264-R269). -/
def encIneg32 (b : Bool) (d x : Spec) : Fields :=
  { Fields.zero with op := 0x25, b := b, len := 0, sub := 1, sig := 0, d := d, s1 := x }

/-- The fields of INEG_64 (R264-R269). -/
def encIneg64 (b : Bool) (g : Guard) (d x : Spec) (m : BitVec 2) : Fields :=
  ({ Fields.zero with op := 0x25, b := b, len := 1, sub := 1, sig := 0, d := d, s1 := x, mod := m }).setGuard g

/-- The fields of IDP4 (R264-R269). -/
def encIdp4 (b : Bool) (g : Guard) (d : Spec) (x y : Opd) (z : Spec) (m : BitVec 2) : Fields :=
  ({ Fields.zero with op := 0x26, b := b, len := 1, sub := 0, sig := pairSig x y, s1 := x.spec, s2 := y.spec, d := d, s3 := z, mod := m }).setGuard g

/-- The fields of IPRMT (R264-R269). -/
def encIprmt (b : Bool) (g : Guard) (d : Spec) (x y : Opd) (z : Spec) : Fields :=
  ({ Fields.zero with op := 0x27, b := b, len := 1, sub := 0, sig := pairSig x y, s1 := x.spec, s2 := y.spec, d := d, s3 := z }).setGuard g

/-- The fields of ISAD (R264-R269). -/
def encIsad (b : Bool) (g : Guard) (d : Spec) (x y : Opd) (z : Spec) (u : Bool) : Fields :=
  ({ Fields.zero with op := 0x28, b := b, len := 1, sub := 0, sig := pairSig x y, s1 := x.spec, s2 := y.spec, d := d, s3 := z, mod := (if u then 1 else 0) }).setGuard g

/-- The fields of NOP_32 (R264-R269). -/
def encNop32 (b : Bool) : Fields :=
  { Fields.zero with op := 0x01, b := b, len := 0, sub := 0, sig := 0 }

/-- The fields of NOP_64 (R264-R269). -/
def encNop64 (b : Bool) (g : Guard) : Fields :=
  ({ Fields.zero with op := 0x01, b := b, len := 1, sub := 0, sig := 0 }).setGuard g

/-- The fields of NOP_96 (R264-R269). -/
def encNop96 (b : Bool) (g : Guard) : Fields :=
  ({ Fields.zero with op := 0x01, b := b, len := 2, sub := 0, sig := 0 }).setGuard g

/-- The fields of PAND_32 (R264-R269). -/
def encPand32 (b : Bool) (d y : BitVec 3) : Fields :=
  { Fields.zero with op := 0x30, b := b, len := 0, sub := 0, sig := 0, d := d.setWidth 8, s1 := y.setWidth 8 }

/-- The fields of PAND_64 (R264-R269). -/
def encPand64 (b : Bool) (g : Guard) (d x y : BitVec 3) : Fields :=
  ({ Fields.zero with op := 0x30, b := b, len := 1, sub := 0, sig := 0, d := d.setWidth 8, s1 := x.setWidth 8, s2 := y.setWidth 8 }).setGuard g

/-- The fields of POR_32 (R264-R269). -/
def encPor32 (b : Bool) (d y : BitVec 3) : Fields :=
  { Fields.zero with op := 0x30, b := b, len := 0, sub := 1, sig := 0, d := d.setWidth 8, s1 := y.setWidth 8 }

/-- The fields of POR_64 (R264-R269). -/
def encPor64 (b : Bool) (g : Guard) (d x y : BitVec 3) : Fields :=
  ({ Fields.zero with op := 0x30, b := b, len := 1, sub := 1, sig := 0, d := d.setWidth 8, s1 := x.setWidth 8, s2 := y.setWidth 8 }).setGuard g

/-- The fields of PXOR_32 (R264-R269). -/
def encPxor32 (b : Bool) (d y : BitVec 3) : Fields :=
  { Fields.zero with op := 0x30, b := b, len := 0, sub := 2, sig := 0, d := d.setWidth 8, s1 := y.setWidth 8 }

/-- The fields of PXOR_64 (R264-R269). -/
def encPxor64 (b : Bool) (g : Guard) (d x y : BitVec 3) : Fields :=
  ({ Fields.zero with op := 0x30, b := b, len := 1, sub := 2, sig := 0, d := d.setWidth 8, s1 := x.setWidth 8, s2 := y.setWidth 8 }).setGuard g

/-- The fields of PANDN_32 (R264-R269). -/
def encPandn32 (b : Bool) (d y : BitVec 3) : Fields :=
  { Fields.zero with op := 0x30, b := b, len := 0, sub := 3, sig := 0, d := d.setWidth 8, s1 := y.setWidth 8 }

/-- The fields of PANDN_64 (R264-R269). -/
def encPandn64 (b : Bool) (g : Guard) (d x y : BitVec 3) : Fields :=
  ({ Fields.zero with op := 0x30, b := b, len := 1, sub := 3, sig := 0, d := d.setWidth 8, s1 := x.setWidth 8, s2 := y.setWidth 8 }).setGuard g

/-- The fields of PNOT_32 (R264-R269). -/
def encPnot32 (b : Bool) (d x : BitVec 3) : Fields :=
  { Fields.zero with op := 0x30, b := b, len := 0, sub := 4, sig := 0, d := d.setWidth 8, s1 := x.setWidth 8 }

/-- The fields of PNOT_64 (R264-R269). -/
def encPnot64 (b : Bool) (g : Guard) (d x : BitVec 3) : Fields :=
  ({ Fields.zero with op := 0x30, b := b, len := 1, sub := 4, sig := 0, d := d.setWidth 8, s1 := x.setWidth 8 }).setGuard g

/-- The fields of PMOV_32 (R264-R269). -/
def encPmov32 (b : Bool) (d x : BitVec 3) : Fields :=
  { Fields.zero with op := 0x31, b := b, len := 0, sub := 0, sig := 0, d := d.setWidth 8, s1 := x.setWidth 8 }

/-- The fields of PMOV_64 (R264-R269). -/
def encPmov64 (b : Bool) (g : Guard) (d x : BitVec 3) : Fields :=
  ({ Fields.zero with op := 0x31, b := b, len := 1, sub := 0, sig := 0, d := d.setWidth 8, s1 := x.setWidth 8 }).setGuard g

/-- The fields of PMOV_BIT (R264-R269). -/
def encPmovBit (b : Bool) (g : Guard) (d : BitVec 3) (x y : Opd) : Fields :=
  ({ Fields.zero with op := 0x31, b := b, len := 1, sub := 1, sig := pairSig x y, s1 := x.spec, s2 := y.spec, s3 := y.immByte, d := d.setWidth 8 }).setGuard g

/-- The fields of PMOV_Q (R264-R269). -/
def encPmovQ (b : Bool) (g : Guard) (d x : BitVec 3) : Fields :=
  ({ Fields.zero with op := 0x31, b := b, len := 1, sub := 2, sig := 0, d := d.setWidth 8, s1 := x.setWidth 8 }).setGuard g

/-- The fields of PMOV_HELP_32 (R264-R269). -/
def encPmovHelp32 (b : Bool) (d : BitVec 3) : Fields :=
  { Fields.zero with op := 0x31, b := b, len := 0, sub := 3, sig := 0, d := d.setWidth 8 }

/-- The fields of PMOV_HELP_64 (R264-R269). -/
def encPmovHelp64 (b : Bool) (g : Guard) (d : BitVec 3) : Fields :=
  ({ Fields.zero with op := 0x31, b := b, len := 1, sub := 3, sig := 0, d := d.setWidth 8 }).setGuard g

/-- The fields of VOTE_ALL (R264-R269). -/
def encVoteAll (b : Bool) (g : Guard) (d x : BitVec 3) : Fields :=
  ({ Fields.zero with op := 0x32, b := b, len := 1, sub := 0, sig := 0, d := d.setWidth 8, s1 := x.setWidth 8 }).setGuard g

/-- The fields of VOTE_ANY (R264-R269). -/
def encVoteAny (b : Bool) (g : Guard) (d x : BitVec 3) : Fields :=
  ({ Fields.zero with op := 0x32, b := b, len := 1, sub := 1, sig := 0, d := d.setWidth 8, s1 := x.setWidth 8 }).setGuard g

/-- The fields of VOTE_BAL (R264-R269). -/
def encVoteBal (b : Bool) (g : Guard) (d : Spec) (x : BitVec 3) (y : Spec) : Fields :=
  ({ Fields.zero with op := 0x32, b := b, len := 1, sub := 2, sig := 6, d := d, s1 := x.setWidth 8, s2 := y }).setGuard g

/-- The fields of VOTE_CNT (R264-R269). -/
def encVoteCnt (b : Bool) (g : Guard) (d : Spec) (x : BitVec 3) : Fields :=
  ({ Fields.zero with op := 0x32, b := b, len := 1, sub := 3, sig := 0, d := d, s1 := x.setWidth 8 }).setGuard g

/-- The fields of SHFL_IDX (R264-R269). -/
def encShflIdx (b : Bool) (g : Guard) (d : Spec) (x y : Opd) : Fields :=
  ({ Fields.zero with op := 0x33, b := b, len := 1, sub := 0, sig := pairSig x y, s1 := x.spec, s2 := y.spec, s3 := y.immByte, d := d }).setGuard g

/-- The fields of SHFL_UP (R264-R269). -/
def encShflUp (b : Bool) (g : Guard) (d : Spec) (x y : Opd) : Fields :=
  ({ Fields.zero with op := 0x33, b := b, len := 1, sub := 1, sig := pairSig x y, s1 := x.spec, s2 := y.spec, s3 := y.immByte, d := d }).setGuard g

/-- The fields of SHFL_DN (R264-R269). -/
def encShflDn (b : Bool) (g : Guard) (d : Spec) (x y : Opd) : Fields :=
  ({ Fields.zero with op := 0x33, b := b, len := 1, sub := 2, sig := pairSig x y, s1 := x.spec, s2 := y.spec, s3 := y.immByte, d := d }).setGuard g

/-- The fields of SHFL_XOR (R264-R269). -/
def encShflXor (b : Bool) (g : Guard) (d : Spec) (x y : Opd) : Fields :=
  ({ Fields.zero with op := 0x33, b := b, len := 1, sub := 3, sig := pairSig x y, s1 := x.spec, s2 := y.spec, s3 := y.immByte, d := d }).setGuard g

/-- The fields of SHFL_QX (R264-R269). -/
def encShflQx (b : Bool) (g : Guard) (d x : Spec) : Fields :=
  ({ Fields.zero with op := 0x33, b := b, len := 1, sub := 4, sig := 0, d := d, s1 := x }).setGuard g

/-- The fields of SHFL_QY (R264-R269). -/
def encShflQy (b : Bool) (g : Guard) (d x : Spec) : Fields :=
  ({ Fields.zero with op := 0x33, b := b, len := 1, sub := 5, sig := 0, d := d, s1 := x }).setGuard g

/-- The fields of REDX (R264-R269). -/
def encRedx (b : Bool) (g : Guard) (o : BitVec 3) (d x : Spec) : Fields :=
  ({ Fields.zero with op := 0x34, b := b, len := 1, sub := o, sig := 0, d := d, s1 := x }).setGuard g

/-- The fields of SCAN (R264-R269). -/
def encScan (b : Bool) (g : Guard) (o : BitVec 3) (d x : Spec) (excl : Bool) : Fields :=
  ({ Fields.zero with op := 0x35, b := b, len := 1, sub := o, sig := 0, d := d, s1 := x, mod := (if excl then 1 else 0) }).setGuard g

/-- The fields of BARR (R264-R269). -/
def encBarr (b : Bool) (o : BitVec 3) (d : Spec) (x : Opd) (span : Spec) : Fields :=
  { Fields.zero with op := 0x36, b := b, len := 2, sub := o, sig := x.offSig, s1 := x.spec, d := d, x1 := span }

/-- The fields of BRA (R264-R269). -/
def encBra (b : Bool) (disp : BitVec 22) : Fields :=
  Fields.ofDisp 0x50 b disp

/-- The fields of BRX (R264-R269). -/
def encBrx (b : Bool) (pd : PTerm) (taken join : BitVec 22) : Fields :=
  Fields.ofBrx b pd taken join

/-- The fields of JOIN (R264-R269). -/
def encJoin (b : Bool) : Fields :=
  { Fields.zero with op := 0x52, b := b, len := 0, sub := 0, sig := 0 }

/-- The fields of LOOP (R264-R269). -/
def encLoop (b : Bool) (disp : BitVec 22) : Fields :=
  Fields.ofDisp 0x53 b disp

/-- The fields of BRK_32 (R264-R269). -/
def encBrk32 (b : Bool) : Fields :=
  { Fields.zero with op := 0x54, b := b, len := 0, sub := 0, sig := 0 }

/-- The fields of BRK_64 (R264-R269). -/
def encBrk64 (b : Bool) (g : Guard) : Fields :=
  ({ Fields.zero with op := 0x54, b := b, len := 1, sub := 0, sig := 0 }).setGuard g

/-- The fields of CONT_32 (R264-R269). -/
def encCont32 (b : Bool) : Fields :=
  { Fields.zero with op := 0x54, b := b, len := 0, sub := 1, sig := 0 }

/-- The fields of CONT_64 (R264-R269). -/
def encCont64 (b : Bool) (g : Guard) : Fields :=
  ({ Fields.zero with op := 0x54, b := b, len := 1, sub := 1, sig := 0 }).setGuard g

/-- The fields of CALL_DISP (R264-R269). -/
def encCallDisp (b : Bool) (disp : BitVec 22) : Fields :=
  Fields.ofDisp 0x55 b disp

/-- The fields of CALL_REG (R264-R269). -/
def encCallReg (b : Bool) (x : Spec) : Fields :=
  { Fields.zero with op := 0x55, b := b, len := 1, sub := 1, sig := 6, s1 := x }

/-- The fields of RET (R264-R269). -/
def encRet (b : Bool) : Fields :=
  { Fields.zero with op := 0x56, b := b, len := 0, sub := 0, sig := 0 }

/-- The fields of EXIT_32 (R264-R269). -/
def encExit32 (b : Bool) : Fields :=
  { Fields.zero with op := 0x57, b := b, len := 0, sub := 0, sig := 0 }

/-- The fields of EXIT_64 (R264-R269). -/
def encExit64 (b : Bool) (g : Guard) : Fields :=
  ({ Fields.zero with op := 0x57, b := b, len := 1, sub := 0, sig := 0 }).setGuard g

/-- The fields of YIELD (R264-R269). -/
def encYield (b : Bool) : Fields :=
  { Fields.zero with op := 0x58, b := b, len := 0, sub := 0, sig := 0 }

/-- The fields of TRAP_32 (R264-R269). -/
def encTrap32 (b : Bool) : Fields :=
  { Fields.zero with op := 0x59, b := b, len := 0, sub := 0, sig := 0 }

/-- The fields of TRAP_64 (R264-R269). -/
def encTrap64 (b : Bool) (g : Guard) (n : Spec) : Fields :=
  ({ Fields.zero with op := 0x59, b := b, len := 1, sub := 0, sig := 3, s3 := n }).setGuard g

/-- The fields of BKPT_32 (R264-R269). -/
def encBkpt32 (b : Bool) : Fields :=
  { Fields.zero with op := 0x59, b := b, len := 0, sub := 1, sig := 0 }

/-- The fields of BKPT_64 (R264-R269). -/
def encBkpt64 (b : Bool) (g : Guard) (n : Spec) : Fields :=
  ({ Fields.zero with op := 0x59, b := b, len := 1, sub := 1, sig := 3, s3 := n }).setGuard g

/-- The fields of SREAD_32 (R264-R269). -/
def encSread32 (b : Bool) (d n : Spec) : Fields :=
  { Fields.zero with op := 0x5A, b := b, len := 0, sub := 0, sig := 0, d := d, s1 := n }

/-- The fields of SREAD_64 (R264-R269). -/
def encSread64 (b : Bool) (g : Guard) (d n : Spec) : Fields :=
  ({ Fields.zero with op := 0x5A, b := b, len := 1, sub := 0, sig := 0, d := d, s1 := n }).setGuard g

/-- The fields of SWRITE_32 (R264-R269). -/
def encSwrite32 (b : Bool) (n x : Spec) : Fields :=
  { Fields.zero with op := 0x5A, b := b, len := 0, sub := 1, sig := 6, d := n, s1 := x }

/-- The fields of SWRITE_64 (R264-R269). -/
def encSwrite64 (b : Bool) (g : Guard) (n x : Spec) : Fields :=
  ({ Fields.zero with op := 0x5A, b := b, len := 1, sub := 1, sig := 6, d := n, s1 := x }).setGuard g

/-- The fields of FADD_32 (R264-R269). -/
def encFadd32 (b : Bool) (d y : Spec) : Fields :=
  { Fields.zero with op := 0x38, b := b, len := 0, sub := 0, sig := 0, d := d, s1 := y }

/-- The fields of FADD_64 (R264-R269). -/
def encFadd64 (b : Bool) (g : Guard) (d : Spec) (x y : Opd) (m : BitVec 2) : Fields :=
  ({ Fields.zero with op := 0x38, b := b, len := 1, sub := 0, sig := pairSig x y, s1 := x.spec, s2 := y.spec, s3 := y.immByte, d := d, mod := m }).setGuard g

/-- The fields of FSUB_32 (R264-R269). -/
def encFsub32 (b : Bool) (d y : Spec) : Fields :=
  { Fields.zero with op := 0x39, b := b, len := 0, sub := 0, sig := 0, d := d, s1 := y }

/-- The fields of FSUB_64 (R264-R269). -/
def encFsub64 (b : Bool) (g : Guard) (d : Spec) (x y : Opd) (m : BitVec 2) : Fields :=
  ({ Fields.zero with op := 0x39, b := b, len := 1, sub := 0, sig := pairSig x y, s1 := x.spec, s2 := y.spec, s3 := y.immByte, d := d, mod := m }).setGuard g

/-- The fields of FMUL_32 (R264-R269). -/
def encFmul32 (b : Bool) (d y : Spec) : Fields :=
  { Fields.zero with op := 0x3A, b := b, len := 0, sub := 0, sig := 0, d := d, s1 := y }

/-- The fields of FMUL_64 (R264-R269). -/
def encFmul64 (b : Bool) (g : Guard) (d : Spec) (x y : Opd) (m : BitVec 2) : Fields :=
  ({ Fields.zero with op := 0x3A, b := b, len := 1, sub := 0, sig := pairSig x y, s1 := x.spec, s2 := y.spec, s3 := y.immByte, d := d, mod := m }).setGuard g

/-- The fields of FFMA (R264-R269). -/
def encFfma (b : Bool) (g : Guard) (d : Spec) (x y : Opd) (z : Spec) (m : BitVec 2) : Fields :=
  ({ Fields.zero with op := 0x3B, b := b, len := 1, sub := 0, sig := pairSig x y, s1 := x.spec, s2 := y.spec, d := d, s3 := z, mod := m }).setGuard g

/-- The fields of FMIN_32 (R264-R269). -/
def encFmin32 (b : Bool) (d y : Spec) : Fields :=
  { Fields.zero with op := 0x3C, b := b, len := 0, sub := 0, sig := 0, d := d, s1 := y }

/-- The fields of FMIN_64 (R264-R269). -/
def encFmin64 (b : Bool) (g : Guard) (d : Spec) (x y : Opd) : Fields :=
  ({ Fields.zero with op := 0x3C, b := b, len := 1, sub := 0, sig := pairSig x y, s1 := x.spec, s2 := y.spec, s3 := y.immByte, d := d }).setGuard g

/-- The fields of FMAX_32 (R264-R269). -/
def encFmax32 (b : Bool) (d y : Spec) : Fields :=
  { Fields.zero with op := 0x3C, b := b, len := 0, sub := 1, sig := 0, d := d, s1 := y }

/-- The fields of FMAX_64 (R264-R269). -/
def encFmax64 (b : Bool) (g : Guard) (d : Spec) (x y : Opd) : Fields :=
  ({ Fields.zero with op := 0x3C, b := b, len := 1, sub := 1, sig := pairSig x y, s1 := x.spec, s2 := y.spec, s3 := y.immByte, d := d }).setGuard g

/-- The fields of FABS_32 (R264-R269). -/
def encFabs32 (b : Bool) (d x : Spec) : Fields :=
  { Fields.zero with op := 0x3D, b := b, len := 0, sub := 0, sig := 0, d := d, s1 := x }

/-- The fields of FABS_64 (R264-R269). -/
def encFabs64 (b : Bool) (g : Guard) (d x : Spec) : Fields :=
  ({ Fields.zero with op := 0x3D, b := b, len := 1, sub := 0, sig := 0, d := d, s1 := x }).setGuard g

/-- The fields of FNEG_32 (R264-R269). -/
def encFneg32 (b : Bool) (d x : Spec) : Fields :=
  { Fields.zero with op := 0x3D, b := b, len := 0, sub := 1, sig := 0, d := d, s1 := x }

/-- The fields of FNEG_64 (R264-R269). -/
def encFneg64 (b : Bool) (g : Guard) (d x : Spec) : Fields :=
  ({ Fields.zero with op := 0x3D, b := b, len := 1, sub := 1, sig := 0, d := d, s1 := x }).setGuard g

/-- The fields of FCPSGN_32 (R264-R269). -/
def encFcpsgn32 (b : Bool) (d y : Spec) : Fields :=
  { Fields.zero with op := 0x3D, b := b, len := 0, sub := 2, sig := 0, d := d, s1 := y }

/-- The fields of FCPSGN_64 (R264-R269). -/
def encFcpsgn64 (b : Bool) (g : Guard) (d : Spec) (x y : Opd) : Fields :=
  ({ Fields.zero with op := 0x3D, b := b, len := 1, sub := 2, sig := pairSig x y, s1 := x.spec, s2 := y.spec, s3 := y.immByte, d := d }).setGuard g

/-- The fields of FSETP (R264-R269). -/
def encFsetp (b : Bool) (g : Guard) (cc d : BitVec 3) (x y : Opd) : Fields :=
  ({ Fields.zero with op := 0x3E, b := b, len := 1, sub := cc, sig := pairSig x y, s1 := x.spec, s2 := y.spec, s3 := y.immByte, d := d.setWidth 8 }).setGuard g

/-- The fields of FRND_32 (R264-R269). -/
def encFrnd32 (b : Bool) (d x : Spec) : Fields :=
  { Fields.zero with op := 0x3F, b := b, len := 0, sub := 0, sig := 0, d := d, s1 := x }

/-- The fields of FRND_64 (R264-R269). -/
def encFrnd64 (b : Bool) (g : Guard) (d x : Spec) (m : BitVec 2) : Fields :=
  ({ Fields.zero with op := 0x3F, b := b, len := 1, sub := 0, sig := 0, d := d, s1 := x, mod := m }).setGuard g

/-- The fields of FCLASS_32 (R264-R269). -/
def encFclass32 (b : Bool) (d x : Spec) : Fields :=
  { Fields.zero with op := 0x40, b := b, len := 0, sub := 0, sig := 0, d := d, s1 := x }

/-- The fields of FCLASS_64 (R264-R269). -/
def encFclass64 (b : Bool) (g : Guard) (d x : Spec) : Fields :=
  ({ Fields.zero with op := 0x40, b := b, len := 1, sub := 0, sig := 0, d := d, s1 := x }).setGuard g

/-- The fields of FSCL_32 (R264-R269). -/
def encFscl32 (b : Bool) (d y : Spec) : Fields :=
  { Fields.zero with op := 0x41, b := b, len := 0, sub := 0, sig := 0, d := d, s1 := y }

/-- The fields of FSCL_64 (R264-R269). -/
def encFscl64 (b : Bool) (g : Guard) (d : Spec) (x y : Opd) (m : BitVec 2) : Fields :=
  ({ Fields.zero with op := 0x41, b := b, len := 1, sub := 0, sig := pairSig x y, s1 := x.spec, s2 := y.spec, s3 := y.immByte, d := d, mod := m }).setGuard g

/-- The fields of HADD2_32 (R264-R269). -/
def encHadd232 (b : Bool) (d y : Spec) : Fields :=
  { Fields.zero with op := 0x42, b := b, len := 0, sub := 0, sig := 0, d := d, s1 := y }

/-- The fields of HADD2_64 (R264-R269). -/
def encHadd264 (b : Bool) (g : Guard) (d : Spec) (x y : Opd) (m : BitVec 2) : Fields :=
  ({ Fields.zero with op := 0x42, b := b, len := 1, sub := 0, sig := pairSig x y, s1 := x.spec, s2 := y.spec, s3 := y.immByte, d := d, mod := m }).setGuard g

/-- The fields of HMUL2_32 (R264-R269). -/
def encHmul232 (b : Bool) (d y : Spec) : Fields :=
  { Fields.zero with op := 0x43, b := b, len := 0, sub := 0, sig := 0, d := d, s1 := y }

/-- The fields of HMUL2_64 (R264-R269). -/
def encHmul264 (b : Bool) (g : Guard) (d : Spec) (x y : Opd) (m : BitVec 2) : Fields :=
  ({ Fields.zero with op := 0x43, b := b, len := 1, sub := 0, sig := pairSig x y, s1 := x.spec, s2 := y.spec, s3 := y.immByte, d := d, mod := m }).setGuard g

/-- The fields of HFMA2 (R264-R269). -/
def encHfma2 (b : Bool) (g : Guard) (d : Spec) (x y : Opd) (z : Spec) (m : BitVec 2) : Fields :=
  ({ Fields.zero with op := 0x44, b := b, len := 1, sub := 0, sig := pairSig x y, s1 := x.spec, s2 := y.spec, d := d, s3 := z, mod := m }).setGuard g

/-- The fields of FRCP_32 (R264-R269). -/
def encFrcp32 (b : Bool) (d x : Spec) : Fields :=
  { Fields.zero with op := 0x46, b := b, len := 0, sub := 0, sig := 0, d := d, s1 := x }

/-- The fields of FRCP_64 (R264-R269). -/
def encFrcp64 (b : Bool) (g : Guard) (d x : Spec) (m : BitVec 2) : Fields :=
  ({ Fields.zero with op := 0x46, b := b, len := 1, sub := 0, sig := 0, d := d, s1 := x, mod := m }).setGuard g

/-- The fields of FRSQ_32 (R264-R269). -/
def encFrsq32 (b : Bool) (d x : Spec) : Fields :=
  { Fields.zero with op := 0x47, b := b, len := 0, sub := 0, sig := 0, d := d, s1 := x }

/-- The fields of FRSQ_64 (R264-R269). -/
def encFrsq64 (b : Bool) (g : Guard) (d x : Spec) (m : BitVec 2) : Fields :=
  ({ Fields.zero with op := 0x47, b := b, len := 1, sub := 0, sig := 0, d := d, s1 := x, mod := m }).setGuard g

/-- The fields of FSQRT_32 (R264-R269). -/
def encFsqrt32 (b : Bool) (d x : Spec) : Fields :=
  { Fields.zero with op := 0x48, b := b, len := 0, sub := 0, sig := 0, d := d, s1 := x }

/-- The fields of FSQRT_64 (R264-R269). -/
def encFsqrt64 (b : Bool) (g : Guard) (d x : Spec) (m : BitVec 2) : Fields :=
  ({ Fields.zero with op := 0x48, b := b, len := 1, sub := 0, sig := 0, d := d, s1 := x, mod := m }).setGuard g

/-- The fields of FEXP2_32 (R264-R269). -/
def encFexp232 (b : Bool) (d x : Spec) : Fields :=
  { Fields.zero with op := 0x49, b := b, len := 0, sub := 0, sig := 0, d := d, s1 := x }

/-- The fields of FEXP2_64 (R264-R269). -/
def encFexp264 (b : Bool) (g : Guard) (d x : Spec) : Fields :=
  ({ Fields.zero with op := 0x49, b := b, len := 1, sub := 0, sig := 0, d := d, s1 := x }).setGuard g

/-- The fields of FLOG2_32 (R264-R269). -/
def encFlog232 (b : Bool) (d x : Spec) : Fields :=
  { Fields.zero with op := 0x4A, b := b, len := 0, sub := 0, sig := 0, d := d, s1 := x }

/-- The fields of FLOG2_64 (R264-R269). -/
def encFlog264 (b : Bool) (g : Guard) (d x : Spec) : Fields :=
  ({ Fields.zero with op := 0x4A, b := b, len := 1, sub := 0, sig := 0, d := d, s1 := x }).setGuard g

/-- The fields of FSIN_32 (R264-R269). -/
def encFsin32 (b : Bool) (d x : Spec) : Fields :=
  { Fields.zero with op := 0x4B, b := b, len := 0, sub := 0, sig := 0, d := d, s1 := x }

/-- The fields of FSIN_64 (R264-R269). -/
def encFsin64 (b : Bool) (g : Guard) (d x : Spec) : Fields :=
  ({ Fields.zero with op := 0x4B, b := b, len := 1, sub := 0, sig := 0, d := d, s1 := x }).setGuard g

/-- The fields of FCOS_32 (R264-R269). -/
def encFcos32 (b : Bool) (d x : Spec) : Fields :=
  { Fields.zero with op := 0x4B, b := b, len := 0, sub := 1, sig := 0, d := d, s1 := x }

/-- The fields of FCOS_64 (R264-R269). -/
def encFcos64 (b : Bool) (g : Guard) (d x : Spec) : Fields :=
  ({ Fields.zero with op := 0x4B, b := b, len := 1, sub := 1, sig := 0, d := d, s1 := x }).setGuard g

/-- The fields of FRAND_U32_32 (R264-R269). -/
def encFrandU3232 (b : Bool) (d : Spec) : Fields :=
  { Fields.zero with op := 0x4C, b := b, len := 0, sub := 0, sig := 0, d := d }

/-- The fields of FRAND_U32_64 (R264-R269). -/
def encFrandU3264 (b : Bool) (g : Guard) (d : Spec) : Fields :=
  ({ Fields.zero with op := 0x4C, b := b, len := 1, sub := 0, sig := 0, d := d }).setGuard g

/-- The fields of FRAND_F32_32 (R264-R269). -/
def encFrandF3232 (b : Bool) (d : Spec) : Fields :=
  { Fields.zero with op := 0x4C, b := b, len := 0, sub := 1, sig := 0, d := d }

/-- The fields of FRAND_F32_64 (R264-R269). -/
def encFrandF3264 (b : Bool) (g : Guard) (d : Spec) : Fields :=
  ({ Fields.zero with op := 0x4C, b := b, len := 1, sub := 1, sig := 0, d := d }).setGuard g

/-- The fields of CVT (R264-R269). -/
def encCvt (b : Bool) (g : Guard) (d x pair : Spec) (m : BitVec 2) : Fields :=
  ({ Fields.zero with op := 0x4D, b := b, len := 1, sub := 0, sig := 0, d := d, s1 := x, s3 := pair, mod := m }).setGuard g

/-- The fields of CVTP_PACK (R264-R269). -/
def encCvtpPack (b : Bool) (g : Guard) (d x y : Spec) (el : BitVec 4) (m : BitVec 2) : Fields :=
  ({ Fields.zero with op := 0x4E, b := b, len := 1, sub := 0, sig := 0, d := d, s1 := x, s2 := y, s3 := ((0 : BitVec 4) ++ el), mod := m }).setGuard g

/-- The fields of CVTP_PACKSR (R264-R269). -/
def encCvtpPacksr (b : Bool) (g : Guard) (d x y : Spec) (el : BitVec 4) : Fields :=
  ({ Fields.zero with op := 0x4E, b := b, len := 1, sub := 0, sig := 0, d := d, s1 := x, s2 := y, s3 := ((1 : BitVec 4) ++ el) }).setGuard g

/-- The fields of CVTP_UNPACK (R264-R269). -/
def encCvtpUnpack (b : Bool) (g : Guard) (d x : Spec) (j : BitVec 2) (el : BitVec 4) : Fields :=
  ({ Fields.zero with op := 0x4E, b := b, len := 1, sub := 0, sig := 0, d := d, s1 := x, s3 := (j ++ (2 : BitVec 2) ++ el) }).setGuard g

/-- The fields of LD (R264-R269). -/
def encLd (b : Bool) (g : Guard) (wd : BitVec 3) (d : Spec) (off : Opd) (c : Spec) (n : Byte) (rq h : BitVec 2) : Fields :=
  ({ Fields.zero with op := 0x5C, b := b, len := 1, sub := wd, sig := off.offSig, s1 := off.spec, d := d, s2 := c, s3 := n, rq := rq, hint := h }).setGuard g

/-- The fields of ST (R264-R269). -/
def encSt (b : Bool) (g : Guard) (wd : BitVec 3) (d : Spec) (off : Opd) (c : Spec) (n : Byte) (rq h : BitVec 2) : Fields :=
  ({ Fields.zero with op := 0x5D, b := b, len := 1, sub := wd, sig := off.offSig, s1 := off.spec, d := d, s2 := c, s3 := n, rq := rq, hint := h }).setGuard g

/-- The fields of LDB (R264-R269). -/
def encLdb (b : Bool) (g : Guard) (wd : BitVec 3) (d : Spec) (off : Opd) (c n : Spec) (h m : BitVec 2) : Fields :=
  ({ Fields.zero with op := 0x5E, b := b, len := 1, sub := wd, sig := off.offSig, s1 := off.spec, d := d, s2 := c, s3 := n, hint := h, mod := m }).setGuard g

/-- The fields of LDS (R264-R269). -/
def encLds (b : Bool) (g : Guard) (wd : BitVec 3) (d : Spec) (off : Opd) (n : Byte) (win : Bool) : Fields :=
  ({ Fields.zero with op := 0x5F, b := b, len := 1, sub := wd, sig := off.offSig, s1 := off.spec, d := d, s3 := n, rq := (if win then 1 else 0) }).setGuard g

/-- The fields of STS (R264-R269). -/
def encSts (b : Bool) (g : Guard) (wd : BitVec 3) (d : Spec) (off : Opd) (n : Byte) (win : Bool) : Fields :=
  ({ Fields.zero with op := 0x60, b := b, len := 1, sub := wd, sig := off.offSig, s1 := off.spec, d := d, s3 := n, rq := (if win then 1 else 0) }).setGuard g

/-- The fields of ATOM (R264-R269). -/
def encAtom (b : Bool) (g : Guard) (wd : BitVec 3) (d : Spec) (off : Opd) (c : Spec) (n : Byte) (loc : Bool) (h m : BitVec 2) (y z o : Spec) : Fields :=
  ({ Fields.zero with op := 0x61, b := b, len := 2, sub := wd, sig := off.offSig, s1 := off.spec, d := d, s2 := c, s3 := n, rq := (if loc then 1 else 0), hint := h, mod := m, s4 := y, s5 := z, x1 := o }).setGuard g

/-- The fields of RED (R264-R269). -/
def encRed (b : Bool) (g : Guard) (wd : BitVec 3) (off : Opd) (c : Spec) (n : Byte) (loc : Bool) (h : BitVec 2) (rel : Bool) (y o : Spec) : Fields :=
  ({ Fields.zero with op := 0x62, b := b, len := 2, sub := wd, sig := off.offSig, s1 := off.spec, s2 := c, s3 := n, rq := (if loc then 1 else 0), hint := h, mod := (if rel then 2 else 0), s4 := y, x1 := o }).setGuard g

/-- The fields of ATOMS (R264-R269). -/
def encAtoms (b : Bool) (g : Guard) (wd : BitVec 3) (d : Spec) (off : Opd) (n : Byte) (win : Bool) (m : BitVec 2) (y z o : Spec) : Fields :=
  ({ Fields.zero with op := 0x66, b := b, len := 2, sub := wd, sig := off.offSig, s1 := off.spec, d := d, s3 := n, rq := (if win then 1 else 0), mod := m, s4 := y, s5 := z, x1 := o }).setGuard g

/-- The fields of FENCE_ACQ (R264-R269). -/
def encFenceAcq (b : Bool) : Fields :=
  { Fields.zero with op := 0x63, b := b, len := 0, sub := 0, sig := 0 }

/-- The fields of FENCE_REL (R264-R269). -/
def encFenceRel (b : Bool) : Fields :=
  { Fields.zero with op := 0x63, b := b, len := 0, sub := 1, sig := 0 }

/-- The fields of FENCE_AR (R264-R269). -/
def encFenceAr (b : Bool) : Fields :=
  { Fields.zero with op := 0x63, b := b, len := 0, sub := 2, sig := 0 }

/-- The fields of RREL_32 (R264-R269). -/
def encRrel32 (b : Bool) (c : Spec) : Fields :=
  { Fields.zero with op := 0x64, b := b, len := 0, sub := 0, sig := 0, s1 := c }

/-- The fields of RREL_64 (R264-R269). -/
def encRrel64 (b : Bool) (g : Guard) (c : Spec) : Fields :=
  ({ Fields.zero with op := 0x64, b := b, len := 1, sub := 0, sig := 0, s1 := c }).setGuard g

/-- The fields of INVR (R264-R269). -/
def encInvr (b : Bool) (g : Guard) (x c y : Spec) : Fields :=
  ({ Fields.zero with op := 0x65, b := b, len := 1, sub := 0, sig := 6, s1 := x, s2 := c, s3 := y }).setGuard g

/-- The fields of WBR (R264-R269). -/
def encWbr (b : Bool) (g : Guard) (x c y : Spec) : Fields :=
  ({ Fields.zero with op := 0x65, b := b, len := 1, sub := 1, sig := 6, s1 := x, s2 := c, s3 := y }).setGuard g

/-- The fields of FLR (R264-R269). -/
def encFlr (b : Bool) (g : Guard) (x c y : Spec) : Fields :=
  ({ Fields.zero with op := 0x65, b := b, len := 1, sub := 2, sig := 6, s1 := x, s2 := c, s3 := y }).setGuard g

/-- The fields of PREF (R264-R269). -/
def encPref (b : Bool) (g : Guard) (x c y : Spec) (h : BitVec 2) : Fields :=
  ({ Fields.zero with op := 0x65, b := b, len := 1, sub := 3, sig := 6, s1 := x, s2 := c, s3 := y, hint := h }).setGuard g

/-- The fields of CPY (R264-R269). -/
def encCpy (b : Bool) (g : Guard) (off : Opd) (sc cnt : Spec) (h z : BitVec 2) (dof dc : Spec) (cwc : BitVec 4) (cw : Bool) (tag : BitVec 3) (dcls : BitVec 2) (ssp dsp win : Bool) : Fields :=
  ({ Fields.zero with op := 0x68, b := b, len := 2, sub := 0, sig := off.offSig, s1 := off.spec, s2 := sc, s3 := cnt, hint := h, mod := z, s4 := dof, s5 := dc, x1 := (cwc ++ BitVec.ofBool cw ++ tag), x2 := (dcls ++ BitVec.ofBool ssp ++ BitVec.ofBool dsp ++ BitVec.ofBool win ++ (0 : BitVec 3)) }).setGuard g

/-- The fields of CPYT (R264-R269). -/
def encCpyt (b : Bool) (g : Guard) (sd sp sc : Spec) (h : BitVec 2) (dc cwc : Spec) (ssp dsp cw : Bool) (tag : BitVec 3) : Fields :=
  ({ Fields.zero with op := 0x69, b := b, len := 2, sub := 0, sig := 6, s1 := sd, s2 := sp, s3 := sc, hint := h, s4 := dc, s5 := cwc, x1 := ((0 : BitVec 2) ++ BitVec.ofBool ssp ++ BitVec.ofBool dsp ++ BitVec.ofBool cw ++ tag) }).setGuard g

/-- The fields of CPYM_MC (R264-R269). -/
def encCpymMc (b : Bool) (g : Guard) (off dat : Opd) (k : Spec) (h : BitVec 2) (cw : Bool) (cwc : Spec) (tag : BitVec 3) (dsp : Bool) (span : Spec) : Fields :=
  ({ Fields.zero with op := 0x6A, b := b, len := 2, sub := 0, sig := off.offSig, s1 := off.spec, s2 := dat.spec, s3 := k, hint := h, s4 := cwc, mod := (if cw then 1 else 0), x1 := (tag ++ BitVec.ofBool dsp ++ (0 : BitVec 4)), x2 := span }).setGuard g

/-- The fields of CPYM_RD (R264-R269). -/
def encCpymRd (b : Bool) (g : Guard) (off dat : Opd) (k : Spec) (h : BitVec 2) (cw : Bool) (cwc : Spec) (tag : BitVec 3) (dsp : Bool) (o : BitVec 4) (span : Spec) : Fields :=
  ({ Fields.zero with op := 0x6A, b := b, len := 2, sub := 1, sig := off.offSig, s1 := off.spec, s2 := dat.spec, s3 := k, hint := h, s4 := cwc, mod := (if cw then 1 else 0), x1 := (tag ++ BitVec.ofBool dsp ++ o), x2 := span }).setGuard g

/-- The fields of WAITT_32 (R264-R269). -/
def encWaitt32 (b : Bool) (mask : Spec) : Fields :=
  { Fields.zero with op := 0x6B, b := b, len := 0, sub := 0, sig := 0, s1 := mask }

/-- The fields of WAITT_64 (R264-R269). -/
def encWaitt64 (b : Bool) (g : Guard) (mask : Spec) : Fields :=
  ({ Fields.zero with op := 0x6B, b := b, len := 1, sub := 0, sig := 0, s1 := mask }).setGuard g

/-- The fields of WAITW (R264-R269). -/
def encWaitw (b : Bool) (g : Guard) (x y c : Spec) (m : BitVec 2) : Fields :=
  ({ Fields.zero with op := 0x6C, b := b, len := 1, sub := 0, sig := 6, s1 := x, s2 := y, s3 := c, mod := m }).setGuard g

/-- The fields of NOTIFY (R264-R269). -/
def encNotify (b : Bool) (g : Guard) (x y c : Spec) : Fields :=
  ({ Fields.zero with op := 0x6D, b := b, len := 1, sub := 0, sig := 6, s1 := x, s2 := y, s3 := c }).setGuard g

/-- The fields of NOTIFY_ST (R264-R269). -/
def encNotifySt (b : Bool) (g : Guard) (x y c : Spec) : Fields :=
  ({ Fields.zero with op := 0x6D, b := b, len := 1, sub := 0, sig := 6, s1 := x, s2 := y, s3 := c, mod := 1 }).setGuard g

/-- The fields of QFENCE (R264-R269). -/
def encQfence (b : Bool) (set : BitVec 4) : Fields :=
  { Fields.zero with op := 0x6E, b := b, len := 0, sub := 0, sig := 0, s1 := ((0 : BitVec 4) ++ set) }

/-- The fields of ISEND (R264-R269). -/
def encIsend (b : Bool) (g : Guard) (w0 w1 w2 : Spec) (h : BitVec 2) (w3 w4 : Spec) (ks : BitVec 2) (ld cls : BitVec 3) (slot : Bool) (tag : BitVec 3) (cn : BitVec 4) : Fields :=
  ({ Fields.zero with op := 0x6F, b := b, len := 2, sub := 0, sig := 0, s1 := w0, s2 := w1, s3 := w2, hint := h, s4 := w3, s5 := w4, x1 := (ks ++ ld ++ cls), x2 := (BitVec.ofBool slot ++ tag ++ cn) }).setGuard g

/-- The fields of ISEND_SYNC (R264-R269). -/
def encIsendSync (b : Bool) (g : Guard) (w0 w1 w2 : Spec) (h : BitVec 2) (w3 w4 : Spec) (ks : BitVec 2) (ld cls : BitVec 3) (slot : Bool) (tag : BitVec 3) (cn : BitVec 4) : Fields :=
  ({ Fields.zero with op := 0x6F, b := b, len := 2, sub := 1, sig := 0, s1 := w0, s2 := w1, s3 := w2, hint := h, s4 := w3, s5 := w4, x1 := (ks ++ ld ++ cls), x2 := (BitVec.ofBool slot ++ tag ++ cn) }).setGuard g

/-- The fields of LSTAT_32 (R264-R269). -/
def encLstat32 (b : Bool) (d x : Spec) : Fields :=
  { Fields.zero with op := 0x70, b := b, len := 0, sub := 0, sig := 0, d := d, s1 := x }

/-- The fields of LSTAT_64 (R264-R269). -/
def encLstat64 (b : Bool) (g : Guard) (d x : Spec) : Fields :=
  ({ Fields.zero with op := 0x70, b := b, len := 1, sub := 0, sig := 0, d := d, s1 := x }).setGuard g

/-- The fields of TRICLS (R264-R269). -/
def encTricls (b : Bool) (g : Guard) (d : BitVec 3) (x : Spec) (cull : BitVec 2) (pe : BitVec 3) (lim : Byte) : Fields :=
  ({ Fields.zero with op := 0x71, b := b, len := 2, sub := 0, sig := 0, d := d.setWidth 8, s1 := x, x1 := ((0 : BitVec 3) ++ cull ++ pe), x2 := lim }).setGuard g

/-- The fields of WBLD (R264-R269). -/
def encWbld (b : Bool) (g : Guard) (x y c : Spec) (h : BitVec 2) : Fields :=
  ({ Fields.zero with op := 0x72, b := b, len := 2, sub := 0, sig := 6, s1 := x, s2 := y, s3 := c, hint := h }).setGuard g

/-- The fields of WBGTH (R264-R269). -/
def encWbgth (b : Bool) (g : Guard) (x y c : Spec) (h : BitVec 2) (z : Spec) : Fields :=
  ({ Fields.zero with op := 0x73, b := b, len := 2, sub := 0, sig := 6, s1 := x, s2 := y, s3 := c, hint := h, s4 := z }).setGuard g

/-- The fields of MMA (R264-R269). -/
def encMma (b : Bool) (g : Guard) (a vc : Spec) (h : BitVec 2) (z amax : Bool) (su cn : Spec) (ln : Bool) (fa : BitVec 5) (km1 : BitVec 7) : Fields :=
  ({ Fields.zero with op := 0x74, b := b, len := 2, sub := 0, sig := 0, s1 := a, s2 := vc, s4 := su, s5 := cn, hint := h, mod := (BitVec.ofBool z ++ BitVec.ofBool amax), x1 := ((0 : BitVec 2) ++ BitVec.ofBool ln ++ fa), x2 := ((0 : BitVec 1) ++ km1) }).setGuard g

/-- The fields of MMAS (R264-R269). -/
def encMmas (b : Bool) (g : Guard) (d a vs su : Spec) (ln : Bool) (fa : BitVec 5) (km1 : BitVec 7) : Fields :=
  ({ Fields.zero with op := 0x75, b := b, len := 2, sub := 0, sig := 0, d := d, s1 := a, s3 := vs, s4 := su, x1 := ((0 : BitVec 2) ++ BitVec.ofBool ln ++ fa), x2 := ((0 : BitVec 1) ++ km1) }).setGuard g

/-- The fields of SCACC (R264-R269). -/
def encScacc (b : Bool) (g : Guard) (d vp vs : Spec) (z : Bool) (su : Spec) (fa : BitVec 5) (km1 : BitVec 7) : Fields :=
  ({ Fields.zero with op := 0x76, b := b, len := 2, sub := 0, sig := 0, d := d, s1 := vp, s3 := vs, s4 := su, mod := (if z then 1 else 0), x1 := ((0 : BitVec 3) ++ fa), x2 := ((0 : BitVec 1) ++ km1) }).setGuard g

/-- The fields of LBIND (R264-R269). -/
def encLbind (b : Bool) (lg : BitVec 3) : Fields :=
  { Fields.zero with op := 0x78, b := b, len := 0, sub := 0, sig := 0, s1 := (lg.setWidth 8) }

/-- The fields of LUNBIND (R264-R269). -/
def encLunbind (b : Bool) : Fields :=
  { Fields.zero with op := 0x78, b := b, len := 0, sub := 1, sig := 0 }

/-- The fields of LADD (R264-R269). -/
def encLadd (b : Bool) (g : Guard) (d x y : Spec) (po : BitVec 3) (tc ci : Bool) : Fields :=
  ({ Fields.zero with op := 0x79, b := b, len := 1, sub := 0, sig := 0, d := d, s1 := x, s2 := y, s3 := po.setWidth 8, mod := (BitVec.ofBool tc ++ BitVec.ofBool ci) }).setGuard g

/-- The fields of LSUB (R264-R269). -/
def encLsub (b : Bool) (g : Guard) (d x y : Spec) (po : BitVec 3) (tc ci : Bool) : Fields :=
  ({ Fields.zero with op := 0x7A, b := b, len := 1, sub := 0, sig := 0, d := d, s1 := x, s2 := y, s3 := po.setWidth 8, mod := (BitVec.ofBool tc ++ BitVec.ofBool ci) }).setGuard g

/-- The fields of LSHL (R264-R269). -/
def encLshl (b : Bool) (g : Guard) (d : Spec) (x y : Opd) : Fields :=
  ({ Fields.zero with op := 0x7B, b := b, len := 1, sub := 0, sig := pairSig x y, s1 := x.spec, s2 := y.spec, s3 := y.immByte, d := d }).setGuard g

/-- The fields of LSHR (R264-R269). -/
def encLshr (b : Bool) (g : Guard) (d : Spec) (x y : Opd) : Fields :=
  ({ Fields.zero with op := 0x7B, b := b, len := 1, sub := 1, sig := pairSig x y, s1 := x.spec, s2 := y.spec, s3 := y.immByte, d := d }).setGuard g

/-- The fields of LMACS (R264-R269). -/
def encLmacs (b : Bool) (g : Guard) (d x y dhi : Spec) (tc : Bool) (j : BitVec 5) : Fields :=
  ({ Fields.zero with op := 0x7C, b := b, len := 2, sub := 0, sig := 0, d := d, s1 := x, s2 := y, s3 := dhi, mod := (if tc then 2 else 0), x1 := ((0 : BitVec 3) ++ j) }).setGuard g

/-- The fields of LCMP (R264-R269). -/
def encLcmp (b : Bool) (g : Guard) (cc d : BitVec 3) (x y : Spec) : Fields :=
  ({ Fields.zero with op := 0x7D, b := b, len := 1, sub := cc, sig := 0, d := d.setWidth 8, s1 := x, s2 := y }).setGuard g

/-- The fields of a team instruction (R233-R243); none for a step that has no team word. -/
def encodeFields : Instr → Option Fields
  | .smov32 b d x => some (encSmov32 b d x)
  | .smov64 b g d x => some (encSmov64 b g d x)
  | .sadd32 b d y => some (encSadd32 b d y)
  | .sadd64 b g d x y => some (encSadd64 b g d x y)
  | .ssub32 b d y => some (encSsub32 b d y)
  | .ssub64 b g d x y => some (encSsub64 b g d x y)
  | .smul32 b d y => some (encSmul32 b d y)
  | .smul64 b g d x y => some (encSmul64 b g d x y)
  | .smulh32 b d y => some (encSmulh32 b d y)
  | .smulh64 b g d x y => some (encSmulh64 b g d x y)
  | .smulhu32 b d y => some (encSmulhu32 b d y)
  | .smulhu64 b g d x y => some (encSmulhu64 b g d x y)
  | .sand32 b d y => some (encSand32 b d y)
  | .sand64 b g d x y => some (encSand64 b g d x y)
  | .sor32 b d y => some (encSor32 b d y)
  | .sor64 b g d x y => some (encSor64 b g d x y)
  | .sxor32 b d y => some (encSxor32 b d y)
  | .sxor64 b g d x y => some (encSxor64 b g d x y)
  | .sandn32 b d y => some (encSandn32 b d y)
  | .sandn64 b g d x y => some (encSandn64 b g d x y)
  | .snot32 b d x => some (encSnot32 b d x)
  | .snot64 b g d x => some (encSnot64 b g d x)
  | .sshl32 b d y => some (encSshl32 b d y)
  | .sshl64 b g d x y => some (encSshl64 b g d x y)
  | .sshr32 b d y => some (encSshr32 b d y)
  | .sshr64 b g d x y => some (encSshr64 b g d x y)
  | .ssar32 b d y => some (encSsar32 b d y)
  | .ssar64 b g d x y => some (encSsar64 b g d x y)
  | .smin32 b d y => some (encSmin32 b d y)
  | .smin64 b g d x y => some (encSmin64 b g d x y)
  | .smax32 b d y => some (encSmax32 b d y)
  | .smax64 b g d x y => some (encSmax64 b g d x y)
  | .sminu32 b d y => some (encSminu32 b d y)
  | .sminu64 b g d x y => some (encSminu64 b g d x y)
  | .smaxu32 b d y => some (encSmaxu32 b d y)
  | .smaxu64 b g d x y => some (encSmaxu64 b g d x y)
  | .scmp b g cc d x y => some (encScmp b g cc d x y)
  | .ssel b g d x y c => some (encSsel b g d x y c)
  | .sldcW32 b g d x y => some (encSldcW32 b g d x y)
  | .sldcW64 b g d x y => some (encSldcW64 b g d x y)
  | .sbfx32 b d y => some (encSbfx32 b d y)
  | .sbfx64 b g d x y => some (encSbfx64 b g d x y)
  | .sbfi b g d x y z => some (encSbfi b g d x y z)
  | .spopc32 b d x => some (encSpopc32 b d x)
  | .spopc64 b g d x => some (encSpopc64 b g d x)
  | .sclz32 b d x => some (encSclz32 b d x)
  | .sclz64 b g d x => some (encSclz64 b g d x)
  | .qand32 b d y => some (encQand32 b d y)
  | .qand64 b g d x y => some (encQand64 b g d x y)
  | .qor32 b d y => some (encQor32 b d y)
  | .qor64 b g d x y => some (encQor64 b g d x y)
  | .qxor32 b d y => some (encQxor32 b d y)
  | .qxor64 b g d x y => some (encQxor64 b g d x y)
  | .qnot32 b d x => some (encQnot32 b d x)
  | .qnot64 b g d x => some (encQnot64 b g d x)
  | .amovS b g d x => some (encAmovS b g d x)
  | .amovImm b g d n => some (encAmovImm b g d n)
  | .amovLane b d => some (encAmovLane b d)
  | .amov32 b d x => some (encAmov32 b d x)
  | .amov64 b g d x => some (encAmov64 b g d x)
  | .aadd32 b d y => some (encAadd32 b d y)
  | .aadd64 b g d x y => some (encAadd64 b g d x y)
  | .asub32 b d y => some (encAsub32 b d y)
  | .asub64 b g d x y => some (encAsub64 b g d x y)
  | .amul b g d x y => some (encAmul b g d x y)
  | .ashl b g d x y => some (encAshl b g d x y)
  | .proma b g d x y => some (encProma b g d x y)
  | .promv b g d y => some (encPromv b g d y)
  | .promb b g d y => some (encPromb b g d y)
  | .promp b g d x => some (encPromp b g d x)
  | .rdfirst b g d x => some (encRdfirst b g d x)
  | .rdlast b g d x => some (encRdlast b g d x)
  | .rdlane b g d x y => some (encRdlane b g d x y)
  | .capnar b g d x y z => some (encCapnar b g d x y z)
  | .caprst b g d x y => some (encCaprst b g d x y)
  | .capqryBase b g d x => some (encCapqryBase b g d x)
  | .capqryLen b g d x => some (encCapqryLen b g d x)
  | .capqryRights b g d x => some (encCapqryRights b g d x)
  | .iadd32 b d y => some (encIadd32 b d y)
  | .iadd64 b g d x y m => some (encIadd64 b g d x y m)
  | .isub32 b d y => some (encIsub32 b d y)
  | .isub64 b g d x y m => some (encIsub64 b g d x y m)
  | .imul32 b d y => some (encImul32 b d y)
  | .imul64 b g d x y m => some (encImul64 b g d x y m)
  | .imulh32 b d y => some (encImulh32 b d y)
  | .imulh64 b g d x y => some (encImulh64 b g d x y)
  | .imulhu32 b d y => some (encImulhu32 b d y)
  | .imulhu64 b g d x y => some (encImulhu64 b g d x y)
  | .imad b g d x y z m => some (encImad b g d x y z m)
  | .imin32 b d y => some (encImin32 b d y)
  | .imin64 b g d x y => some (encImin64 b g d x y)
  | .imax32 b d y => some (encImax32 b d y)
  | .imax64 b g d x y => some (encImax64 b g d x y)
  | .iminu32 b d y => some (encIminu32 b d y)
  | .iminu64 b g d x y => some (encIminu64 b g d x y)
  | .imaxu32 b d y => some (encImaxu32 b d y)
  | .imaxu64 b g d x y => some (encImaxu64 b g d x y)
  | .iand32 b d y => some (encIand32 b d y)
  | .iand64 b g d x y => some (encIand64 b g d x y)
  | .ior32 b d y => some (encIor32 b d y)
  | .ior64 b g d x y => some (encIor64 b g d x y)
  | .ixor32 b d y => some (encIxor32 b d y)
  | .ixor64 b g d x y => some (encIxor64 b g d x y)
  | .iandn32 b d y => some (encIandn32 b d y)
  | .iandn64 b g d x y => some (encIandn64 b g d x y)
  | .inot32 b d x => some (encInot32 b d x)
  | .inot64 b g d x => some (encInot64 b g d x)
  | .ishl32 b d y => some (encIshl32 b d y)
  | .ishl64 b g d x y => some (encIshl64 b g d x y)
  | .ishr32 b d y => some (encIshr32 b d y)
  | .ishr64 b g d x y => some (encIshr64 b g d x y)
  | .isar32 b d y => some (encIsar32 b d y)
  | .isar64 b g d x y => some (encIsar64 b g d x y)
  | .irot32 b d y => some (encIrot32 b d y)
  | .irot64 b g d x y => some (encIrot64 b g d x y)
  | .ibfx32 b d y => some (encIbfx32 b d y)
  | .ibfx64 b g d x y => some (encIbfx64 b g d x y)
  | .ibfxu32 b d y => some (encIbfxu32 b d y)
  | .ibfxu64 b g d x y => some (encIbfxu64 b g d x y)
  | .ibfi b g d x y z => some (encIbfi b g d x y z)
  | .ipopc32 b d x => some (encIpopc32 b d x)
  | .ipopc64 b g d x => some (encIpopc64 b g d x)
  | .iclz32 b d x => some (encIclz32 b d x)
  | .iclz64 b g d x => some (encIclz64 b g d x)
  | .ibrev32 b d x => some (encIbrev32 b d x)
  | .ibrev64 b g d x => some (encIbrev64 b g d x)
  | .iaddc b g d x y pi po => some (encIaddc b g d x y pi po)
  | .isubb b g d x y pi po => some (encIsubb b g d x y pi po)
  | .isetp b g cc d x y => some (encIsetp b g cc d x y)
  | .isel b g d x y c => some (encIsel b g d x y c)
  | .imov32 b d x => some (encImov32 b d x)
  | .imov64 b g d x => some (encImov64 b g d x)
  | .iabs32 b d x => some (encIabs32 b d x)
  | .iabs64 b g d x m => some (encIabs64 b g d x m)
  | .ineg32 b d x => some (encIneg32 b d x)
  | .ineg64 b g d x m => some (encIneg64 b g d x m)
  | .idp4 b g d x y z m => some (encIdp4 b g d x y z m)
  | .iprmt b g d x y z => some (encIprmt b g d x y z)
  | .isad b g d x y z u => some (encIsad b g d x y z u)
  | .nop32 b => some (encNop32 b)
  | .nop64 b g => some (encNop64 b g)
  | .nop96 b g => some (encNop96 b g)
  | .pand32 b d y => some (encPand32 b d y)
  | .pand64 b g d x y => some (encPand64 b g d x y)
  | .por32 b d y => some (encPor32 b d y)
  | .por64 b g d x y => some (encPor64 b g d x y)
  | .pxor32 b d y => some (encPxor32 b d y)
  | .pxor64 b g d x y => some (encPxor64 b g d x y)
  | .pandn32 b d y => some (encPandn32 b d y)
  | .pandn64 b g d x y => some (encPandn64 b g d x y)
  | .pnot32 b d x => some (encPnot32 b d x)
  | .pnot64 b g d x => some (encPnot64 b g d x)
  | .pmov32 b d x => some (encPmov32 b d x)
  | .pmov64 b g d x => some (encPmov64 b g d x)
  | .pmovBit b g d x y => some (encPmovBit b g d x y)
  | .pmovQ b g d x => some (encPmovQ b g d x)
  | .pmovHelp32 b d => some (encPmovHelp32 b d)
  | .pmovHelp64 b g d => some (encPmovHelp64 b g d)
  | .voteAll b g d x => some (encVoteAll b g d x)
  | .voteAny b g d x => some (encVoteAny b g d x)
  | .voteBal b g d x y => some (encVoteBal b g d x y)
  | .voteCnt b g d x => some (encVoteCnt b g d x)
  | .shflIdx b g d x y => some (encShflIdx b g d x y)
  | .shflUp b g d x y => some (encShflUp b g d x y)
  | .shflDn b g d x y => some (encShflDn b g d x y)
  | .shflXor b g d x y => some (encShflXor b g d x y)
  | .shflQx b g d x => some (encShflQx b g d x)
  | .shflQy b g d x => some (encShflQy b g d x)
  | .redx b g o d x => some (encRedx b g o d x)
  | .scan b g o d x excl => some (encScan b g o d x excl)
  | .barr b o d x span => some (encBarr b o d x span)
  | .bra b disp => some (encBra b disp)
  | .brx b pd taken join => some (encBrx b pd taken join)
  | .join b => some (encJoin b)
  | .loop b disp => some (encLoop b disp)
  | .brk32 b => some (encBrk32 b)
  | .brk64 b g => some (encBrk64 b g)
  | .cont32 b => some (encCont32 b)
  | .cont64 b g => some (encCont64 b g)
  | .callDisp b disp => some (encCallDisp b disp)
  | .callReg b x => some (encCallReg b x)
  | .ret b => some (encRet b)
  | .exit32 b => some (encExit32 b)
  | .exit64 b g => some (encExit64 b g)
  | .yield b => some (encYield b)
  | .trap32 b => some (encTrap32 b)
  | .trap64 b g n => some (encTrap64 b g n)
  | .bkpt32 b => some (encBkpt32 b)
  | .bkpt64 b g n => some (encBkpt64 b g n)
  | .sread32 b d n => some (encSread32 b d n)
  | .sread64 b g d n => some (encSread64 b g d n)
  | .swrite32 b n x => some (encSwrite32 b n x)
  | .swrite64 b g n x => some (encSwrite64 b g n x)
  | .fadd32 b d y => some (encFadd32 b d y)
  | .fadd64 b g d x y m => some (encFadd64 b g d x y m)
  | .fsub32 b d y => some (encFsub32 b d y)
  | .fsub64 b g d x y m => some (encFsub64 b g d x y m)
  | .fmul32 b d y => some (encFmul32 b d y)
  | .fmul64 b g d x y m => some (encFmul64 b g d x y m)
  | .ffma b g d x y z m => some (encFfma b g d x y z m)
  | .fmin32 b d y => some (encFmin32 b d y)
  | .fmin64 b g d x y => some (encFmin64 b g d x y)
  | .fmax32 b d y => some (encFmax32 b d y)
  | .fmax64 b g d x y => some (encFmax64 b g d x y)
  | .fabs32 b d x => some (encFabs32 b d x)
  | .fabs64 b g d x => some (encFabs64 b g d x)
  | .fneg32 b d x => some (encFneg32 b d x)
  | .fneg64 b g d x => some (encFneg64 b g d x)
  | .fcpsgn32 b d y => some (encFcpsgn32 b d y)
  | .fcpsgn64 b g d x y => some (encFcpsgn64 b g d x y)
  | .fsetp b g cc d x y => some (encFsetp b g cc d x y)
  | .frnd32 b d x => some (encFrnd32 b d x)
  | .frnd64 b g d x m => some (encFrnd64 b g d x m)
  | .fclass32 b d x => some (encFclass32 b d x)
  | .fclass64 b g d x => some (encFclass64 b g d x)
  | .fscl32 b d y => some (encFscl32 b d y)
  | .fscl64 b g d x y m => some (encFscl64 b g d x y m)
  | .hadd232 b d y => some (encHadd232 b d y)
  | .hadd264 b g d x y m => some (encHadd264 b g d x y m)
  | .hmul232 b d y => some (encHmul232 b d y)
  | .hmul264 b g d x y m => some (encHmul264 b g d x y m)
  | .hfma2 b g d x y z m => some (encHfma2 b g d x y z m)
  | .frcp32 b d x => some (encFrcp32 b d x)
  | .frcp64 b g d x m => some (encFrcp64 b g d x m)
  | .frsq32 b d x => some (encFrsq32 b d x)
  | .frsq64 b g d x m => some (encFrsq64 b g d x m)
  | .fsqrt32 b d x => some (encFsqrt32 b d x)
  | .fsqrt64 b g d x m => some (encFsqrt64 b g d x m)
  | .fexp232 b d x => some (encFexp232 b d x)
  | .fexp264 b g d x => some (encFexp264 b g d x)
  | .flog232 b d x => some (encFlog232 b d x)
  | .flog264 b g d x => some (encFlog264 b g d x)
  | .fsin32 b d x => some (encFsin32 b d x)
  | .fsin64 b g d x => some (encFsin64 b g d x)
  | .fcos32 b d x => some (encFcos32 b d x)
  | .fcos64 b g d x => some (encFcos64 b g d x)
  | .frandU3232 b d => some (encFrandU3232 b d)
  | .frandU3264 b g d => some (encFrandU3264 b g d)
  | .frandF3232 b d => some (encFrandF3232 b d)
  | .frandF3264 b g d => some (encFrandF3264 b g d)
  | .cvt b g d x pair m => some (encCvt b g d x pair m)
  | .cvtpPack b g d x y el m => some (encCvtpPack b g d x y el m)
  | .cvtpPacksr b g d x y el => some (encCvtpPacksr b g d x y el)
  | .cvtpUnpack b g d x j el => some (encCvtpUnpack b g d x j el)
  | .ld b g wd d off c n rq h => some (encLd b g wd d off c n rq h)
  | .st b g wd d off c n rq h => some (encSt b g wd d off c n rq h)
  | .ldb b g wd d off c n h m => some (encLdb b g wd d off c n h m)
  | .lds b g wd d off n win => some (encLds b g wd d off n win)
  | .sts b g wd d off n win => some (encSts b g wd d off n win)
  | .atom b g wd d off c n loc h m y z o => some (encAtom b g wd d off c n loc h m y z o)
  | .red b g wd off c n loc h rel y o => some (encRed b g wd off c n loc h rel y o)
  | .atoms b g wd d off n win m y z o => some (encAtoms b g wd d off n win m y z o)
  | .fenceAcq b => some (encFenceAcq b)
  | .fenceRel b => some (encFenceRel b)
  | .fenceAr b => some (encFenceAr b)
  | .rrel32 b c => some (encRrel32 b c)
  | .rrel64 b g c => some (encRrel64 b g c)
  | .invr b g x c y => some (encInvr b g x c y)
  | .wbr b g x c y => some (encWbr b g x c y)
  | .flr b g x c y => some (encFlr b g x c y)
  | .pref b g x c y h => some (encPref b g x c y h)
  | .cpy b g off sc cnt h z dof dc cwc cw tag dcls ssp dsp win => some (encCpy b g off sc cnt h z dof dc cwc cw tag dcls ssp dsp win)
  | .cpyt b g sd sp sc h dc cwc ssp dsp cw tag => some (encCpyt b g sd sp sc h dc cwc ssp dsp cw tag)
  | .cpymMc b g off dat k h cw cwc tag dsp span => some (encCpymMc b g off dat k h cw cwc tag dsp span)
  | .cpymRd b g off dat k h cw cwc tag dsp o span => some (encCpymRd b g off dat k h cw cwc tag dsp o span)
  | .waitt32 b mask => some (encWaitt32 b mask)
  | .waitt64 b g mask => some (encWaitt64 b g mask)
  | .waitw b g x y c m => some (encWaitw b g x y c m)
  | .notify b g x y c => some (encNotify b g x y c)
  | .notifySt b g x y c => some (encNotifySt b g x y c)
  | .qfence b set => some (encQfence b set)
  | .isend b g w0 w1 w2 h w3 w4 ks ld cls slot tag cn => some (encIsend b g w0 w1 w2 h w3 w4 ks ld cls slot tag cn)
  | .isendSync b g w0 w1 w2 h w3 w4 ks ld cls slot tag cn => some (encIsendSync b g w0 w1 w2 h w3 w4 ks ld cls slot tag cn)
  | .lstat32 b d x => some (encLstat32 b d x)
  | .lstat64 b g d x => some (encLstat64 b g d x)
  | .tricls b g d x cull pe lim => some (encTricls b g d x cull pe lim)
  | .wbld b g x y c h => some (encWbld b g x y c h)
  | .wbgth b g x y c h z => some (encWbgth b g x y c h z)
  | .mma b g a vc h z amax su cn ln fa km1 => some (encMma b g a vc h z amax su cn ln fa km1)
  | .mmas b g d a vs su ln fa km1 => some (encMmas b g d a vs su ln fa km1)
  | .scacc b g d vp vs z su fa km1 => some (encScacc b g d vp vs z su fa km1)
  | .lbind b lg => some (encLbind b lg)
  | .lunbind b => some (encLunbind b)
  | .ladd b g d x y po tc ci => some (encLadd b g d x y po tc ci)
  | .lsub b g d x y po tc ci => some (encLsub b g d x y po tc ci)
  | .lshl b g d x y => some (encLshl b g d x y)
  | .lshr b g d x y => some (encLshr b g d x y)
  | .lmacs b g d x y dhi tc j => some (encLmacs b g d x y dhi tc j)
  | .lcmp b g cc d x y => some (encLcmp b g cc d x y)
  | .coldReset | .warmReset .. | .freeze .. | .bootRecover .. | .bootSvcset .. | .eccRegfile .. | .patrolScrub ..
  | .mcCecntClear .. | .mcUecntClear .. | .hostAccess .. | .hostCoherenceTimeout .. | .linkUp .. | .linkDown ..
  | .ethFrameReceive .. | .txRingPoll .. | .txFrameStart .. | .txFrameSent .. | .gateEntryChange .. | .gctlSwap ..
  | .gateListSwap .. | .streamFilterClear .. | .streamEntryWrite .. | .ethTimeWrite .. | .deviceTimeSync ..
  | .flipHndWrite .. | .flipOffWrite .. | .displayVblank .. | .scanoutRefresh .. | .dstatRead ..
  | .registerWrite .. | .claim | .activate | .retire | .reset | .release | .setHandle | .revoke | .setDesc
  | .setFrame | .attest | .tblStatRead | .qwrWrite .. | .qretryWrite .. | .qctlWrite .. | .mboxWrite ..
  | .apertureWake | .gondolaTimer .. | .nopPacket .. | .launch .. | .launchComplete .. | .signalStore ..
  | .signalAdd .. | .wait .. | .waitReread .. | .copyPacket .. | .copyPacketComplete .. | .replayByPage ..
  | .replayByToken .. | .envelopeLoad .. | .envelopeDrop .. | .envelopeDropComplete .. | .pin .. | .unpin ..
  | .fencePacket .. | .timestamp .. | .tetherBind .. | .tetherUnbind .. | .mailboxHandlerLaunch .. | .rfetch ..
  | .bfx .. | .sigw .. | .dspt .. | .qpark .. | .qwake .. | .placeNeighbourhood | .starvationPromote ..
  | .winchWindow .. | .winchWrite .. | .neighbourhoodStart .. | .envelopeReload .. | .sliceOut ..
  | .partitionSwitch .. | .runStart .. | .forcedBoundary .. | .teamRetire .. | .teamWatchdog .. | .l1WayAdjust ..
  | .storeDrain .. | .loadPerform .. | .atomicPerform .. | .l1Drop .. | .registryRecall .. | .rrelPerform ..
  | .staleTimeout .. | .faultBatchClose .. | .faultRecordPost .. | .parkLimitEvict .. | .evictedTeamReturn ..
  | .engineParkEntryGrant .. | .enginePerform .. | .copyCompletion .. | .wbldPerform .. | .wbgthPerform ..
  | .bind .. | .regw .. | .texfBilinear .. | .texfTrilinear .. | .texfAnisotropic .. | .rastTriangle ..
  | .rastPixelTeamOffer .. | .travClosestHit .. | .travAnyHit .. | .travKeyLookup .. | .splatComposite ..
  | .blndBlend .. | .blndResolve .. | .titleRequest .. | .islandEntryWrite .. | .islHang .. | .waitwReread ..
  | .waitTimeout .. | .ill .. | .synchronisationLost | .preemptionVerification .. | .domainVoltageChange ..
  | .apertureGating | .singleBitErrorCorrected .. => none

/-- The Xgnd word of an instruction (R54). -/
def encodeXgnd : Instr → Option Word
  | .rfetch rd rs => some ((0 : BitVec 12) ++ rs ++ (0 : BitVec 3) ++ rd ++ (0x0B : BitVec 7))
  | .bfx rd rs pos len => some (len ++ (0 : BitVec 2) ++ pos ++ rs ++ (1 : BitVec 3) ++ rd ++ (0x0B : BitVec 7))
  | .sigw rd rs => some ((0 : BitVec 12) ++ rs ++ (2 : BitVec 3) ++ rd ++ (0x0B : BitVec 7))
  | .dspt rd rs => some ((0 : BitVec 12) ++ rs ++ (3 : BitVec 3) ++ rd ++ (0x0B : BitVec 7))
  | .qpark rs rt => some ((0 : BitVec 7) ++ rt ++ rs ++ (0 : BitVec 3) ++ (0 : BitVec 5) ++ (0x2B : BitVec 7))
  | .qwake rs => some ((0 : BitVec 12) ++ rs ++ (1 : BitVec 3) ++ (0 : BitVec 5) ++ (0x2B : BitVec 7))
  | _ => none

/-- The words of a well-formed instruction, in the order they are stored; the empty list for a step that no word
encodes. -/
def encode (i : Instr) : List Word :=
  match encodeFields i with
  | some f => [f.word0, f.word1, f.word2].take (wordCount f.word0)
  | none =>
    match encodeXgnd i, i with
    | some w, _ => [w]
    | none, .ill _ w0 _ _ => [w0]
    | none, _ => []

/-- The instruction that a list of stored words holds. -/
noncomputable def decode (ws : List Word) : Option Instr := decodeBytes (ws.flatMap fun w => leBytes 4 w.toNat)

end Sys2Proof
end

