-- ==== Sys2Proof/Config.lean ====
section
/-!
DEFINITION. What an implementation fixes, and the free values: constants without a body, of which no proof can learn the
value.
-/
namespace Sys2Proof.Config

/-- What a byte of GDDR7 that nothing has written reads as. DESIGN CHOICE (log entry 3): R26 leaves the contents after a
reset undefined; unsafe. -/
def memDefault : Byte := 0

/-- FLOG2, FSIN and FCOS may return any value within the bounds of R316: which one, by function number (0 FLOG2, 1 FSIN,
2 FCOS) and operand, as a displacement in units in the last place (log entry 5). -/
opaque approx : Nat → Word → Int

/-- A displacement in units of 2^-23 for the absolute part of the bounds of R316 (log entry 5). -/
opaque approxAbs : Nat → Word → Int

/-- The words that a title envelope's request returns (R212), whose KINDs are the title's own: by a fresh number, the
envelope's digest, the request words, what the request read, and the word number (log entry 14). -/
opaque titleWord : Nat → BitVec 512 → List Word → List Nat → Nat → Word

/-- What a title envelope's request writes through its bindings (R212): binding, offset and bytes (log entry 14). -/
opaque titleStores : Nat → BitVec 512 → List Word → List Nat → List (Nat × Nat × List Byte)

/-- Whether a KIND of a title envelope writes memory through its bindings (R153), by the envelope's digest (log entry 14). -/
opaque titleKindWrites : BitVec 512 → Nat → Bool

/-- Which of the values that a racy read of an island may return is taken (R156), by a fresh number (log entry 15). -/
opaque freeNat : Nat → Nat

/-- A result that the spec does not state for some operands (log entry 23): by the operation's number and its operands. -/
opaque openWord : Nat → List Nat → Word

/-- The public key of the boot ROM that signs standard envelopes (R49); the spec does not give it (log entry 28). -/
opaque envelopeKey : BitVec 256

/-- Which of the twelve channels holds a block (R6): the spec gives no address interleaving (log entry 20). -/
opaque channel : Nat → Fin 12

/-- The rate that an adjustment of the device time takes, in parts per 10^9 (R23): by a fresh number (log entry 76). -/
opaque freeRate : Nat → Int

/-- Which set of the stacked cache a line falls in, and the logarithm of how many lines of a set one shelf holds: the spec gives
neither (log entry 72). -/
opaque stackIndex : Nat → Nat

opaque stackWaysLog : Fin 14

/-- What the Held section of a save frame holds at a word, by a fresh number (log entry 80): the spec gives no layout of a held
request or copy descriptor. -/
opaque heldWord : Nat → Nat → Word

/-- What a title envelope's request reads through its bindings (R212): binding, offset and how many bytes, in order (log
entry 14). -/
opaque titleReads : Nat → BitVec 512 → List Word → List (Nat × Nat × Nat)

/-- How long a partition switch took, in ns, as its flight-log entry names it (R31): by a fresh number (log entry 2). -/
opaque freeSpan : Nat → Nat

end Sys2Proof.Config
end

