-- ==== Sys2Proof/Machine/Types.lean ====
section
/-!
DEFINITION. The pieces of the machine's state as plain data: who moves next, launch records, reconvergence entries, lines,
pending memory operations, engine queues, teams, cores, neighbourhoods, launches, queues, mailboxes, partitions, ports and
outputs. Every piece the spec names is a field; the fields that the model adds are marked MODEL.
-/
namespace Sys2Proof.Machine

/-- Who moves next. MODEL: the spec leaves the interleaving of the agents open (R149), so a schedule, which is plain data,
names it (log entry 1). -/
inductive Actor where
  /-- the team with this number issues its next instruction -/
  | team (uid : Nat)
  /-- a gondola core executes its next instruction (R53) -/
  | gondola (core : Nat)
  /-- a step of the table that no word encodes -/
  | event (i : Instr)
  /-- clk passes, and device time with it in ns -/
  | tick (clks ns : Nat)
  deriving DecidableEq, Repr

/-- A launch record as validated (R63): capabilities in the layout of R115, CODE and SAVEF with their fixed lengths. -/
structure LaunchRec where
  code : Cap
  entry : Word
  trapEnt : Word
  lanes : Nat
  w : Nat
  h : Nat
  t : Nat
  vregs : Nat
  aregs : Nat
  sregs : Nat
  gridX : Nat
  gridY : Nat
  scratch : Nat
  l1floor : Nat
  pclass : Nat
  fptrap : Nat
  enva : Byte
  envb : Byte
  seed : DWord
  savef : Cap
  wbkeep : Bool
  caps : List Cap
  consts : List Word
  deriving DecidableEq, Repr

/-- The kinds of reconvergence entries (R102), in the code order of R388. -/
inductive EntryKind where
  | defer
  | join
  | loop
  | call
  deriving DecidableEq, Repr

/-- A reconvergence stack entry (R102, R388). -/
structure StackEntry where
  kind : EntryKind
  pc : Word
  m : LaneMask
  seg : Nat
  head : Word
  k : LaneMask
  trapCall : Bool
  deriving DecidableEq, Repr

/-- An entry that a line is owed (R191, R192): the ISEND with its tag, its pass and word, and the positions written so far. -/
structure Owed where
  req : Nat
  tag : Nat
  pass : Nat
  word : Nat
  data : List (Option Word)
  deriving DecidableEq, Repr

/-- A line (R98, R192): entries from the head, then the entries owed, in order. -/
structure Line where
  entries : List (List Word)
  owed : List Owed
  deriving DecidableEq, Repr

/-- A trap that an engine or island operation raised and that its team has not yet taken (R176). -/
structure AsyncTrap where
  cause : Byte
  info : DWord
  handle : Nat
  lane : Nat
  pc : Word
  /-- the agent that raised it, as R173 numbers agents, and the cursor of a copy that it stopped -/
  agent : Nat
  cursor : Nat
  deriving DecidableEq, Repr

/-- Why a team that holds its slot issues nothing. -/
inductive TeamStatus where
  | running
  /-- asleep in WAITT, of so many words, on a mask of tags (R347) -/
  | waitTags (mask : Byte) (words : Nat)
  /-- asleep in WAITW (R348): the capability, offset and pair registers and the condition of the instruction -/
  | waitWord (x y c : Spec) (cond : BitVec 2)
  /-- arrived at a barrier instance (R306) -/
  | waitBarrier (ox oy sw sh n : Nat) (d : Spec) (sub : Nat)
  /-- asleep on owed entries of lines, a miss, until each line of the list has so many (R194) -/
  | waitLine (need : List (Nat × Nat))
  /-- parked in the wait table of its core (R170) -/
  | parked (token : Nat)
  /-- its park-class fault found the wait table full: to be evicted (R175) -/
  | evictDue (token : Nat)
  /-- launched mask empty: waits for its stores, copies and requests (R110) -/
  | retiring
  deriving DecidableEq, Repr

/-- A cause raised by an instruction (R164, R166): the code, INFO, lane and handle; `next` where the return pc is the next
instruction although the instruction had no effect (R168: TRAP_INSTR and BREAKPOINT). -/
structure Cause where
  code : Nat
  info : Nat
  lane : Nat
  handle : Nat
  next : Bool
  /-- what a record of a halt names beside (R173): the agent that raised it, and the cursor of the copy that it stopped -/
  agent : Nat := 0
  cursor : Nat := 0
  deriving DecidableEq, Repr

/-- The request type of a store-queue entry: the data type of R135, or the marker of a FENCE.REL (R150). -/
inductive StoreKind where
  | own
  | writeThrough
  | nonAlloc
  /-- FENCE.REL: nothing younger drains before everything older has drained and performed (R150) -/
  | fence
  /-- RREL of a round region: the tile's release in program order (R140) -/
  | rrel
  deriving DecidableEq, Repr

/-- A store-queue entry (R148): up to 8 bytes of one lane at one object offset. `seq` is MODEL: program order of the
team's memory operations. -/
structure StoreEntry where
  seq : Nat
  kind : StoreKind
  handle : Nat
  off : Nat
  pa : Nat
  bytes : List Byte
  lane : Nat
  hint : Nat
  deriving DecidableEq, Repr

/-- Where a pending load, an atomic or a bounded load reads (R148, R126). -/
inductive Place where
  | obj (handle off pa : Nat)
  /-- a scratchpad of the neighbourhood: the rank of its team and the byte offset (R126) -/
  | scratch (rank off : Nat)
  /-- an object's bytes, to be translated again: a pending load of a team that was saved (R161, R182) -/
  | again (handle off : Nat)
  deriving DecidableEq, Repr

/-- What a pending item writes: one register word of one lane, a pair, a uniform register, or nothing. -/
structure Target where
  /-- 0 none, 1 varying register (specifier), 2 uniform register -/
  cls : Nat
  reg : Nat
  lane : Nat
  /-- which Y slot the instruction's own result now sits in: 0 is Y0, 1 is Y1, 2 neither (R98) -/
  ySlot : Nat
  /-- the item writes the first register of its group, which Y follows (R98) -/
  first : Bool
  /-- how many registers it writes -/
  n : Nat
  deriving DecidableEq, Repr

/-- A load, window load or bounded load issued and not performed (R148). -/
structure PendLoad where
  seq : Nat
  place : Place
  size : Nat
  signed : Bool
  rq : Nat
  hint : Nat
  target : Target
  /-- a bounded load's bound on the word's round, and whether it waits for a push (R143) -/
  bound : Option (Nat × Bool)
  /-- the value of a bounded load that has been served, written when every lane has been (R328) -/
  got : Option Nat
  deriving DecidableEq, Repr

/-- An atomic or window atomic issued and not performed (R148, R331). -/
structure PendAtomic where
  seq : Nat
  place : Place
  size : Nat
  op : Nat
  b : DWord
  c : DWord
  target : Target
  /-- RQ = 1: performed in the issuing L1 (R332) -/
  loc : Bool
  acquire : Bool
  release : Bool
  hint : Nat
  deriving DecidableEq, Repr

/-- A scratchpad or window store issued and not performed (R126, R152). -/
structure WinStore where
  seq : Nat
  rank : Nat
  off : Nat
  bytes : List Byte
  deriving DecidableEq, Repr

/-- One end of a copy (R341, R343, R60). -/
inductive CopyEnd where
  /-- an object by its handle in the partition's table, with the capability's base and length already applied -/
  | obj (handle : Nat)
  /-- the scratchpad of a rank of the submitting team's neighbourhood -/
  | scratch (rank : Nat)
  deriving DecidableEq, Repr

/-- One contiguous piece of a copy: the chunk of a lane (R341), or the bytes of a COPY packet. -/
structure Piece where
  src : CopyEnd
  srcOff : Nat
  /-- how many of the bytes come from the source; the others are zeros (R341) -/
  valid : Nat
  dst : CopyEnd
  dstOff : Nat
  len : Nat
  lane : Nat
  deriving DecidableEq, Repr

/-- One destination word of a CPYM (R345, R346). -/
structure McWord where
  dst : CopyEnd
  off : Nat
  data : Word
  lane : Nat
  deriving DecidableEq, Repr

/-- How far a WBGTH has come (R176): the descriptor that it read, the tile that it builds, the next scale byte, the next row,
and, inside a row, the next entry and the end of the row. -/
structure GatherCur where
  desc : Nat
  tile : Nat
  scale : Nat
  row : Nat
  entry : Option (Nat × Nat)
  deriving DecidableEq, Repr

/-- What an operation that found no free wait-table entry would park on, and when it asked (R176). -/
structure Asking where
  cause : Nat
  handle : Nat
  page : Nat
  lane : Nat
  order : Nat
  deriving DecidableEq, Repr

/-- The work of an engine-queue entry (R153). -/
inductive Job where
  /-- CPY and COPY packets: pieces in order -/
  | pieces (l : List Piece)
  /-- CPYT: rows and planes of R length (R343, R344) -/
  | tensor (src : CopyEnd) (srcOff : Nat) (dst : CopyEnd) (dstOff rowLen rows planes srcRow dstRow srcPlane dstPlane : Nat)
  /-- CPYM: the words to write or combine; `op` 0 is .MC, `k + 1` the operation k of R263 -/
  | multicast (op : Nat) (l : List McWord)
  /-- WBLD (R357): source handle and object offset of the next tile, the end of the capability, the next unit, tiles left -/
  | weightLoad (handle off lim unit n : Nat)
  /-- WBGTH (R358): the descriptor's handle and object offset, base and end of the capability, the unit, k0 and n0, and the
  cursor once it has read its descriptor -/
  | weightGather (handle off base lim unit k0 n0 : Nat) (cur : Option GatherCur)
  /-- QFENCE: a marker in each queue of its set (R154) -/
  | fence (id set : Nat)
  deriving DecidableEq, Repr

/-- The completion word of a copy (R340): handle and object offset, whether the capability holds M, and, once the operation
has started to perform, the word's address and the mailbox that it notifies. -/
structure CompWord where
  handle : Nat
  off : Nat
  canNotify : Bool
  pa : Option Nat
  mailbox : Option Nat
  deriving DecidableEq, Repr

/-- An entry of a core's copy queue or weight-buffer queue (R148, R153). `after` is MODEL: the issuing team's program
position, whose older stores must have drained. -/
structure EngineOp where
  id : Nat
  part : Nat
  uid : Nat
  nb : Nat
  rank : Nat
  pc : Word
  tag : Nat
  hasTag : Bool
  cw : Option CompWord
  job : Job
  hint : Nat
  after : Nat
  cursor : Nat
  /-- writes done, completion outstanding (R155) -/
  done : Bool
  /-- parked in the wait table under this token (R176) -/
  parked : Option Nat
  /-- asked for a wait-table entry and has none (R176) -/
  asking : Option Asking
  deriving DecidableEq, Repr

/-- One lane's request of an ISEND pass (R189). -/
structure LaneReq where
  lane : Nat
  words : List Word
  deriving DecidableEq, Repr

/-- A submitted request group: one pass of one ISEND (R153, R191, R192). -/
structure IslandReq where
  id : Nat
  part : Nat
  uid : Nat
  nb : Nat
  rank : Nat
  /-- the slot of its core that it was sent to -/
  slot : Nat
  pc : Word
  cls : Nat
  /-- digest of the envelope that it was sent to, which says of a title's KINDs which of them write (R153, R212) -/
  env : BitVec 512
  /-- the class of its reads and writes in the stacked cache (R130) -/
  hint : Nat
  cap : Cap
  line : Nat
  k : Nat
  tag : Nat
  pass : Nat
  /-- the last pass of its ISEND: its completion completes the tag (R191) -/
  last : Bool
  after : Nat
  lanes : List LaneReq
  helper : LaneMask
  /-- lanes performed whose words are not yet written: lane and words -/
  result : List (Nat × List Word)
  /-- a format error in every lane: BIND or REGW mixed with other KINDs, or Ld + K above 8 (R190, R191) -/
  bad : Bool
  /-- causes already delivered for this ISEND (R189) -/
  noted : List Nat
  /-- traps of its ISEND, each with the lowest failing lane so far, to be delivered once no lane of it is left to perform
  (R189) -/
  traps : List AsyncTrap
  /-- a read of it has missed the island cache (R194) -/
  missed : Bool
  /-- it has parked, and no REPLAY has woken it yet (R354) -/
  flagged : Bool
  /-- ISEND.SYNC: the release and the invalidation of R156 come before it performs -/
  sync : Bool
  /-- the start of its team's launch, by its fresh number: a line of the island cache serves it only where it was fetched since
  (R156) -/
  launch : Nat
  /-- the clk of its submission (R212) -/
  since : Nat
  parked : Option Nat
  asking : Option Asking
  /-- a QFENCE marker (R154): (id, set) -/
  fence : Option (Nat × Nat)
  deriving DecidableEq, Repr

/-- The envelope that a slot holds (R186, R188). -/
structure HeldEnvelope where
  entry : Nat
  cls : Nat
  digest : BitVec 512
  hangBound : Nat
  regBytes : Nat
  deriving DecidableEq, Repr

/-- A quad of RAST (R202): its origin, the covered pixels, and per pixel λ1, λ2 and z. -/
structure Quad where
  x : Nat
  y : Nat
  cover : List Bool
  l1 : List Word
  l2 : List Word
  z : List Word
  deriving DecidableEq, Repr

/-- A triangle whose quads have not all been emitted (R200, R202): the ISEND, its team and tag, the launch that it makes. -/
structure Tri where
  req : Nat
  uid : Nat
  tag : Nat
  part : Nat
  queue : Nat
  cls : Nat
  ident : Word
  /-- the pc of the ISEND -/
  pc : Word
  prm : LaunchRec
  quads : List Quad
  deriving DecidableEq, Repr

/-- A line of an island cache (R184, R51): 128 bytes at a line address, with the number that stood when it was fetched. -/
structure CacheLine where
  part : Nat
  line : Nat
  stamp : Nat
  bytes : List Byte
  deriving DecidableEq, Repr

/-- An island slot (R184, R185): 256 bytes of register space as 64 words, the request queue, the island cache, and the
triangles under way. -/
structure Slot where
  env : Option HeldEnvelope
  part : Nat
  regs : List Word
  queue : List IslandReq
  reloading : Bool
  cache : List CacheLine
  tris : List Tri
  deriving DecidableEq, Repr

/-- The state of a valid L1 word (R133). -/
inductive L1State where
  | valid
  | owned
  | round (n : Nat)
  deriving DecidableEq, Repr

/-- A word of a core's L1 (R133): 4 bytes at a word address, with a dirty bit per byte. -/
structure L1Word where
  part : Nat
  handle : Nat
  addr : Nat
  st : L1State
  data : Word
  dirty : BitVec 4
  deriving DecidableEq, Repr

/-- A round-table entry (R142). -/
structure RoundEntry where
  part : Nat
  handle : Nat
  known : Nat
  pushLost : Bool
  /-- the clk at which it was last marked push-lost (R144) -/
  lostClk : Nat
  deriving DecidableEq, Repr

/-- A unit of the weight buffer with the neighbourhood that wrote it (R124) and the handle of its data (R39). -/
structure WbUnit where
  idx : Nat
  nb : Nat
  /-- the handle that WBLD or WBGTH read it through, which a table change under that handle names (R39) -/
  handle : Nat
  bytes : List Byte
  deriving DecidableEq, Repr

/-- A wait-table entry (R170). A key of none is one by token alone (0x35). -/
structure WaitEntry where
  part : Nat
  cause : Nat
  key : Option (Nat × Nat)
  info : DWord
  token : Nat
  waiters : Nat
  wake : Bool
  /-- MODEL: the agent, slot, PC, handle, lane and cursor that its KIND 1 record names -/
  agent : Nat
  slot : Nat
  pc : Word
  handle : Nat
  lane : Nat
  cursor : Nat
  /-- MODEL: its KIND 1 record has been posted -/
  posted : Bool
  deriving DecidableEq, Repr

/-- A fault record waiting in a batcher (R172, R173), or a header whose COUNT records follow it. -/
structure FaultRec where
  cause : Nat
  kind : Nat
  token : Nat
  handle : Nat
  core : Nat
  slot : Nat
  agent : Nat
  key : DWord
  info : DWord
  pc : Word
  qword : Word
  cursor : DWord
  lane : Nat
  count : Nat
  /-- the device time at which the record was handed to the batcher: for KIND 1 and 2 the closing of the batch (R173) -/
  time : DWord
  deriving DecidableEq, Repr

/-- A line of the stacked cache (R123, R130, R132): the partition of its shelves, its line address, the class that it was
inserted with and whether PIN marked it. GDDR7's own bytes beneath a dirty line are kept in `under`; the home value itself
lies in `State.mem` (log entry 72). -/
structure StackLine where
  part : Nat
  line : Nat
  cls : Nat
  pinned : Bool
  under : Option (List Byte)
  deriving DecidableEq, Repr

/-- MODEL: a submission to a queue of a core in the clk of the last ones (R95, R162, R213): 0 the copy queue, 1 and 2 the island
slots, 3 the weight-buffer queue; the clk at which the submitting run started and its port; whether it is a QFENCE's marker. -/
structure Sent where
  queue : Nat
  runClk : Nat
  port : Nat
  fence : Bool
  deriving DecidableEq, Repr

/-- A core (R95, R123). -/
structure Core where
  l1 : List L1Word
  /-- the lines that the L1's ways hold, by partition and line address, most recently used first (R127) -/
  lru : List (Nat × Nat)
  ways : Nat
  /-- shadow tags of the sampled sets: the lines most recently removed from them, newest first (R128) -/
  shadow : List (Nat × Nat)
  /-- the clk at which the ways were last adjusted (R128) -/
  adjClk : Nat
  /-- the words pushed in the clk `pushClk`, which a way removal of that clk precedes (R144) -/
  pushClk : Nat
  pushed : List Nat
  sampA : Nat
  sampG : Nat
  sampZ : Nat
  rounds : List RoundEntry
  copyQ : List EngineOp
  wbQ : List EngineOp
  slotA : Slot
  slotB : Slot
  wb : List WbUnit
  /-- MODEL: the clk of the last submissions to the core's queues, and those of that clk (R95, R162, R213) -/
  sentClk : Nat
  sent : List Sent
  waits : List WaitEntry
  /-- tokens of the entries opened in the batch that is open, and the clk at which it opened (R172) -/
  batch : List Nat
  batchClk : Option Nat
  /-- clock running; a core that emptied waits for the winch's gate release, with its place in the order (R82) -/
  clocked : Bool
  /-- single-bit errors corrected in the core's arrays (R178) -/
  corrected : Nat
  emptied : Option Nat
  resPart : Option Nat
  /-- the clk since which its partition is resident there (R85) -/
  since : Nat
  deriving DecidableEq, Repr

/-- A team (R89-R113, R164, R297). Registers are lists by number; varying registers are one word per lane. -/
structure Team where
  /-- MODEL: the team's own number -/
  uid : Nat
  part : Nat
  launch : Nat
  nb : Nat
  rank : Nat
  gx : Nat
  gy : Nat
  core : Nat
  slot : Nat
  prm : LaunchRec
  status : TeamStatus
  pc : Word
  /-- instructions issued in the run so far (R94), and the port held with the clk at which the run started (R95) -/
  runLen : Nat
  port : Option Nat
  runClk : Nat
  launched : LaneMask
  active : LaneMask
  helper : LaneMask
  rot : Word
  forced : Nat
  bbc : Nat
  aw : Bool
  limb : Nat
  flags : BitVec 6
  trapCause : DWord
  trapInfo : DWord
  trapPc : Word
  inTrap : Bool
  async : Option AsyncTrap
  /-- MODEL: a trap of a completed BARR, taken before the team's next instruction (R302, R306): cause and pc of the BARR -/
  due : Option (Cause × Word)
  dbg : BitVec 3
  whnd : Nat
  woff : Nat
  wlen : Nat
  sreg : List Word
  qreg : BitVec 7
  areg : List (Word × Word)
  creg : List Cap
  vreg : List (List Word)
  freg : List (List Word)
  y0 : List Word
  y1 : List Word
  preg : List LaneMask
  lines : List Line
  stack : List StackEntry
  rng : List DWord
  tags : List Nat
  storeQ : List StoreEntry
  loads : List PendLoad
  atomics : List PendAtomic
  winStores : List WinStore
  /-- the scratchpad's bytes: addresses rising, no zero byte listed (R126) -/
  scratch : List Host.Cell
  /-- how many BARRs the team has issued on each rectangle (R306) -/
  barrs : List (Nat × Nat × Nat × Nat × Nat)
  startClk : Nat
  /-- MODEL: runs started since the start or restore (R5) -/
  runs : Nat
  sleepClk : Nat
  /-- clk slept in the wait under way before the present sleep (R349) -/
  slept : Nat
  /-- the clk at which the team parked (R175), and the park key, cause and token kept with it -/
  parkClk : Nat
  parkCause : Nat
  parkKey : DWord
  /-- the failing lane of the park, which the record of an eviction names (R173) -/
  parkLane : Nat
  /-- MODEL: an LDB is being served lane by lane (R328): its pc has not moved -/
  inLdb : Bool
  deriving DecidableEq, Repr

/-- An arrival at a barrier instance (R306, R307). -/
structure Arrival where
  rank : Nat
  lanes : Nat
  sub : Nat
  cls : Nat
  payload : Word
  exc : BitVec 6
  /-- causes that the team's own tree raised under FPTRAP (R302) -/
  causes : List Cause
  deriving DecidableEq, Repr

/-- A barrier instance of a span rectangle (R306). -/
structure Barrier where
  ox : Nat
  oy : Nat
  sw : Nat
  sh : Nat
  n : Nat
  span : Byte
  arrivals : List Arrival
  /-- the payload result and its exceptions once complete -/
  result : Option (Word × BitVec 6)
  departed : List Nat
  deriving DecidableEq, Repr

/-- Where the image of a saved team lies (R180). -/
inductive SavedAt where
  /-- frame `i` of the launch's SAVEF object -/
  | frame (i : Nat)
  /-- the partition's ballast area; the team as it stood -/
  | ballast (t : Team)
  deriving DecidableEq, Repr

/-- A saved team of a neighbourhood (R179-R182). -/
structure SavedTeam where
  rank : Nat
  reason : Nat
  place : SavedAt
  /-- counts of tags are in the frame; the sleep that the team was in is kept here (MODEL) -/
  status : TeamStatus
  async : Option AsyncTrap
  due : Option (Cause × Word)
  /-- launched lanes, which a barrier's required sum counts (R306) -/
  lanes : Nat
  uid : Nat
  barrs : List (Nat × Nat × Nat × Nat × Nat)
  lines : List Line
  slept : Nat
  /-- island requests and engine operations withdrawn into the held area (R179), whose layout the spec does not give -/
  heldReqs : List IslandReq
  heldOps : List EngineOp
  /-- pending loads, which are reissued on restore (R161) -/
  loads : List PendLoad
  parkCause : Nat
  parkKey : DWord
  token : Nat
  /-- the core that it was saved on, and what it held there of its partition: the known round of each region (log entry 79), and
  the handle of each weight unit saved with it -/
  core : Nat
  rounds : List (Nat × Nat)
  units : List (Nat × Nat)
  deriving DecidableEq, Repr

/-- What a neighbourhood is doing (R73, R80, R83, R86). -/
inductive NbPhase where
  /-- on the return list, or being placed for the first time -/
  | waiting
  /-- placed: slots reserved, start requested from the winch (R80) -/
  | requested
  | resident
  deriving DecidableEq, Repr

/-- A neighbourhood under way (R73-R90, R306). -/
structure Nb where
  id : Nat
  launch : Nat
  part : Nat
  grid : Nat
  phase : NbPhase
  x : Nat
  y : Nat
  /-- an advance was charged for it (R76, R77) -/
  advance : Bool
  /-- switched out: may be placed only at (x, y) again (R87) -/
  pinned : Bool
  /-- the sequence number of a handler (R69) -/
  handlerSeq : Option Word
  startClk : Nat
  /-- its place on the return list: smaller is older (R73, R74) -/
  order : Int
  /-- slots to be reloaded before the start (R80): (core, slot, map entry) -/
  reloads : List (Nat × Nat × Nat)
  barriers : List Barrier
  saved : List SavedTeam
  retired : List Nat
  /-- scratchpads of ranks whose team holds no slot and which stay allocated (R126) -/
  pads : List (Nat × List Host.Cell)
  deriving DecidableEq, Repr

/-- A launch accepted by the dispatcher (R73). -/
structure Launch where
  id : Nat
  part : Nat
  queue : Nat
  mailbox : Option Nat
  cls : Nat
  prm : LaunchRec
  handlerSeq : Option Word
  /-- a pixel team of RAST (R202): the ISEND, its team and its tag, and the quads -/
  rast : Option (Nat × Nat × Nat)
  quads : List Quad
  /-- neighbourhoods that have left: retired ones -/
  finished : Nat
  /-- the slot has been freed: every neighbourhood is on the return list, resident or retired -/
  started : Bool
  /-- the fresh number drawn at its start: island-cache lines of later numbers were fetched since (R156) -/
  startNo : Nat
  deriving DecidableEq, Repr

/-- A packet that has started and not completed (R59, R60). -/
structure OpenPacket where
  id : Nat
  typ : Nat
  /-- QRD of the packet, and its bytes as fetched -/
  rd : Nat
  body : List Byte
  /-- the launch that it waits for (LAUNCH) -/
  launch : Option Nat
  /-- packets that a FENCE waits for (R61) -/
  waitsFor : List Nat
  /-- bytes that a COPY has written (R65) -/
  cursor : Nat
  /-- stopped by a fault until its queue resumes (R65, R66) -/
  stuck : Bool
  deriving DecidableEq, Repr

/-- The states of a queue (R56). -/
inductive QState where
  | idle
  | running
  | waiting
  | parked
  deriving DecidableEq, Repr

/-- A command queue (R56, R57). -/
structure Queue where
  base : Nat
  en : Bool
  size : Nat
  hnd : Nat
  qwr : Nat
  qrd : Nat
  badwr : Bool
  pend : Bool
  cause : Byte
  st : QState
  started : List OpenPacket
  /-- the WAIT at QRD, as fetched, while its word does not meet COND (R61) -/
  unmet : Option (List Byte)
  /-- the launch in the dispatch slot (R73) -/
  slot : Option Nat
  quantum : Word
  cls : Nat
  /-- a DSP.QCFG write waiting for the next round of its class (R72) -/
  newCfg : Option (Word × Nat)
  deficit : Int
  /-- key and token of the page whose absence parked the queue (R66, R174) -/
  parkKey : Option (Nat × Nat)
  parkToken : Nat
  /-- MODEL: a write to QRETRY or a REPLAY has named the parked queue and the gondola has not yet resumed it (R66) -/
  retry : Bool
  deriving DecidableEq, Repr

/-- A mailbox (R67-R69). -/
structure Mailbox where
  count : Nat
  overflow : Bool
  seq : Word
  pend : Bool
  /-- the copy of the record made at bind and the queue charged (R68) -/
  binding : Option (LaunchRec × Nat)
  slot : Option Nat
  deriving DecidableEq, Repr

/-- An evicted team that its partition keeps in the deferred list (R175). -/
structure Deferred where
  nb : Nat
  rank : Nat
  core : Nat
  cause : Nat
  key : DWord
  token : Nat
  woken : Bool
  deriving DecidableEq, Repr

/-- A page range that PIN made resident (R132): object index, first 64 KiB page and how many. -/
structure PinRange where
  obj : Nat
  page : Nat
  n : Nat
  deriving DecidableEq, Repr

/-- The per-core state that a partition switch saves besides teams (R86, R87). -/
structure CoreSave where
  core : Nat
  slotA : Slot
  slotB : Slot
  wb : List WbUnit
  /-- the markers of a QFENCE that a request in the slots holds, and the entries behind them (R154) -/
  copyQ : List EngineOp
  wbQ : List EngineOp
  deriving DecidableEq, Repr

/-- The states of a partition (R33). -/
inductive PState where
  | free
  | configured
  | runnable
  | stopped
  | resetting
  deriving DecidableEq, Repr

/-- The descriptor fields that partition 0 writes (R33), by field. -/
structure Desc where
  mbxBase : Nat
  shelf : BitVec 192
  emBase : Nat
  allot : List Nat
  fqLen : Nat
  fqBase : Nat
  otLen : Nat
  otBase : Nat
  htLen : Nat
  htBase : Nat
  gQuota : Nat
  pinq : Nat
  streams : Nat
  queues : Nat
  mailboxes : Nat
  deriving DecidableEq, Repr

/-- A partition (R33, R40). -/
structure Partition where
  desc : Desc
  gused : Nat
  st : PState
  queues : List Queue
  mailboxes : List Mailbox
  flipHnd : List Nat
  flipOff : List Nat
  fqWr : Nat
  fqRd : Nat
  phase : Bool
  records : List FaultRec
  nextToken : Nat
  deferred : List Deferred
  balBase : Nat
  balLen : Nat
  /-- neighbourhoods on the return list, head first (R73) -/
  returns : List Nat
  /-- pixel-team launches offered and not yet started, oldest first (R202) -/
  offers : List Nat
  ballast : List CoreSave
  pinned : List PinRange
  deriving DecidableEq, Repr

/-- A winch row (R72, R81, R82). -/
structure Winch where
  cap : Nat
  fall : Nat
  rise : Nat
  stepUp : Nat
  budget : Int
  held : Bool
  heldRun : Nat
  freeRun : Nat
  /-- the clk at which the present window began (R81) -/
  window : Nat
  deriving DecidableEq, Repr

/-- A frame being transmitted (R18, R22): its stream, its traffic-class queue and its length without FCS. -/
structure TxFrame where
  part : Nat
  stream : Nat
  tc : Nat
  len : Nat
  deriving DecidableEq, Repr

/-- An Ethernet port (R14-R18). -/
structure Port where
  express : Byte
  preempt : Bool
  verified : Bool
  link : Bool
  en : Bool
  speed : Nat
  gctlLen : Nat
  pending : Bool
  gcycle : Nat
  gbase : DWord
  idle : List Word
  gadmin : List (Nat × DWord)
  operLen : Nat
  operCycle : Nat
  operBase : DWord
  goper : List (Nat × DWord)
  swapAfter : Nat
  tx : Option TxFrame
  /-- a pre-empted frame, which resumes at the next opening of its gate (R16) -/
  preempted : Option TxFrame
  /-- credit of traffic-class queues 4 to 7 (R15, R17), in kbit/s times ns -/
  credit : List Int
  /-- frames longer than 9,216 bytes discarded (R14) -/
  oversize : Nat
  deriving DecidableEq, Repr

/-- A stream filter (R19): its 256-bit entry and the level of its token bucket, in
units of 1/8000 byte, with the device time that it was filled to. -/
structure Filter where
  idx : Nat
  entry : BitVec 256
  tokens : Nat
  filled : Nat
  deriving DecidableEq, Repr

/-- A stream table entry (R20). -/
structure Stream where
  part : Nat
  st : Nat
  entry : BitVec 256
  deriving DecidableEq, Repr

/-- A display output (R24, R25): the registers, and the binding, geometry and base in force since the last vertical blank. -/
structure Output where
  en : Bool
  fmt : Nat
  part : Nat
  handle : Nat
  geom : DWord
  base : Nat
  vblanks : Nat
  flip : Bool
  reject : Bool
  scanErr : Bool
  dclk : Word
  dhtim : DWord
  dvtim : DWord
  dpol : BitVec 2
  curPart : Nat
  curHandle : Nat
  curGeom : DWord
  curBase : Nat
  deriving DecidableEq, Repr

/-- A gondola core (R53-R55): an RV32 register file, pc, machine trap registers and the packet buffer. -/
structure GCore where
  x : List Word
  pc : Word
  mcause : Word
  mtval : Word
  mepc : Word
  mtvec : Word
  buf : List Byte
  deriving DecidableEq, Repr

/-- Who owns a word at its home (R136); no entry is no owner. -/
inductive Owner where
  | core (n : Nat)
  | host
  deriving DecidableEq, Repr

/-- A round region at its home (R139, R140): tile rounds by tile number, those not listed being 0. -/
structure Region where
  part : Nat
  obj : Nat
  tiles : List (Nat × Nat)
  attached : Option Nat
  deriving DecidableEq, Repr

/-- A kept envelope image (R50): its digest and the pages of the envelope area that it occupies, in order. -/
structure KeptImage where
  digest : BitVec 512
  pages : List Nat
  deriving DecidableEq, Repr

/-- The fuse bank (R41). -/
structure Fuses where
  pkh : BitVec 512
  hkh : BitVec 512
  svc : Nat
  dsec : BitVec 256
  dsecLocked : Bool
  debugLock : Bool
  deriving DecidableEq, Repr

/-- The boot registers and the running firmware (R42-R46). -/
structure Boot where
  /-- 0 running, 1 recovery, 2 recovery image rejected -/
  stat : Nat
  idKey : BitVec 256
  attKey : BitVec 256
  attSeed : BitVec 256
  aCert : List Byte
  fwVersion : Nat
  fwDigest : BitVec 512
  deriving DecidableEq, Repr

/-- The table port (R36). -/
structure TablePort where
  arg0 : DWord
  arg1 : DWord
  cmd : Option DWord
  drop : Bool
  result : Byte
  /-- partitions that a kill-class fault hit while the port executed a command for them: they enter STOPPED when it has
  completed (R40) -/
  stops : List Nat
  deriving DecidableEq, Repr

end Sys2Proof.Machine
end

