-- ==== Sys2Proof/Machine/State.lean ====
section
/-!
DEFINITION. The machine's whole state as plain data, the reasons a step can stop, and the state after reset.
-/
namespace Sys2Proof.Machine

/-- The machine. Fields marked MODEL are the model's own (log entries 1, 4, 9); the rest are the spec's. -/
structure State where
  /-- MODEL: who moves next (log entry 1) -/
  schedule : List Actor
  /-- MODEL: the team whose instruction executes -/
  cur : Nat
  /-- MODEL: the gondola core whose instruction executes -/
  gcur : Nat
  /-- MODEL: program-order stamp of the next memory operation (log entry 4) -/
  nextSeq : Nat
  /-- MODEL: the next number for a team, launch, neighbourhood, request or packet -/
  nextId : Nat
  /-- MODEL: how many free values have been drawn -/
  freeCtr : Nat
  /-- MODEL: what the last read by the outside world returned, and whether it ended in an access fault (R10, R12) -/
  busRead : DWord
  busFault : Bool
  /-- clk since the last reset (R297) -/
  clk : Nat
  /-- device time in ns (R23) -/
  devTime : DWord
  timeSynced : Bool
  /-- the rate at which device time runs, as a deviation in parts per 10^9, and the fraction of a ns not yet counted, in
  units of 10^-9 ns (R23) -/
  timeRate : Int
  timeFrac : Nat
  /-- domain voltages in mV; 0 is not yet set since reset (R5) -/
  volt : List Nat
  frozen : Bool
  apertureGated : Bool
  /-- GDDR7 (R7, R12): host-physical address and byte, rising, no entry equal to the unlisted value -/
  mem : List Host.Cell
  /-- blocks of 64 bytes with an uncorrectable error (R10), by block number, with the bytes rewritten since (R11) -/
  badBlocks : List (Nat × BitVec 64)
  sizeGiB : Nat
  cecnt : List Word
  uecnt : List Word
  /-- flight log (R29): listed entries by index, the others zero -/
  flog : List (Nat × BitVec 128)
  flogNext : Nat
  /-- MODEL: the clk of the newest entry and how many entries that clk has written, which stand in SOURCE order (R30) -/
  flogClk : Nat
  flogRun : Nat
  /-- the stacked cache (R123, R130): its lines, most recently used first -/
  stack : List StackLine
  /-- ownership registry (R136): word address and owner -/
  registry : List (Nat × Owner)
  regions : List Region
  /-- MODEL: the clk of the last stores to tiles of round regions that are not attached, and those of that clk: partition,
  object, tile, and the neighbourhood and rank of a team (R144) -/
  tileClk : Nat
  tileStores : List (Nat × Nat × Nat × Option (Nat × Nat))
  cores : List Core
  teams : List Team
  nbs : List Nb
  launches : List Launch
  parts : List Partition
  tbl : TablePort
  boot : Boot
  fuses : Fuses
  /-- serial NOR flash with the firmware image (R42) -/
  flash : List Byte
  pslice : Nat
  starve : Nat
  adv : Nat
  ts : Nat
  winch : List Winch
  /-- pointer(c) of each class (R76) -/
  rr : List Nat
  /-- the clk at which the timer of class c started, when it runs, and the promoted classes (R75) -/
  starveFrom : List (Option Nat)
  promoted : List Bool
  lastSwitch : Nat
  ballast : Nat
  ballastSet : Bool
  parkLim : Nat
  envBase : Nat
  envLen : Nat
  kept : List KeptImage
  ports : List Port
  filters : List Filter
  streams : List Stream
  ethSrc : Nat
  ethSync : Bool
  outputs : List Output
  gcores : List GCore
  /-- firmware code memory of the gondola (R53) -/
  gmem : List Host.Cell
  /-- pending signal sources: kind and index (R55) -/
  signals : List (Nat × Nat)
  deriving DecidableEq, Repr

/-- Why a step stops with a fault. The spec lets no instruction of a present team stop the machine: these are the model's
own, and each is raised only where the machine that the spec describes would have nothing to run. -/
inductive Fault where
  /-- Raised by a team instruction when `State.cur` names no resident team: the spec gives no meaning to an instruction
  that no team issues. Safe: nothing runs. -/
  | noCurrentTeam
  /-- Raised by an Xgnd instruction when `State.gcur` is not 0 to 3 (R53). Safe: nothing runs. -/
  | noGondolaCore
  deriving DecidableEq, Repr

/-- Why a step is refused. -/
inductive Refusal where
  /-- Raised by an arm of `exec` whose instruction has no meaning yet. Safe. -/
  | notModelled (mnemonic : String)
  deriving DecidableEq, Repr

/-- A null capability (R115). -/
def nullCap : Cap := 0

/-- An empty island slot (R185). -/
def Slot.reset : Slot :=
  { env := none, part := 0, regs := List.replicate 64 0, queue := [], reloading := false, cache := [],
    tris := [] }

/-- A core after reset: nothing resident, its caches and queues empty. The way count is a DESIGN CHOICE (log entry 9). -/
def Core.reset : Core :=
  { l1 := [], lru := [], ways := 20, shadow := [], adjClk := 0, pushClk := 0, pushed := [], sampA := 0, sampG := 0, sampZ := 0, rounds := [], copyQ := [], wbQ := [], slotA := Slot.reset,
    slotB := Slot.reset, wb := [], sentClk := 0, sent := [], waits := [], batch := [], batchClk := none, clocked := false, corrected := 0, emptied := none,
    resPart := none, since := 0 }

/-- A queue after reset (R56, R72): every word zero, QUANTUM 0x0001_0000, class 0, deficit 0. -/
def Queue.reset : Queue :=
  { base := 0, en := false, size := 0, hnd := 0, qwr := 0, qrd := 0, badwr := false, pend := false, cause := 0,
    st := .idle, started := [], unmet := none, slot := none, quantum := 0x10000, cls := 0, newCfg := none, deficit := 0,
    parkKey := none, parkToken := 0, retry := false }

def Mailbox.reset : Mailbox :=
  { count := 0, overflow := false, seq := 0, pend := false, binding := none, slot := none }

/-- The descriptor's reset values (R33). -/
def Desc.reset : Desc :=
  { mbxBase := 0, shelf := 0, emBase := 0, allot := [0, 0, 0, 0], fqLen := 0, fqBase := 0, otLen := 0, otBase := 0,
    htLen := 0, htBase := 0, gQuota := 0, pinq := 0, streams := 0, queues := 0, mailboxes := 0 }

/-- A partition after reset: FREE, its page zero, token counter at 1 (R33, R56, R170). -/
def Partition.reset : Partition :=
  { desc := Desc.reset, gused := 0, st := .free, queues := List.replicate 16 Queue.reset,
    mailboxes := List.replicate 64 Mailbox.reset, flipHnd := [0, 0], flipOff := [0, 0], fqWr := 0, fqRd := 0,
    phase := false, records := [], nextToken := 1, deferred := [], balBase := 0, balLen := 0, returns := [],
    offers := [], ballast := [], pinned := [] }

/-- DSP.WINCH after reset (R72). The budget starts at 0: the first window refills it (DESIGN CHOICE, log entry 9). -/
def Winch.reset : Winch :=
  { cap := 1, fall := 16, rise := 4, stepUp := 8, budget := 0, held := false, heldRun := 0, freeRun := 0, window := 0 }

/-- An Ethernet port after reset (R17). -/
def Port.reset : Port :=
  { express := 0xFF, preempt := false, verified := false, link := false, en := false, speed := 2, gctlLen := 0,
    pending := false, gcycle := 0, gbase := 0, idle := [0, 0, 0, 0], gadmin := [], operLen := 0, operCycle := 0,
    operBase := 0, goper := [], swapAfter := 0, tx := none, preempted := none, credit := [0, 0, 0, 0], oversize := 0 }

/-- A display output after reset (R24). -/
def Output.reset : Output :=
  { en := false, fmt := 0, part := 0, handle := 0, geom := 0, base := 0, vblanks := 0, flip := false, reject := false,
    scanErr := false, dclk := 0, dhtim := 0, dvtim := 0, dpol := 0, curPart := 0, curHandle := 0, curGeom := 0,
    curBase := 0 }

/-- A gondola core after reset: registers, trap registers and packet buffer zero (DESIGN CHOICE, log entry 7). -/
def GCore.reset : GCore :=
  { x := List.replicate 32 0, pc := 0, mcause := 0, mtval := 0, mepc := 0, mtvec := 0, buf := List.replicate 512 0 }

/-- The fuse bank of State.reset: nothing blown (DESIGN CHOICE, log entry 8). -/
def Fuses.reset : Fuses := { pkh := 0, hkh := 0, svc := 0, dsec := 0, dsecLocked := true, debugLock := false }

/-- The boot registers of State.reset: the firmware runs (R43); its keys and digest are DESIGN CHOICE (log entry 8). -/
def Boot.reset : Boot :=
  { stat := 0, idKey := 0, attKey := 0, attSeed := 0, aCert := List.replicate 160 0, fwVersion := 0, fwDigest := 0 }

def TablePort.reset : TablePort := { arg0 := 0, arg1 := 0, cmd := none, drop := false, result := 0, stops := [] }

/-- The flight-log entry of the fitted size, written at cold reset at device time 0 (R6, R29, R31). -/
def sizeEntry (gib : Nat) : BitVec 128 := BitVec.ofNat 128 (0x0404FF * 2 ^ 56 + gib)

/-- The machine right after a cold reset whose boot chain has passed (R26, R43, R46): every register at the value the spec
states; partition 0 RUNNABLE and every client FREE (R33); no team, launch or packet; nothing listed in memory. Values that
the spec does not state are those of log entries 1, 3, 7, 8 and 9. -/
def State.reset : State :=
  { schedule := [], cur := 0, gcur := 0, nextSeq := 0, nextId := 0, freeCtr := 0, busRead := 0, busFault := false,
    clk := 0, devTime := 0, timeSynced := false, timeRate := 0, timeFrac := 0, volt := List.replicate 9 0, frozen := false, apertureGated := false,
    mem := [], badBlocks := [], sizeGiB := 2, cecnt := List.replicate 12 0, uecnt := List.replicate 12 0,
    flog := [(0, sizeEntry 2)], flogNext := 1, flogClk := 0, flogRun := 0, stack := [], registry := [], regions := [], tileClk := 0, tileStores := [], cores := List.replicate 96 Core.reset, teams := [], nbs := [],
    launches := [], parts := { Partition.reset with st := .runnable } :: List.replicate 128 Partition.reset,
    tbl := TablePort.reset, boot := Boot.reset, fuses := Fuses.reset, flash := [], pslice := 0x03E8, starve := 0x07D0,
    adv := 0x10, ts := 0x0064, winch := List.replicate 8 Winch.reset, rr := [0, 0, 0, 0],
    starveFrom := [none, none, none, none], promoted := [false, false, false, false], lastSwitch := 0, ballast := 0,
    ballastSet := false, parkLim := 0x0014, envBase := 0, envLen := 0, kept := [],
    ports := [Port.reset, Port.reset], filters := [], streams := [], ethSrc := 0, ethSync := false,
    outputs := [Output.reset, Output.reset], gcores := List.replicate 4 GCore.reset, gmem := [], signals := [] }

end Sys2Proof.Machine
end

