-- ==== Sys2Proof/Machine/Mem.lean ====
section
/-!
DEFINITION. Byte memories in their canonical form, the lookup of teams, cores and partitions, the home value of a byte
(R148), recalls (R136), and translation through a partition's tables with the checks of R34 and R119.
-/
namespace Sys2Proof.Machine

/-- The byte at an address of a canonical list; `d` is what an unlisted address reads as. -/
def cellGet (d : Byte) : List Host.Cell → Nat → Byte
  | [], _ => d
  | (k, b) :: r, a => if k = a then b else cellGet d r a

/-- The cells of a run of bytes, without those that read as `d` anyway. -/
def cellsOf (d : Byte) : Nat → List Byte → List Host.Cell
  | _, [] => []
  | a, b :: bs => if b = d then cellsOf d (a + 1) bs else (a, b) :: cellsOf d (a + 1) bs

/-- Replace the run of bytes from `a`: one merge that keeps the canonical form. -/
def cellSet (d : Byte) (m : List Host.Cell) (a : Nat) (bs : List Byte) : List Host.Cell :=
  m.filter (fun c => decide (c.1 < a)) ++ cellsOf d a bs ++ m.filter (fun c => decide (a + bs.length ≤ c.1))

/-- The canonical form: addresses strictly rising and no entry equal to the unlisted value. -/
def cellsWf (d : Byte) (m : List Host.Cell) : Bool :=
  decide (m.Pairwise fun a b => a.1 < b.1) && m.all fun c => decide (c.2 ≠ d)

/-- GDDR7 in canonical form. -/
def Memory.wf (m : List Host.Cell) : Bool := cellsWf Config.memDefault m

/-- `n` bytes from an address of a canonical list. -/
def cellRead (d : Byte) (m : List Host.Cell) (a n : Nat) : List Byte :=
  (List.range n).map fun i => cellGet d m (a + i)

/-- The number of a list of cells at an address, little-endian. -/
def cellNat (d : Byte) (m : List Host.Cell) (a n : Nat) : Nat := leNat (cellRead d m a n)

/-- Usable GDDR7 capacity (R7). -/
def State.capacity (s : State) : Nat := if s.sizeGiB = 4 then 0x0BA0000000 else 0x05D0000000

def State.team? (s : State) (uid : Nat) : Option Team := s.teams.find? fun t => t.uid == uid

/-- Replace a team by a function of it. -/
def State.mapTeam (s : State) (uid : Nat) (f : Team → Team) : State :=
  { s with teams := s.teams.map fun t => if t.uid = uid then f t else t }

def State.setTeam (s : State) (t : Team) : State := s.mapTeam t.uid fun _ => t

def State.core? (s : State) (c : Nat) : Option Core := s.cores[c]?

def State.getCore (s : State) (c : Nat) : Core := s.cores[c]?.getD Core.reset

def State.mapCore (s : State) (c : Nat) (f : Core → Core) : State := { s with cores := modifyAt s.cores c f }

def State.getPart (s : State) (p : Nat) : Partition := s.parts[p]?.getD Partition.reset

def State.mapPart (s : State) (p : Nat) (f : Partition → Partition) : State := { s with parts := modifyAt s.parts p f }

def State.nb? (s : State) (id : Nat) : Option Nb := s.nbs.find? fun n => n.id == id

def State.mapNb (s : State) (id : Nat) (f : Nb → Nb) : State :=
  { s with nbs := s.nbs.map fun n => if n.id = id then f n else n }

def State.launch? (s : State) (id : Nat) : Option Launch := s.launches.find? fun l => l.id == id

/-- The teams of a neighbourhood that hold slots, by rank. -/
def State.nbTeams (s : State) (nb : Nat) : List Team := s.teams.filter fun t => t.nb == nb

/-- The team of a rank of a neighbourhood. -/
def State.rankTeam? (s : State) (nb rank : Nat) : Option Team := s.teams.find? fun t => t.nb == nb && t.rank == rank

/-- A fresh number. -/
def State.fresh (s : State) : Nat × State := (s.nextId, { s with nextId := s.nextId + 1 })

/-- The owner of a word (R136). -/
def State.owner (s : State) (w : Nat) : Option Owner := (s.registry.find? fun e => e.1 == w).map (·.2)

def State.setOwner (s : State) (w : Nat) (o : Option Owner) : State :=
  let r := s.registry.filter fun e => e.1 != w
  { s with registry := match o with
      | none => r
      | some x => (r.filter fun e => decide (e.1 < w)) ++ (w, x) :: (r.filter fun e => decide (w < e.1)) }

def Core.l1Word? (c : Core) (w : Nat) : Option L1Word := c.l1.find? fun x => x.addr == w

/-- The word that an L1 holds for a partition; a lookup from another partition misses (R51). -/
def Core.l1For? (c : Core) (part w : Nat) : Option L1Word := c.l1.find? fun x => x.addr == w && x.part == part

def Core.setL1 (c : Core) (x : L1Word) : Core := { c with l1 := x :: c.l1.filter fun y => y.addr != x.addr }

def Core.dropL1 (c : Core) (w : Nat) : Core := { c with l1 := c.l1.filter fun y => y.addr != w }

/-- Byte `i` of a word. -/
def wordByte (x : Word) (i : Nat) : Byte := BitVec.ofNat 8 (x.toNat >>> (8 * i))

/-- A word with byte `i` replaced. -/
def wordSetByte (x : Word) (i : Nat) (b : Byte) : Word :=
  BitVec.ofNat 32 (leNat ((List.range 4).map fun j => if j = i then b else wordByte x j))

/-- The home value of a byte (R148): the owner's L1 data if a core owns the word, else the home copy. -/
def State.homeByte (s : State) (pa : Nat) : Byte :=
  match s.owner (pa / 4) with
  | some (.core n) =>
    match (s.getCore n).l1Word? (pa / 4) with
    | some x => wordByte x.data (pa % 4)
    | none => cellGet Config.memDefault s.mem pa
  | _ => cellGet Config.memDefault s.mem pa

def State.homeBytes (s : State) (pa n : Nat) : List Byte := (List.range n).map fun i => s.homeByte (pa + i)

def State.homeNat (s : State) (pa n : Nat) : Nat := leNat (s.homeBytes pa n)

/-- Blocks with an uncorrectable error after a run of bytes is written: each stays bad until all its bytes have been rewritten
(R11). -/
def rewritten (bad : List (Nat × BitVec 64)) (pa n : Nat) : List (Nat × BitVec 64) :=
  let hit (b : Nat × BitVec 64) : BitVec 64 :=
    b.2 ||| BitVec.ofNat 64 ((List.range 64).foldl (fun m i => if pa ≤ 64 * b.1 + i ∧ 64 * b.1 + i < pa + n then m + 2 ^ i else m) 0)
  (bad.map fun b => (b.1, hit b)).filter fun b => b.2 != BitVec.allOnes 64

/-- The 64-byte block of an address (R7). -/
def blockOf (pa : Nat) : Nat := pa / 64

/-- A block holds an uncorrectable error. -/
def State.isBad (s : State) (b : Nat) : Bool := s.badBlocks.any fun x => x.1 == b

/-- The first bad block among bytes that a read takes from the home copy (R10). -/
def State.badIn (s : State) (pa n : Nat) : Option Nat :=
  if s.badBlocks.isEmpty then none
  else
    ((List.range n).map (pa + ·)).find? fun a =>
      s.isBad (blockOf a) && match s.owner (a / 4) with
        | some (.core _) => false
        | some .host => true
        | none => true

/-- The stacked cache's lines after a run of bytes is written at the homes: those that it touches are dirty from then on, with
the bytes of GDDR7 beneath them (R130). -/
def State.dirtied (s : State) (pa n : Nat) : List StackLine :=
  s.stack.map fun l =>
    if l.under.isNone ∧ pa < 128 * l.line + 128 ∧ 128 * l.line < pa + n then
      { l with under := some (cellRead Config.memDefault s.mem (128 * l.line) 128) }
    else l

/-- The home copy of a run of bytes. -/
def State.setMem (s : State) (pa : Nat) (bs : List Byte) : State :=
  { s with mem := cellSet Config.memDefault s.mem pa bs, badBlocks := rewritten s.badBlocks pa bs.length,
           stack := s.dirtied pa bs.length }

/-- The dirty bytes of an L1 word, written into the home copy. -/
def State.writeBack (s : State) (x : L1Word) : State :=
  (List.range 4).foldl (fun s i => if x.dirty.getLsbD i then s.setMem (4 * x.addr + i) [wordByte x.data i] else s) s

/-- A recall (R136): the owner's dirty bytes go to the home copy, its copy becomes invalid, the registration clears. -/
def State.recall (s : State) (w : Nat) : State :=
  match s.owner w with
  | some (.core n) =>
    let s1 := match (s.getCore n).l1Word? w with
      | some x => s.writeBack x
      | none => s
    (s1.mapCore n fun c => c.dropL1 w).setOwner w none
  | some .host => s.setOwner w none
  | none => s

/-- The words that a run of bytes touches. -/
def wordsOf (pa n : Nat) : List Nat := (List.range ((pa + n + 3) / 4 - pa / 4)).map fun i => pa / 4 + i

/-- Recall every owner of a run of bytes and write the home copy (R149, .W and engine writes). -/
def State.writeHome (s : State) (pa : Nat) (bs : List Byte) : State :=
  ((wordsOf pa bs.length).foldl State.recall s).setMem pa bs

/-- Why a translation fails: the cause, whether it is of the park class, INFO, and the page of the key (R34, R119). -/
structure XErr where
  cause : Nat
  park : Bool
  info : Nat
  page : Nat
  deriving DecidableEq, Repr

/-- A translated access: object index, descriptor, physical address, page number and address of the frame entry. -/
structure Xl where
  obj : Nat
  desc : Nat
  pa : Nat
  page : Nat
  entryAddr : Nat
  deriving DecidableEq, Repr

/-- Object descriptor fields (R120). -/
def ODesc.ceil (d : Nat) : Nat := bits d 247 240
def ODesc.ownerOf (d : Nat) : Nat := bits d 255 248
def ODesc.pinok (d : Nat) : Bool := bit d 233
def ODesc.islrd (d : Nat) : Bool := bit d 232
def ODesc.mailbox (d : Nat) : Bool := bit d 231
def ODesc.halo (d : Nat) : Bool := bit d 230
def ODesc.isRound (d : Nat) : Bool := bit d 229 && bit d 230
def ODesc.length (d : Nat) : Nat := bits d 79 32
def ODesc.pageShift (d : Nat) : Nat := if bit d 228 then 21 else 16
def ODesc.faAddr (d : Nat) : Nat := bits d 167 128
def ODesc.haloAddr (d : Nat) : Nat := bits d 215 176

/-- VALID is 1, every reserved field is zero, and HALO comes only with ROUND (R119, R120). -/
def ODesc.ok (d : Nat) : Bool :=
  bit d 224 && bits d 239 234 == 0 && bits d 227 225 == 0 && bits d 223 216 == 0 && bits d 175 168 == 0 &&
    bits d 127 80 == 0 && bits d 31 0 == 0 && !(bit d 230 && !bit d 229)

/-- INFO in form A (R165). -/
def infoA (off detail : Nat) : Nat := (off % 2 ^ 48) * 2 ^ 16 + detail % 2 ^ 16

/-- INFO in form K (R165). -/
def infoK (handle page : Nat) : Nat := handle % 2 ^ 20 * 2 ^ 44 + page % 2 ^ 32 * 2 ^ 12

/-- The address of the frame entry of an object offset. -/
def ODesc.entryAddr (d off : Nat) : Nat := ODesc.faAddr d + 8 * (off / 2 ^ ODesc.pageShift d)

/-- A bad block that the walk of a handle meets: in its handle-table entry or in the descriptor that a valid entry names
(R10, R11). -/
def State.walkBad (s : State) (part handle : Nat) : Option Nat :=
  let d := (s.getPart part).desc
  if d.htLen ≤ handle then none
  else
    match s.badIn (d.htBase + 8 * handle) 8 with
    | some a => some a
    | none =>
      let e := s.homeNat (d.htBase + 8 * handle) 8
      if bits e 63 62 = 2 ∧ bits e 19 0 < d.otLen then s.badIn (d.otBase + 32 * bits e 19 0) 32 else none

/-- The handle checks of R34, in order: the object index and descriptor, or the cause. A table that cannot be read gives
ECC_UNCORRECTABLE (R11). -/
def State.lookupHandle (s : State) (part handle : Nat) : Except Nat (Nat × Nat) :=
  let d := (s.getPart part).desc
  if (s.walkBad part handle).isSome then .error 0x39
  else if d.htLen ≤ handle then .error 0x20
  else
    let e := s.homeNat (d.htBase + 8 * handle) 8
    if !bit e 63 then .error 0x20
    else if bit e 62 then .error 0x21
    else
      let idx := bits e 19 0
      if d.otLen ≤ idx then .error 0x20
      else
        let o := s.homeNat (d.otBase + 32 * idx) 32
        if ODesc.ownerOf o ≠ part then .error 0x20 else .ok (idx, o)

/-- A halo record (R138). -/
structure Halo where
  esz : Nat
  tw : Nat
  th : Nat
  gx : Nat
  gy : Nat
  hw : Nat
  wrap : Bool
  deriving DecidableEq, Repr

/-- The halo record of 8 bytes, for a region of a length; none if a reserved field is set, HW is out of range or the array
does not fit (R138). -/
def haloOf (x len : Nat) : Option Halo :=
  let h : Halo := { esz := bits x 1 0, tw := bits x 13 2 + 1, th := bits x 25 14 + 1, gx := bits x 33 26 + 1,
                    gy := bits x 41 34 + 1, hw := bits x 49 42, wrap := bit x 50 }
  if bits x 63 51 ≠ 0 ∨ min h.tw h.th < h.hw ∨ len < h.gx * h.tw * (h.gy * h.th) * 2 ^ h.esz then none else some h

/-- The halo record of a round region's descriptor. -/
def State.halo? (s : State) (d : Nat) : Option Halo :=
  if ODesc.isRound d then haloOf (s.homeNat (ODesc.haloAddr d) 8) (ODesc.length d) else none

/-- The tile that an object offset lies in, by number ty · GX + tx; none past the array (R138). -/
def Halo.tileOf (h : Halo) (off : Nat) : Option Nat :=
  let e := off / 2 ^ h.esz
  let w := h.gx * h.tw
  let y := e / w
  if y < h.gy * h.th then some (y / h.th * h.gx + e % w / h.tw) else none

/-- The bad block that a look at a round region's halo record meets (R10, R11). -/
def State.haloBad (s : State) (d : Nat) : Option Nat := if ODesc.isRound d then s.badIn (ODesc.haloAddr d) 8 else none

/-- The lowest right of a list that a rights field lacks; rights are bit numbers 20 to 27 (R116). -/
def missingRight (field : Nat) (rights : List Nat) : Option Nat := rights.find? fun r => !bit field (r - 20)

/-- The failure of a walk that meets a bad block: INFO holds the address for the machine check (R10, R11). -/
def XErr.bad (pa : Nat) : XErr := { cause := 0x39, park := false, info := pa, page := 0 }

/-- The checks of R34 and then R119, in order, for an access of `size` bytes at an object offset. `nonres` is the cause
of an absent page, after the requester. Last, any use of a round region whose halo record is bad is ROUND_REGION (R138). -/
def State.translate (s : State) (part handle off size : Nat) (rights : List Nat) (nonres : Nat) : Except XErr Xl :=
  match s.lookupHandle part handle with
  | .error c =>
    match s.walkBad part handle with
    | some a => .error (XErr.bad a)
    | none => .error { cause := c, park := false, info := infoA off size, page := 0 }
  | .ok (idx, d) =>
    let page := off / 2 ^ ODesc.pageShift d
    if !ODesc.ok d then .error { cause := 0x35, park := true, info := infoK handle 0, page := 0 }
    else match missingRight (ODesc.ceil d) rights with
    | some r => .error { cause := 0x29, park := false, info := infoA off r, page := 0 }
    | none =>
      if ODesc.length d < off + size then .error { cause := 0x28, park := false, info := infoA off size, page := 0 }
      else
        let ea := ODesc.faAddr d + 8 * page
        let e := s.homeNat ea 8
        let frame := bits e 39 16 * 2 ^ 16
        let pa := frame + off % 2 ^ ODesc.pageShift d
        if (s.badIn ea 8).isSome then .error (XErr.bad ((s.badIn ea 8).getD 0))
        else if bits e 63 40 ≠ 0 ∨ bits e 15 4 ≠ 0 ∨ (ODesc.pageShift d = 21 ∧ bits e 20 16 ≠ 0) then
          .error { cause := 0x36, park := true, info := infoK handle page, page := page }
        else if s.capacity ≤ pa then .error { cause := 0x36, park := true, info := infoK handle page, page := page }
        else if !bit e 0 then .error { cause := nonres, park := true, info := infoK handle page, page := page }
        else if (s.haloBad d).isSome then .error (XErr.bad ((s.haloBad d).getD 0))
        else if ODesc.isRound d ∧ (s.halo? d).isNone then .error { cause := 0x2D, park := false, info := infoA off size, page := 0 }
        else .ok { obj := idx, desc := d, pa := pa, page := page, entryAddr := ea }

/-- Set DIRTY in the frame entry before a write becomes visible (R121). -/
def State.setDirty (s : State) (entryAddr : Nat) : State :=
  let b := s.homeByte entryAddr
  if b.getLsbD 1 then s else s.writeHome entryAddr [b ||| 2]

/-- DIRTY for a write at an object offset whose translation still stands. -/
def State.dirtyAt (s : State) (part handle off : Nat) : State :=
  match s.lookupHandle part handle with
  | .error _ => s
  | .ok (_, d) => s.setDirty (ODesc.entryAddr d off)

/-- A bad block that the look at the frame entry of an object offset meets: in the tables, or in the entry (R10, R11). -/
def State.entryBad (s : State) (part handle off : Nat) : Option Nat :=
  match s.lookupHandle part handle with
  | .error _ => s.walkBad part handle
  | .ok (_, d) => s.badIn (ODesc.entryAddr d off) 8

/-- Capability fields (R115). -/
def Cap.handle (c : Cap) : Nat := bits c.toNat 19 0
def Cap.rights (c : Cap) : Nat := bits c.toNat 27 20
def Cap.base (c : Cap) : Nat := bits c.toNat 79 64 * 2 ^ 32 + bits c.toNat 63 32
def Cap.length (c : Cap) : Nat := bits c.toNat 127 96 * 2 ^ 16 + bits c.toNat 95 80

/-- A capability of its fields, bits [31:28] zero. -/
def Cap.make (handle rights base len : Nat) : Cap :=
  BitVec.ofNat 128 (handle % 2 ^ 20 + rights % 2 ^ 8 * 2 ^ 20 + base % 2 ^ 32 * 2 ^ 32 + base / 2 ^ 32 % 2 ^ 16 * 2 ^ 64 +
    len % 2 ^ 16 * 2 ^ 80 + len / 2 ^ 16 % 2 ^ 32 * 2 ^ 96)

end Sys2Proof.Machine
end

