-- ==== Sys2Proof/Machine/Cache.lean ====
section
/-!
DEFINITION. The L1 as sets and ways with its sampling sets (R127-R129, R133), and the stacked cache (R123, R130, R132). Which
set of the stacked cache a line falls in, and how many ways a shelf gives it, the spec leaves to the part (log entry 72).
-/
namespace Sys2Proof.Machine

/-- The 128-byte line of a word address. -/
def lineOf (w : Nat) : Nat := w / 32

/-- The L1's set of a line: a way holds 16 KiB, so there are 128 sets (R127). -/
def l1Set (line : Nat) : Nat := line % 128

/-- A sampling set (R128). -/
def sampled (line : Nat) : Bool := l1Set line % 8 == 0

/-- The lines of a line's set, most recently used first. -/
def Core.inSet (c : Core) (line : Nat) : List (Nat × Nat) := c.lru.filter fun x => l1Set x.2 == l1Set line

/-- An access of the L1 counts in a sampling set: A always, Z on the least recently used of the N ways, G on the shadow tag
(R128); and the line becomes the most recently used. -/
def Core.access (c : Core) (part line : Nat) : Core :=
  let set := c.inSet line
  let here := set.contains (part, line)
  let last := decide (set.length = c.ways) && decide (set.getLast? = some (part, line))
  let c1 := if here then { c with lru := (part, line) :: c.lru.filter fun x => x != (part, line) } else c
  if sampled line then
    { c1 with sampA := c.sampA + 1, sampZ := c.sampZ + b2n (here && last),
              sampG := c.sampG + b2n (!here && c.shadow.contains (part, line)) }
  else c1

/-- The L1 lines that an access of `n` bytes touches count (R128). -/
def State.accessL1 (s : State) (core part pa n : Nat) : State :=
  s.mapCore core fun c => ((wordsOf pa n).map lineOf).eraseDups.foldl (fun c l => c.access part l) c

/-- L1_DROP (R149, R128, R136): a word leaves an L1; an owned word is written back and released. -/
def State.dropWord (s : State) (core w : Nat) : State :=
  match (s.getCore core).l1Word? w with
  | none => s
  | some x => if x.st = .owned then s.recall w else s.mapCore core fun c => c.dropL1 w

/-- A round-n word that leaves an L1 with its line is a push that its reader has lost (DEDUCED, log entry 42). -/
def Core.loseWords (c : Core) (ws : List L1Word) : Core :=
  let lost (e : RoundEntry) : Bool := ws.any fun w => w.part == e.part && w.handle == e.handle && match w.st with
    | .round _ => true
    | .valid => false
    | .owned => false
  { c with rounds := c.rounds.map fun e => if lost e then { e with pushLost := true } else e }

/-- A line leaves an L1: its words are dropped, and in a sampling set its tag becomes the shadow tag (R128). -/
def State.dropLine (s : State) (core : Nat) (x : Nat × Nat) : State :=
  let ws := (s.getCore core).l1.filter fun w => lineOf w.addr == x.2
  (ws.foldl (fun (s : State) w => s.dropWord core w.addr) s).mapCore core fun c =>
    { c.loseWords ws with
        lru := c.lru.filter fun y => y != x
        shadow := if sampled x.2 then x :: c.shadow.filter fun y => l1Set y.2 != l1Set x.2 else c.shadow }

/-- A line for a fill: another partition's line at the address leaves, a full set loses its least recently used line, and the
new one is the most recently used. An L1 without ways holds no line (R127). -/
def State.fillLine (s : State) (core part line : Nat) : State :=
  let c := s.getCore core
  if c.ways = 0 ∨ c.lru.contains (part, line) then s
  else
    let s1 := (c.lru.filter fun x => x.2 == line).foldl (fun s x => s.dropLine core x) s
    let set := (s1.getCore core).inSet line
    let s2 := if c.ways ≤ set.length then (match set.getLast? with | some x => s1.dropLine core x | none => s1) else s1
    s2.mapCore core fun c => { c with lru := (part, line) :: c.lru, shadow := c.shadow.filter fun y => y != (part, line) }

/-- A word is placed in an L1, in a line of its own partition. -/
def State.fillWord (s : State) (core : Nat) (x : L1Word) : State :=
  let s1 := s.fillLine core x.part (lineOf x.addr)
  if (s1.getCore core).ways = 0 then s1 else s1.mapCore core fun c => c.setL1 x

/-- The set of a line in the stacked cache and the ways that a number of shelves gives it (log entry 72). -/
def stackSet (line : Nat) : Nat := Config.stackIndex line % 2 ^ (13 - Config.stackWaysLog.val)
def stackWays (shelves : Nat) : Nat := shelves * 2 ^ Config.stackWaysLog.val

/-- The shelves assigned to a partition (R33). -/
def Desc.shelves (d : Desc) : Nat := ((List.range 192).filter fun i => d.shelf.getLsbD i).length

/-- The order of eviction: stream lines, then normal ones, then keep; a pinned line never. Class 11 outside a pinned range is
as stream (R130). -/
def StackLine.rank (l : StackLine) : Nat :=
  if l.pinned then 3
  else
    match l.cls with
    | 0 => 1
    | 2 => 2
    | _ => 0

/-- The line of a full set that leaves: of the lowest rank, the least recently used (R130). -/
def stackVictim (set : List StackLine) : Option StackLine :=
  [0, 1, 2].findSome? fun r => (set.filter fun l => l.rank == r).getLast?

/-- A line of a partition in the stacked cache. -/
def StackLine.is (l : StackLine) (part line : Nat) : Bool := l.part == part && l.line == line

/-- What a partition requests lies in no other partition's shelves (R51; DEDUCED, log entry 72): another's line at the address
leaves, and what it holds has reached GDDR7. -/
def State.yieldLine (s : State) (part line : Nat) : State :=
  { s with stack := s.stack.filter fun l => l.part == part || l.line != line }

/-- A line is made resident in a partition's shelves (R130, R132): a hit becomes the most recently used; a miss is inserted
after its class, where class 11 is stream outside a pinned range and keep in one. A set of pinned lines alone takes no line
but one that is pinned (log entry 72). -/
def State.stackAlloc (s : State) (part line cls : Nat) (pin : Bool) : State :=
  let s := s.yieldLine part line
  match s.stack.find? fun l => l.is part line with
  | some l => { s with stack := { l with pinned := l.pinned || pin } :: s.stack.filter fun x => !x.is part line }
  | none =>
    let l : StackLine := { part := part, line := line, cls := cls, pinned := pin, under := none }
    let put (st : List StackLine) : State := { s with stack := if l.rank = 0 then st ++ [l] else l :: st }
    let set := s.stack.filter fun x => x.part == part && stackSet x.line == stackSet line
    if set.length < stackWays (s.getPart part).desc.shelves then put s.stack
    else
      match stackVictim set with
      | some v => put (s.stack.filter fun x => !x.is part v.line)
      | none => if pin then put s.stack else s

/-- SCLASS of the frame entry of a page (R121). -/
def State.sclass (s : State) (part handle off : Nat) : Nat :=
  match s.lookupHandle part handle with
  | .error _ => 0
  | .ok (_, d) => bits (s.homeNat (ODesc.entryAddr d off) 8) 3 2

/-- A request of a partition at the homes, for `n` bytes at an object offset and address: with shelves its lines are
allocated in them, in the class of its HINT or else of its frame entry (R130). -/
def State.request (s : State) (part handle off pa n hint : Nat) : State :=
  if (s.getPart part).desc.shelf = 0 ∧ s.stack.isEmpty then s
  else
    let lines := ((wordsOf pa n).map lineOf).eraseDups
    if (s.getPart part).desc.shelf = 0 then lines.foldl (fun s l => s.yieldLine part l) s
    else
      let cls := if hint = 0 then s.sclass part handle off else hint
      lines.foldl (fun s l => s.stackAlloc part l cls false) s

/-- Bytes of an object that a fetch, an engine, an island or the gondola reads are requested at their homes, line by line (R130). -/
def State.touch (s : State) (part h off n hint : Nat) : State :=
  if n = 0 ∨ ((s.getPart part).desc.shelf = 0 ∧ s.stack.isEmpty) then s
  else
    (List.range ((off + n - 1) / 128 + 1 - off / 128)).foldl (fun (s : State) i =>
      let o := max off (128 * (off / 128 + i))
      match s.translate part h o 1 [] 0x32 with
      | .error _ => s
      | .ok x => s.request part h o x.pa 1 hint) s

/-- The bad block that a request meets where it takes its class from the frame entry (R130, R10, R11). -/
def State.classBad (s : State) (part handle off hint : Nat) : Option Nat :=
  if (s.getPart part).desc.shelf = 0 ∨ hint ≠ 0 then none else s.entryBad part handle off

/-- A partition's shelves are cleared (R40): its lines are lost, a dirty one without reaching GDDR7. -/
def State.clearShelves (s : State) (part : Nat) : State :=
  let mine := s.stack.filter fun l => l.part == part
  let back (s : State) (l : StackLine) : State :=
    match l.under with
    | some bs => { s with mem := cellSet Config.memDefault s.mem (128 * l.line) bs }
    | none => s
  let s1 := mine.foldl back s
  { s1 with stack := s1.stack.filter fun l => l.part != part }

/-- The lines of some frames leave a partition's shelves with what they hold, since the frames are its own no longer (R51;
DEDUCED, log entry 72). -/
def State.leaveShelves (s : State) (part : Nat) (frames : List (Nat × Nat)) : State :=
  { s with stack := s.stack.filter fun l =>
      l.part != part || !(frames.any fun f => decide (f.1 ≤ 128 * l.line) && decide (128 * l.line < f.1 + f.2)) }

/-- A pinned line of a partition is unpinned: it is written back to GDDR7, and returns to its class (R132). -/
def State.unpinLine (s : State) (part line : Nat) : State :=
  { s with stack := s.stack.map fun l =>
      if l.part = part ∧ l.line = line ∧ l.pinned then { l with pinned := false, under := none } else l }

end Sys2Proof.Machine
end

