-- ==== Sys2Proof/Machine/Operands.lean ====
section
/-!
DEFINITION. The register files of a team (R98, R238): reading and writing every operand form, lane masks, guards (R240),
the last-result registers (R98), and the checks of a specifier against its class and the team's allocation (R238, R98).
-/
namespace Sys2Proof.Machine

/-- A mask from a list of booleans, lane 0 first. -/
def maskOfList : List Bool → Nat
  | [] => 0
  | b :: bs => b2n b + 2 * maskOfList bs

def mkMask (l : List Bool) : LaneMask := BitVec.ofNat 1024 (maskOfList l)

/-- All lanes of a team of `n` lanes. -/
def fullMask (n : Nat) : LaneMask := BitVec.ofNat 1024 (2 ^ n - 1)

def Team.lanes (t : Team) : Nat := t.prm.lanes

/-- The lanes of a mask, ascending. -/
def lanesOf (n : Nat) (m : LaneMask) : List Nat := (List.range n).filter fun l => m.getLsbD l

def lowestLane (n : Nat) (m : LaneMask) : Option Nat := (List.range n).find? fun l => m.getLsbD l

/-- The number of lanes of a mask. -/
def popMask (n : Nat) (m : LaneMask) : Nat := (lanesOf n m).length

/-- Mask word `i` (R92). -/
def maskWord (m : LaneMask) (i : Nat) : Word := m.extractLsb' (32 * i) 32

/-- The summary word (R92). -/
def maskSummary (m : LaneMask) : Word :=
  BitVec.ofNat 32 (maskOfList ((List.range 32).map fun i => maskWord m i != 0))

/-- The passes of an execution mask (R93): each a list of mask word indexes, with the positions occupied. -/
def passesAux (m : LaneMask) : List Nat → List (List Nat × Word) → List (List Nat × Word)
  | [], acc => acc
  | i :: is, acc =>
    let w := maskWord m i
    if w = 0 then passesAux m is acc
    else
      match indexWhere (fun p : List Nat × Word => p.2 &&& w == 0) acc with
      | some k => passesAux m is (modifyAt acc k fun p => (p.1 ++ [i], p.2 ||| w))
      | none => passesAux m is (acc ++ [([i], w)])

def passes (m : LaneMask) : List (List Nat) := (passesAux m (List.range 32) []).map (·.1)

/-- P, the number of passes (R93). -/
def passCount (m : LaneMask) : Nat := (passes m).length

/-- The pass in which a lane of the mask executes. -/
def passOfLane (ps : List (List Nat)) (l : Nat) : Nat := (indexWhere (fun p => p.contains (l / 32)) ps).getD 0

/-- A row of one word per lane. -/
def rowOf (n : Nat) (f : Nat → Word) : List Word := (List.range n).map f

def zeroRow (n : Nat) : List Word := List.replicate n 0

/-- Word of lane `l` of a row. -/
def laneWord (r : List Word) (l : Nat) : Word := r[l]?.getD 0

/-- New values in the lanes of a mask, old values elsewhere. -/
def mergeRow (m : LaneMask) : Nat → List Word → List Word → List Word
  | _, [], _ => []
  | l, x :: xs, ys =>
    match ys with
    | [] => x :: xs
    | y :: ys' => (if m.getLsbD l then y else x) :: mergeRow m (l + 1) xs ys'

/-- Reads of the varying space (R238): V, F, Y and VZ. -/
def Team.readV (t : Team) (r : Spec) : List Word :=
  let k := r.toNat
  if k < 240 then t.vreg[k]?.getD (zeroRow t.lanes)
  else if k < 248 then t.freg[k - 240]?.getD (zeroRow t.lanes)
  else if k = 248 then t.y0
  else if k = 249 then t.y1
  else zeroRow t.lanes

/-- Reads of the uniform space (R98): SZ reads 0. -/
def Team.readS (t : Team) (r : Spec) : Word := if r = 0xFF then 0 else t.sreg[r.toNat]?.getD 0

/-- A 64-bit pair of uniform registers, low word first; SZ supplies zero in every word (R238). -/
def Team.readS64 (t : Team) (r : Spec) : Nat :=
  if r = 0xFF then 0 else (t.readS r).toNat + (t.readS (r + 1)).toNat * 2 ^ 32

/-- Word `i` of a uniform group; SZ supplies zero in every word (R238). -/
def Team.readSGroup (t : Team) (r : Spec) (i : Nat) : Word :=
  if r = 0xFF then 0 else t.readS (r + BitVec.ofNat 8 i)

def Team.readA (t : Team) (r : Spec) : Word × Word := t.areg[r.toNat]?.getD (0, 0)

def Team.readC (t : Team) (r : Spec) : Cap := t.creg[r.toNat]?.getD nullCap

/-- P0-P6, and P7 which reads true (R98). -/
def Team.readP (t : Team) (i : BitVec 3) : LaneMask :=
  if i = 7 then BitVec.allOnes 1024 else t.preg[i.toNat]?.getD 0

/-- Q0-Q6, and Q7 which reads true (R98). -/
def Team.readQ (t : Team) (i : BitVec 3) : Bool := i = 7 || t.qreg.getLsbD i.toNat

/-- The per-lane value of an affine pair (R100, R271). -/
def affineAt (a : Word × Word) (l : Nat) : Word := a.1 + a.2 * BitVec.ofNat 32 l

/-- Per-lane values of an operand (R271); `imm` says how IMM8 is read (R239, R275). -/
def Team.readOpd (t : Team) (imm : Byte → Word) : Opd → List Word
  | .v r => t.readV r
  | .a r => rowOf t.lanes (affineAt (t.readA r))
  | .s r => List.replicate t.lanes (t.readS r)
  | .imm n => List.replicate t.lanes (imm n)

/-- IMM8 as a data immediate (R239). -/
def immSext (n : Byte) : Word := n.signExtend 32

/-- IMM8 as a shift count, control or lane number (R275, R299, R301). -/
def immZext (n : Byte) : Word := n.setWidth 32

/-- A uniform write; SZ discards it (R98). -/
def Team.writeS (t : Team) (r : Spec) (x : Word) : Team :=
  if r = 0xFF then t else { t with sreg := modifyAt t.sreg r.toNat fun _ => x }

/-- A 64-bit pair write, low word in the named register; SZ discards both (R238). -/
def Team.writeS64 (t : Team) (r : Spec) (x : Nat) : Team :=
  if r = 0xFF then t
  else (t.writeS r (BitVec.ofNat 32 x)).writeS (r + 1) (BitVec.ofNat 32 (x / 2 ^ 32))

def Team.writeA (t : Team) (r : Spec) (x : Word × Word) : Team :=
  { t with areg := modifyAt t.areg r.toNat fun _ => x }

def Team.writeC (t : Team) (r : Spec) (x : Cap) : Team := { t with creg := modifyAt t.creg r.toNat fun _ => x }

/-- A Q write; Q7 discards it (R98). -/
def Team.writeQ (t : Team) (i : BitVec 3) (b : Bool) : Team :=
  if i = 7 then t
  else { t with qreg := BitVec.ofNat 7 (maskOfList ((List.range 7).map fun k => if k = i.toNat then b else t.qreg.getLsbD k)) }

/-- A predicate write in the lanes of a mask; P7 discards it (R98, R299). -/
def Team.writeP (t : Team) (m : LaneMask) (i : BitVec 3) (x : LaneMask) : Team :=
  if i = 7 then t
  else { t with preg := modifyAt t.preg i.toNat fun old => (old &&& ~~~m) ||| (x &&& m) }

/-- The store of a row into the varying space under a mask, without Y; VZ discards it. -/
def Team.putV (t : Team) (m : LaneMask) (r : Spec) (x : List Word) : Team :=
  let k := r.toNat
  if k < 240 then { t with vreg := modifyAt t.vreg k fun old => mergeRow m 0 old x }
  else if k < 248 then { t with freg := modifyAt t.freg (k - 240) fun old => mergeRow m 0 old x }
  else t

/-- A pending target of a varying instruction moves down a Y place in the lanes of a later varying instruction (R98). -/
def Target.age (m : LaneMask) (g : Target) : Target :=
  if g.cls = 1 ∧ m.getLsbD g.lane then { g with ySlot := min 2 (g.ySlot + 1) } else g

/-- Y0 and Y1 advance in the lanes of the mask; Y0 takes the new row (R98). -/
def Team.advanceY (t : Team) (m : LaneMask) (x : List Word) : Team :=
  { t with
      y1 := mergeRow m 0 t.y1 t.y0
      y0 := mergeRow m 0 t.y0 x
      loads := t.loads.map fun p => { p with target := p.target.age m }
      atomics := t.atomics.map fun p => { p with target := p.target.age m } }

/-- Y0 and Y1 advance in the lanes of the mask while the new Y0 is still on its way (R98): the item that brings it names
Y0 as its place. -/
def Team.advanceYPending (t : Team) (m : LaneMask) : Team := t.advanceY m t.y0

/-- One word of one lane into the varying space. -/
def Team.putLane (t : Team) (r lane : Nat) (x : Word) : Team :=
  if r < 240 then { t with vreg := modifyAt t.vreg r fun row => modifyAt row lane fun _ => x }
  else if r < 248 then { t with freg := modifyAt t.freg (r - 240) fun row => modifyAt row lane fun _ => x }
  else t

/-- A pending item arrives: its words go to its registers, and the first word of a group to the Y place that the
instruction's result has by now (R98). -/
def Team.deliver (t : Team) (g : Target) (ws : List Word) : Team :=
  match g.cls with
  | 1 =>
    let t1 := (mapAt (fun i x => (i, x)) 0 ws).foldl (fun t p => t.putLane (g.reg + p.1) g.lane p.2) t
    if !g.first then t1
    else if g.ySlot = 0 then { t1 with y0 := modifyAt t1.y0 g.lane fun _ => ws.headD 0 }
    else if g.ySlot = 1 then { t1 with y1 := modifyAt t1.y1 g.lane fun _ => ws.headD 0 }
    else t1
  | 2 =>
    if g.reg = 255 then t
    else (mapAt (fun i x => (i, x)) 0 ws).foldl (fun t p => t.writeS (BitVec.ofNat 8 (g.reg + p.1)) p.2) t
  | _ => t

/-- The write of a varying destination: the lanes of the mask, then Y0 and Y1 (R98, R273). -/
def Team.writeV (t : Team) (m : LaneMask) (r : Spec) (x : List Word) : Team := (t.putV m r x).advanceY m x

/-- A group of varying registers: Y0 takes the word of the first (R98); a VZ group discards every word. -/
def Team.writeVGroup (t : Team) (m : LaneMask) (r : Spec) (xs : List (List Word)) : Team :=
  let t1 := (mapAt (fun i x => (i, x)) 0 xs).foldl
    (fun t p => if r = 0xFF then t else t.putV m (r + BitVec.ofNat 8 p.1) p.2) t
  t1.advanceY m (xs.headD [])

/-- A predicate term of a P guard (R240). -/
def Team.pTerm (t : Team) (g : PTerm) : LaneMask := if g.neg then ~~~(t.readP g.idx) else t.readP g.idx

/-- The lanes that a P guard selects (R89, R240). -/
def Team.guardMask (t : Team) : Guard → LaneMask
  | .always => BitVec.allOnes 1024
  | .one a => t.pTerm a
  | .both a b => t.pTerm a &&& t.pTerm b
  | .either a b => t.pTerm a ||| t.pTerm b

/-- The execution mask of a varying instruction (R89). -/
def Team.execMask (t : Team) (g : Guard) : LaneMask := t.active &&& t.guardMask g

def Team.qTerm (t : Team) (g : PTerm) : Bool := g.neg != t.readQ g.idx

/-- The value of a Q guard (R240). -/
def Team.guardQ (t : Team) : Guard → Bool
  | .always => true
  | .one a => t.qTerm a
  | .both a b => t.qTerm a && t.qTerm b
  | .either a b => t.qTerm a || t.qTerm b

/-- A register class of R238 that a team's allocation limits. -/
inductive RegCls where
  | v
  | a
  | s
  | c
  | l
  deriving DecidableEq, Repr

/-- A register operand: its field position (0 D, 1-5 S1-S5, 6 X1, 7 X2: R166), class, specifier, whether it is written,
how many registers it spans, and the alignment its base needs. -/
structure RegUse where
  pos : Nat
  cls : RegCls
  spec : Spec
  dst : Bool
  n : Nat
  align : Nat
  deriving DecidableEq, Repr

/-- A single source or destination. -/
def RegUse.src (pos : Nat) (cls : RegCls) (r : Spec) : RegUse := ⟨pos, cls, r, false, 1, 1⟩
def RegUse.dest (pos : Nat) (cls : RegCls) (r : Spec) : RegUse := ⟨pos, cls, r, true, 1, 1⟩

/-- The register that an operand names, if it names one. -/
def opdUse (pos : Nat) : Opd → List RegUse
  | .v r => [RegUse.src pos .v r]
  | .a r => [RegUse.src pos .a r]
  | .s r => [RegUse.src pos .s r]
  | .imm _ => []

/-- Whether a specifier names allocated registers of its class (R98, R238). -/
def Team.regOk (t : Team) (u : RegUse) : Bool :=
  let k := u.spec.toNat
  match u.cls with
  | .v =>
    if k < 240 then decide (k + u.n ≤ t.prm.vregs) && decide (k % u.align = 0)
    else if k < 248 then decide (k - 240 + u.n ≤ 8) && decide (k % u.align = 0)
    else if k < 250 then !u.dst && decide (u.n = 1)
    else decide (k = 255)
  | .a => decide (k < 32) && decide (k < t.prm.aregs)
  | .s =>
    if k = 255 then true
    else decide (k % u.align = 0) && decide (k + u.n ≤ 64) &&
      (List.range u.n).all fun i => decide (k + i < t.prm.sregs) || decide (32 ≤ k + i)
  | .c => decide (k < 16)
  | .l => decide (k < 8)

/-- The first operand, in the order of field positions, that fails (R166, ILL_REGISTER). -/
def Team.badReg (t : Team) (us : List RegUse) : Option RegUse :=
  (List.range 8).findSome? fun p => us.find? fun u => u.pos == p && !t.regOk u

/-- Whether a pending load or atomic still writes a register word that this use covers. -/
def Target.hits (m : LaneMask) (u : RegUse) (g : Target) : Bool :=
  match u.cls with
  | .v =>
    decide (g.cls = 1) && (
      (decide (u.spec.toNat < 248) && decide (u.spec.toNat < g.reg + g.n) && decide (g.reg < u.spec.toNat + u.n)) ||
      (u.spec == 0xF8 && decide (g.ySlot = 0) && g.first && m.getLsbD g.lane) ||
      (u.spec == 0xF9 && decide (g.ySlot = 1) && g.first && m.getLsbD g.lane))
  | .s => decide (g.cls = 2) && decide (u.spec.toNat < g.reg + g.n) && decide (g.reg < u.spec.toNat + u.n)
  | .a => false
  | .c => false
  | .l => false

/-- The scoreboard (R96): a source, or a destination still being written, is not ready. A bounded load belongs to the
instruction that the team is held at (R328). -/
def Team.hazard (t : Team) (m : LaneMask) (us : List RegUse) : Bool :=
  us.any fun u => t.loads.any (fun p => p.bound.isNone && p.target.hits m u) || t.atomics.any (fun p => p.target.hits m u)

end Sys2Proof.Machine
end

