-- ==== Sys2Proof/Machine/Rounds.lean ====
section
/-!
DEFINITION. Round regions (R138-R143): tiles and their owners, tile rounds, halo strips, attachment, the round
tables of the cores; and self-invalidation, the effect of every acquire (R150).
-/
namespace Sys2Proof.Machine

def State.region? (s : State) (part obj : Nat) : Option Region := s.regions.find? fun r => r.part == part && r.obj == obj

/-- The tile round (R140). -/
def State.tileRound (s : State) (part obj tile : Nat) : Nat :=
  match s.region? part obj with
  | none => 0
  | some r => ((r.tiles.find? fun e => e.1 == tile).map (·.2)).getD 0

/-- The region round: the smallest tile round (R140). -/
def State.regionRound (s : State) (part obj : Nat) (h : Halo) : Nat :=
  ((List.range (h.gx * h.gy)).map (s.tileRound part obj)).foldl min (2 ^ 32 - 1)

/-- Change a region's record, making one if there is none. -/
def State.mapRegion (s : State) (part obj : Nat) (f : Region → Region) : State :=
  match s.region? part obj with
  | some _ => { s with regions := s.regions.map fun r => if r.part = part ∧ r.obj = obj then f r else r }
  | none => { s with regions := s.regions ++ [f { part := part, obj := obj, tiles := [], attached := none }] }

def Region.setRound (r : Region) (tile n : Nat) : Region :=
  { r with tiles := (tile, n) :: r.tiles.filter fun e => e.1 != tile }

/-- The readers of a tile as displacements (dx, dy) with the rank that owns the neighbour (R138). -/
def Halo.readers (h : Halo) (tile : Nat) : List (Int × Int × Nat) :=
  let tx : Int := (tile % h.gx : Nat)
  let ty : Int := (tile / h.gx : Nat)
  let steps : List (Int × Int) := [(-1, -1), (0, -1), (1, -1), (-1, 0), (1, 0), (-1, 1), (0, 1), (1, 1)]
  (steps.filterMap fun p =>
    let x := tx + p.1
    let y := ty + p.2
    let gx : Int := h.gx
    let gy : Int := h.gy
    if h.wrap then some (p.1, p.2, (y % gy * gx + x % gx).toNat)
    else if x < 0 ∨ y < 0 ∨ gx ≤ x ∨ gy ≤ y then none
    else some (p.1, p.2, (y * gx + x).toNat)).filter fun r => r.2.2 != tile

/-- The element rows or columns of a strip along one axis: the low edge, all, or the high edge (R141). -/
def stripRange (d : Int) (n hw : Nat) : List Nat :=
  (List.range n).filter fun i => if d < 0 then decide (i < hw) else if 0 < d then decide (n ≤ i + hw) else true

/-- The byte offsets of a strip's elements (R141). -/
def Halo.strip (h : Halo) (tile : Nat) (dx dy : Int) : List Nat :=
  (stripRange dy h.th h.hw).flatMap fun y => (stripRange dx h.tw h.hw).map fun x =>
    ((tile / h.gx * h.th + y) * (h.gx * h.tw) + tile % h.gx * h.tw + x) * 2 ^ h.esz

/-- Whether a store of `n` bytes by the team of a rank of a neighbourhood, or by another party (`who` none), to an offset of an
attached round region is foreign (R139): any of its bytes lies in a tile that is not the storing team's. -/
def State.foreignWrite (s : State) (part obj d off n : Nat) (who : Option (Nat × Nat)) : Bool :=
  match s.region? part obj, s.halo? d with
  | some r, some h =>
    match r.attached with
    | some inst => (List.range n).any fun i =>
        match h.tileOf (off + i) with
        | some tile => decide (who ≠ some (inst, tile))
        | none => false
    | none => false
  | some _, none => false
  | none, _ => false

/-- A store of `n` bytes to an offset of a round region that is not attached is noted for its clk, tile by tile (R144). -/
def State.noteStore (s : State) (part obj d off n : Nat) (who : Option (Nat × Nat)) : State :=
  match s.halo? d, (s.region? part obj).bind (·.attached) with
  | some h, none =>
    let tiles := ((List.range n).filterMap fun i => h.tileOf (off + i)).eraseDups
    if tiles.isEmpty then s
    else
      { s with tileClk := s.clk
               tileStores := (if s.tileClk = s.clk then s.tileStores else []) ++ tiles.map fun k => (part, obj, k, who) }
  | some _, some _ => s
  | none, _ => s

/-- A store of a device unit through a handle is noted (R144). -/
def State.noteHandle (s : State) (part handle off n : Nat) : State :=
  match s.lookupHandle part handle with
  | .error _ => s
  | .ok (obj, d) => s.noteStore part obj d off n none

/-- In this clk some other party has stored to the tile of a team's rank, which no instance had attached then (R144). -/
def State.storedThisClk (s : State) (t : Team) (obj : Nat) : Bool :=
  s.tileClk == s.clk && s.tileStores.any fun x =>
    x.1 == t.part && x.2.1 == obj && x.2.2.1 == t.rank && x.2.2.2 != some (t.nb, t.rank)

/-- The entry of a core's round table (R142). -/
def Core.round? (c : Core) (part handle : Nat) : Option RoundEntry :=
  c.rounds.find? fun e => e.part == part && e.handle == handle

/-- The round-n words of a region in an L1 become invalid (R142). -/
def Core.dropRounds (c : Core) (part handle : Nat) : Core :=
  { c with l1 := c.l1.filter fun x => !(x.part == part && x.handle == handle &&
      match x.st with | .round _ => true | .valid => false | .owned => false) }

/-- An entry is put at the front of a core's round table; a full table of the partition loses its least recently used entry,
and the round-n words of that region become invalid (R142). -/
def Core.addRound (c : Core) (e : RoundEntry) : Core :=
  let mine := c.rounds.filter fun x => x.part == e.part
  if mine.length < 16 then { c with rounds := e :: c.rounds }
  else
    match mine.getLast? with
    | none => { c with rounds := e :: c.rounds }
    | some old =>
      { c.dropRounds e.part old.handle with
          rounds := e :: c.rounds.filter fun x => !(x.part == e.part && x.handle == old.handle) }

/-- Use of a region by LDB or RREL: its entry moves to the front, or is allocated with the region round (R142) and its
push-lost bit clear (R379). The region's round-n words then bear the entry's handle. -/
def State.useRound (s : State) (core part handle obj : Nat) (h : Halo) : State :=
  let named (x : L1Word) : L1Word :=
    match x.st, s.lookupHandle part x.handle with
    | .round _, .ok (o, _) => if x.part = part ∧ o = obj then { x with handle := handle } else x
    | _, _ => x
  s.mapCore core fun c =>
    match c.round? part handle with
    | some e => { c with rounds := e :: c.rounds.filter fun x => !(x.part == part && x.handle == handle) }
    | none => { c with l1 := c.l1.map named }.addRound { part := part, handle := handle, known := s.regionRound part obj h, pushLost := false, lostClk := 0 }

/-- A team is started on or restored to a core (R142): every entry of its partition there is push-lost. A restored team brings
the regions that its old core's table held, so that a push that it missed is fetched (R182, R338; DEDUCED, log entry 79). -/
def Core.loseRounds (c : Core) (clk part : Nat) (brought : List (Nat × Nat)) : Core :=
  let c1 := brought.foldl (fun (c : Core) x =>
    if (c.round? part x.1).isSome then c
    else c.addRound { part := part, handle := x.1, known := x.2, pushLost := true, lostClk := clk }) c
  { c1 with rounds := c1.rounds.map fun e => if e.part = part then { e with pushLost := true, lostClk := clk } else e }

/-- The round table after an acquire: every known round of the partition is reread (R142). -/
def State.rereadRounds (s : State) (core part : Nat) : State :=
  let reread (e : RoundEntry) : RoundEntry :=
    if e.part ≠ part then e
    else match s.lookupHandle part e.handle with
      | .error _ => e
      | .ok (obj, d) =>
        match s.halo? d with
        | none => e
        | some h => { e with known := s.regionRound part obj h }
  s.mapCore core fun c => { c with rounds := c.rounds.map reread }

/-- Self-invalidation, the effect of an acquire by a team of a partition on a core (R149, R150): every valid word becomes
invalid, owned and round-n words stay, known rounds are reread. -/
def State.selfInvalidate (s : State) (core part : Nat) : State :=
  (s.mapCore core fun c => { c with l1 := c.l1.filter fun x =>
    match x.st with | .valid => x.part != part | .owned => true | .round _ => true }).rereadRounds core part

end Sys2Proof.Machine
end

