-- ==== Sys2Proof/Machine/Float.lean ====
section
/-!
DEFINITION. Floating-point arithmetic from exact values (R214-R217, R311-R316, R318-R321): a value is a NaN, an infinity, or
a sign with an exact dyadic magnitude; every operation is computed exactly and rounded once. The special functions that are
correctly rounded are computed with enough bits and a sticky bit; those with a bound only are displaced by a free value.
-/
namespace Sys2Proof.Machine

/-- Exception flags in the order of R217: NV, DZ, OF, UF, NX, IOV. -/
abbrev FFlags := BitVec 6

def fNone : FFlags := 0
def fNV : FFlags := 1
def fDZ : FFlags := 2
def fOF : FFlags := 4
def fUF : FFlags := 8
def fNX : FFlags := 16
def fIOV : FFlags := 32

/-- An exact value: a finite one is (-1)^neg · m · 2^e. -/
inductive FVal where
  | nan (signalling : Bool)
  | inf (neg : Bool)
  | fin (neg : Bool) (m : Nat) (e : Int)
  deriving DecidableEq, Repr

/-- A binary format (R214, R219). `infs` is false for E4M3, whose all-ones exponent holds finite values and one NaN. -/
structure Fmt where
  eb : Nat
  mb : Nat
  bias : Nat
  infs : Bool
  nan : Nat
  deriving DecidableEq, Repr

def fp32 : Fmt := ⟨8, 23, 127, true, 0x7FC00000⟩
def fp16 : Fmt := ⟨5, 10, 15, true, 0x7E00⟩
def bf16 : Fmt := ⟨8, 7, 127, true, 0x7FC0⟩
/-- FP19 without the 13 cleared bits of its word (R214). -/
def fp19 : Fmt := ⟨8, 10, 127, true, 0x3FE00⟩
def e4m3 : Fmt := ⟨4, 3, 7, false, 0x7F⟩
def e5m2 : Fmt := ⟨5, 2, 15, true, 0x7E⟩
def e3m4 : Fmt := ⟨3, 4, 3, true, 0x7F⟩
def e2m1 : Fmt := ⟨2, 1, 1, false, 0⟩
def e2m3 : Fmt := ⟨2, 3, 1, false, 0⟩
def e3m2 : Fmt := ⟨3, 2, 3, false, 0⟩

/-- The value of a code; `nanOk` is false for formats without NaN (R219). -/
def Fmt.unpack (f : Fmt) (nanOk : Bool) (x : Nat) : FVal :=
  let frac := bits x (f.mb - 1) 0
  let ex := bits x (f.mb + f.eb - 1) f.mb
  let neg := bit x (f.mb + f.eb)
  if nanOk ∧ f.infs ∧ ex = 2 ^ f.eb - 1 then
    if frac = 0 then .inf neg else .nan (!bit frac (f.mb - 1))
  else if nanOk ∧ ¬ f.infs ∧ ex = 2 ^ f.eb - 1 ∧ frac = 2 ^ f.mb - 1 then .nan false
  else if ex = 0 then .fin neg frac (1 - (f.bias : Int) - f.mb)
  else .fin neg (2 ^ f.mb + frac) ((ex : Int) - f.bias - f.mb)

def Fmt.sign (f : Fmt) (neg : Bool) : Nat := b2n neg * 2 ^ (f.eb + f.mb)

def Fmt.infCode (f : Fmt) (neg : Bool) : Nat := f.sign neg + (2 ^ f.eb - 1) * 2 ^ f.mb

/-- The largest finite code. -/
def Fmt.maxCode (f : Fmt) (neg : Bool) : Nat :=
  f.sign neg + if f.infs then (2 ^ f.eb - 1) * 2 ^ f.mb - 1 else 2 ^ (f.eb + f.mb) - 2

/-- Rounding modes by MOD (R215): 0 RNE, 1 RTZ, 2 RUP, 3 RDN. Whether the magnitude `n` with a remainder compared with
one half (`half`: less, equal, greater) goes up. -/
def roundsUp (mode : BitVec 2) (neg : Bool) (odd : Bool) (inexact : Bool) (half : Ordering) : Bool :=
  if !inexact then false
  else if mode = 0 then half == .gt || (half == .eq && odd)
  else if mode = 1 then false
  else if mode = 2 then !neg
  else neg

/-- m·2^e with a sticky remainder, rounded to a multiple of 2^q: the quotient and whether it is inexact. -/
def roundAt (mode : BitVec 2) (neg : Bool) (m : Nat) (e q : Int) (sticky : Bool) : Nat × Bool :=
  if q ≤ e then (m <<< (e - q).toNat, sticky)
  else
    let sh := (q - e).toNat
    let n := m >>> sh
    let rem := m - n <<< sh
    let h := 2 ^ (sh - 1)
    let inexact := rem ≠ 0 || sticky
    let half : Ordering := if rem < h then .lt else if rem = h ∧ !sticky then .eq else .gt
    (if roundsUp mode neg (n % 2 = 1) inexact half then n + 1 else n, inexact)

/-- Rounding an exact value, or one with a sticky remainder, to a format (R215, R217): the code and the flags. Tininess is
detected after rounding with unbounded exponent. -/
def Fmt.round (f : Fmt) (mode : BitVec 2) (neg : Bool) (m : Nat) (e : Int) (sticky : Bool) : Nat × FFlags :=
  if m = 0 ∧ !sticky then (f.sign neg, 0)
  else
    let top := e + (bitLen m : Int) - 1
    let emin : Int := 1 - (f.bias : Int)
    let q0 := top - f.mb
    let q := max q0 (emin - f.mb)
    let (n, inexact) := roundAt mode neg m e q sticky
    let (n0, _) := roundAt mode neg m e q0 sticky
    -- n0 · 2^q0 < 2^emin
    let tiny := decide ((bitLen n0 : Int) + q0 ≤ emin)
    -- a carry out of the significand moves the exponent
    let carry := n = 2 ^ (f.mb + 1)
    let sig := if carry then n / 2 else n
    let qq := if carry then q + 1 else q
    let bexp : Int := if sig < 2 ^ f.mb then 0 else qq + f.mb + f.bias
    let code := bexp.toNat * 2 ^ f.mb + sig % 2 ^ f.mb
    if f.maxCode false < code then
      let up := if mode = 0 then true else if mode = 1 then false else if mode = 2 then !neg else neg
      ((if f.infs ∧ up then f.infCode neg else f.maxCode neg), fOF ||| fNX)
    else
      (f.sign neg + code, (if inexact then fNX else 0) ||| (if tiny ∧ inexact then fUF else 0))

/-- A value into a format: canonical NaN (R216), infinities, or one rounding. -/
def Fmt.pack (f : Fmt) (mode : BitVec 2) : FVal → Nat × FFlags
  | .nan _ => (f.nan, 0)
  | .inf neg => (f.infCode neg, 0)
  | .fin neg m e => f.round mode neg m e false

/-- FP32 operands and results. -/
def un32 (x : Word) : FVal := fp32.unpack true x.toNat
def pk32 (mode : BitVec 2) (v : FVal) : Word × FFlags :=
  let r := fp32.pack mode v
  (BitVec.ofNat 32 r.1, r.2)

def FVal.isSNaN : FVal → Bool
  | .nan s => s | .inf _ => false | .fin _ _ _ => false

def FVal.isNaN : FVal → Bool
  | .nan _ => true | .inf _ => false | .fin _ _ _ => false

def FVal.negate : FVal → FVal
  | .nan s => .nan s | .inf n => .inf (!n) | .fin n m e => .fin (!n) m e

/-- The signed integer of a finite value on a grid of 2^g, g at most its exponent. -/
def onGrid (neg : Bool) (m : Nat) (e g : Int) : Int :=
  let x : Int := (m <<< (e - g).toNat : Nat)
  if neg then -x else x

/-- The exact sum of two finite values; a zero sum of unlike signs is +0, or −0 under RDN (R215). -/
def addFin (mode : BitVec 2) (n1 : Bool) (m1 : Nat) (e1 : Int) (n2 : Bool) (m2 : Nat) (e2 : Int) : FVal :=
  let g := min e1 e2
  let z := onGrid n1 m1 e1 g + onGrid n2 m2 e2 g
  if z = 0 then .fin (if n1 = n2 then n1 else decide (mode = 3)) 0 g
  else .fin (decide (z < 0)) z.natAbs g

/-- Exact addition with its invalid case (R311). -/
def addV (mode : BitVec 2) : FVal → FVal → FVal × FFlags
  | .nan s, y => (.nan false, if s || y.isSNaN then fNV else 0)
  | .inf _, .nan s => (.nan false, if s then fNV else 0)
  | .inf a, .inf b => if a = b then (.inf a, 0) else (.nan false, fNV)
  | .inf a, .fin _ _ _ => (.inf a, 0)
  | .fin _ _ _, .nan s => (.nan false, if s then fNV else 0)
  | .fin _ _ _, .inf b => (.inf b, 0)
  | .fin n1 m1 e1, .fin n2 m2 e2 => (addFin mode n1 m1 e1 n2 m2 e2, 0)

/-- Exact multiplication with its invalid case (R311). -/
def mulV : FVal → FVal → FVal × FFlags
  | .nan s, y => (.nan false, if s || y.isSNaN then fNV else 0)
  | .inf _, .nan s => (.nan false, if s then fNV else 0)
  | .inf a, .inf b => (.inf (a != b), 0)
  | .inf a, .fin b m _ => if m = 0 then (.nan false, fNV) else (.inf (a != b), 0)
  | .fin _ _ _, .nan s => (.nan false, if s then fNV else 0)
  | .fin a m _, .inf b => if m = 0 then (.nan false, fNV) else (.inf (a != b), 0)
  | .fin n1 m1 e1, .fin n2 m2 e2 => (.fin (n1 != n2) (m1 * m2) (e1 + e2), 0)

/-- An operation's exact value rounded to a format, flags joined. -/
def Fmt.finish (f : Fmt) (mode : BitVec 2) (r : FVal × FFlags) : Nat × FFlags :=
  let p := f.pack mode r.1
  (p.1, p.2 ||| r.2)

def Fmt.add (f : Fmt) (mode : BitVec 2) (a b : Nat) : Nat × FFlags :=
  f.finish mode (addV mode (f.unpack true a) (f.unpack true b))

def Fmt.sub (f : Fmt) (mode : BitVec 2) (a b : Nat) : Nat × FFlags :=
  f.finish mode (addV mode (f.unpack true a) (f.unpack true b).negate)

def Fmt.mul (f : Fmt) (mode : BitVec 2) (a b : Nat) : Nat × FFlags :=
  f.finish mode (mulV (f.unpack true a) (f.unpack true b))

/-- a × b + c, rounded once; 0 × ∞ is invalid whatever c holds (R311). -/
def Fmt.fma (f : Fmt) (mode : BitVec 2) (a b c : Nat) : Nat × FFlags :=
  let p := mulV (f.unpack true a) (f.unpack true b)
  let q := addV mode p.1 (f.unpack true c)
  f.finish mode (q.1, p.2 ||| q.2)

def w32 (r : Nat × FFlags) : Word × FFlags := (BitVec.ofNat 32 r.1, r.2)

/-- FADD, FSUB, FMUL and FFMA (R311). -/
def fAdd (mode : BitVec 2) (a b : Word) : Word × FFlags := w32 (fp32.add mode a.toNat b.toNat)
def fSub (mode : BitVec 2) (a b : Word) : Word × FFlags := w32 (fp32.sub mode a.toNat b.toNat)
def fMul (mode : BitVec 2) (a b : Word) : Word × FFlags := w32 (fp32.mul mode a.toNat b.toNat)
def fFma (mode : BitVec 2) (a b c : Word) : Word × FFlags := w32 (fp32.fma mode a.toNat b.toNat c.toNat)

/-- The order of two values that are not NaN; −0 equals +0. -/
def cmpV : FVal → FVal → Ordering
  | .inf a, .inf b => if a = b then .eq else if a then .lt else .gt
  | .inf a, _ => if a then .lt else .gt
  | _, .inf b => if b then .gt else .lt
  | .fin n1 m1 e1, .fin n2 m2 e2 =>
    let g := min e1 e2
    compare (onGrid n1 m1 e1 g) (onGrid n2 m2 e2 g)
  | .nan _, _ => .eq
  | _, .nan _ => .eq

/-- minimumNumber and maximumNumber (R311): −0 orders below +0; a NaN yields the other operand. -/
def fMinMax (isMax : Bool) (a b : Word) : Word × FFlags :=
  let x := un32 a
  let y := un32 b
  let fl : FFlags := if x.isSNaN || y.isSNaN then fNV else 0
  if x.isNaN && y.isNaN then (0x7FC00000, fl)
  else if x.isNaN then (b, fl)
  else if y.isNaN then (a, fl)
  else
    let less := match cmpV x y with
      | .lt => true
      | .gt => false
      | .eq => a.getLsbD 31 && !b.getLsbD 31
    (if less != isMax then a else b, fl)

/-- FSETP conditions by SUB (R261, R312). -/
def fSetp (cc : BitVec 3) (a b : Word) : Bool × FFlags :=
  let x := un32 a
  let y := un32 b
  let fl : FFlags := if x.isSNaN || y.isSNaN then fNV else 0
  let n := x.isNaN || y.isNaN
  let o := cmpV x y
  let r := match cc.toNat with
    | 0 => !n && o == .eq
    | 1 => n || o != .eq
    | 2 => !n && o == .lt
    | 3 => !n && o != .gt
    | 4 => !n && o == .gt
    | 5 => !n && o != .lt
    | 6 => !n
    | _ => n
  (r, fl)

/-- FSCL: a × 2^n, rounded once (R311). An exponent beyond ±1,000 rounds as ±1,000 does in FP32. -/
def fScl (mode : BitVec 2) (a : Word) (n : Int) : Word × FFlags :=
  match un32 a with
  | .nan s => (0x7FC00000, if s then fNV else 0)
  | .inf _ => (a, 0)
  | .fin neg m e => if m = 0 then (a, 0) else w32 (fp32.round mode neg m (e + max (-1000) (min 1000 n)) false)

/-- FRND: a rounded to an integral value; NX is never set and a zero keeps its sign (R311). -/
def fRnd (mode : BitVec 2) (a : Word) : Word × FFlags :=
  match un32 a with
  | .nan s => (0x7FC00000, if s then fNV else 0)
  | .inf _ => (a, 0)
  | .fin neg m e =>
    let (n, _) := roundAt mode neg m e 0 false
    if (0 : Int) ≤ e then (a, 0) else w32 (fp32.round 0 neg n 0 false)

/-- FCLASS (R313). -/
def fClass (a : Word) : Word :=
  let neg := a.getLsbD 31
  let sub := bits a.toNat 30 23 == 0
  match un32 a with
  | .nan s => if s then 0x100 else 0x200
  | .inf n => if n then 0x001 else 0x080
  | .fin _ m _ =>
    if m = 0 then (if neg then 0x008 else 0x010)
    else if sub then (if neg then 0x004 else 0x020)
    else (if neg then 0x002 else 0x040)

/-- The integer square root by its bits from `2^k` down. -/
def isqrtAux : Nat → Nat → Nat → Nat
  | 0, _, r => r
  | k + 1, x, r =>
    let c := r + 2 ^ k
    isqrtAux k x (if c * c ≤ x then c else r)

def isqrt (x : Nat) : Nat := isqrtAux ((bitLen x + 1) / 2 + 1) x 0

/-- FRCP (R315): 1/x with 60 quotient bits and a sticky remainder. -/
def fRcp (mode : BitVec 2) (a : Word) : Word × FFlags :=
  match un32 a with
  | .nan s => (0x7FC00000, if s then fNV else 0)
  | .inf n => (if n then 0x80000000 else 0, 0)
  | .fin n m e =>
    if m = 0 then (if n then 0xFF800000 else 0x7F800000, fDZ)
    else
      let k := 60 + bitLen m
      w32 (fp32.round mode n (2 ^ k / m) (-e - k) (2 ^ k % m ≠ 0))

/-- FSQRT (R315). -/
def fSqrt (mode : BitVec 2) (a : Word) : Word × FFlags :=
  match un32 a with
  | .nan s => (0x7FC00000, if s then fNV else 0)
  | .inf n => if n then (0x7FC00000, fNV) else (a, 0)
  | .fin n m e =>
    if m = 0 then (a, 0)
    else if n then (0x7FC00000, fNV)
    else
      let odd := e % 2 = 1
      let m2 := (if odd then 2 * m else m) <<< 64
      let e2 := (if odd then e - 1 else e) - 64
      let r := isqrt m2
      w32 (fp32.round mode false r (e2 / 2) (r * r ≠ m2))

/-- FRSQ (R315): floor(sqrt(2^k / m)) with a sticky remainder, k even and large. -/
def fRsq (mode : BitVec 2) (a : Word) : Word × FFlags :=
  match un32 a with
  | .nan s => (0x7FC00000, if s then fNV else 0)
  | .inf n => if n then (0x7FC00000, fNV) else (0, 0)
  | .fin n m e =>
    if m = 0 then (if n then 0xFF800000 else 0x7F800000, fDZ)
    else if n then (0x7FC00000, fNV)
    else
      let odd := e % 2 = 1
      let m2 := if odd then 2 * m else m
      let e2 := if odd then e - 1 else e
      let k := 128
      let r := isqrt (2 ^ k / m2)
      w32 (fp32.round mode false r (-(e2 / 2) - 64) (r * r * m2 ≠ 2 ^ k))

/-- ln 2 and 2π to 256 fraction bits. -/
def ln2Fix : Nat := 0xb17217f7d1cf79abc9e3b39803f2f6af40f343267298b62d8a0d175b8baafa2b
def twoPiFix : Nat := 0x6487ed5110b4611a62633145c06e0e68948127044533e63a0105df531d89cd912

/-- Σ y^i / i! from the running term, `y` and the sum with 256 fraction bits. -/
def expSeries : Nat → Nat → Nat → Nat → Nat → Nat
  | 0, _, _, _, acc => acc
  | fuel + 1, i, y, term, acc =>
    let t := (term * y) >>> 256 / (i + 1)
    if t = 0 then acc else expSeries fuel (i + 1) y t (acc + t)

/-- 2^f for f = num / 2^256 in [0, 1), with 256 fraction bits. -/
def exp2Fix (num : Nat) : Nat := expSeries 80 0 ((num * ln2Fix) >>> 256) (2 ^ 256) (2 ^ 256)

/-- FEXP2 (R315): correctly rounded 2^x. An argument nearer 0 than 2^-30 gives a value that rounds to 1. -/
def fExp2 (a : Word) : Word × FFlags :=
  match un32 a with
  | .nan s => (0x7FC00000, if s then fNV else 0)
  | .inf n => (if n then 0 else 0x7F800000, 0)
  | .fin neg m e =>
    if m = 0 then (0x3F800000, 0)
    else
      let top := e + bitLen m
      if 10 < top then
        if neg then w32 (fp32.round 0 false 1 (-1000) true) else w32 (fp32.round 0 false 1 1000 true)
      else if top < -30 then (0x3F800000, fNX)
      else
        let g := min e 0
        let z := onGrid neg m e g
        let d : Int := (2 ^ (-g).toNat : Nat)
        let ip := z / d
        let fr := (z % d).toNat
        if fr = 0 then w32 (fp32.round 0 false 1 ip false)
        else w32 (fp32.round 0 false (exp2Fix (fr <<< (256 - (-g).toNat))) (ip - 256) true)

/-- log2 z for z = 2^-255 · num in [1, 2): `k` bits by repeated squaring, highest first. -/
def log2Bits : Nat → Nat → Nat → Nat
  | 0, _, acc => acc
  | k + 1, z, acc =>
    let q := (z * z) >>> 255
    if 2 ^ 256 ≤ q then log2Bits k (q / 2) (2 * acc + 1) else log2Bits k q (2 * acc)

/-- FP32 codes in value order, as integers. -/
def ordOf (x : Word) : Int := if x.getLsbD 31 then -(bits x.toNat 30 0 : Int) else (bits x.toNat 30 0 : Int)

def ofOrd (i : Int) : Word := BitVec.ofNat 32 (if i < 0 then 2 ^ 31 + i.natAbs else i.natAbs)

/-- A finite FP32 value as an integer multiple of 2^-256, with the bits below dropped. -/
def fix256 : FVal → Int
  | .fin neg m e => if (-256 : Int) ≤ e then onGrid neg m e (-256) else 0
  | .nan _ => 0
  | .inf _ => 0

/-- The result that the part returns: the base result displaced by a free number of codes where that stays within the
bound, else the base result (R316, log entry 5). -/
def boundedPick (k : Nat) (x base : Word) (exact bound : Int) : Word :=
  let cand := ofOrd (ordOf base + Config.approx k x)
  match un32 cand with
  | .fin n m e => if (fix256 (.fin n m e) - exact).natAbs ≤ bound.natAbs then cand else base
  | .nan _ => base
  | .inf _ => base

/-- The fixed-point value z·2^-256 rounded to FP32 with a sticky remainder. -/
def roundFix (z : Int) : Word × FFlags := w32 (fp32.round 0 (decide (z < 0)) z.natAbs (-256) true)

/-- One ulp of an exact value z·2^-256 of magnitude 1 or more: the distance of the FP32 numbers of its binade, in units of
2^-256. -/
def ulpFix (z : Int) : Int := (2 ^ (bitLen z.natAbs - 24) : Nat)

def inexactFlags (x : Word) : FFlags := fNX ||| (if bits x.toNat 30 23 = 0 ∧ bits x.toNat 22 0 ≠ 0 then fUF else 0)

/-- FLOG2 (R316). -/
def fLog2 (a : Word) : Word × FFlags :=
  match un32 a with
  | .nan s => (0x7FC00000, if s then fNV else 0)
  | .inf n => if n then (0x7FC00000, fNV) else (0x7F800000, 0)
  | .fin n m e =>
    if m = 0 then (0xFF800000, fDZ)
    else if n then (0x7FC00000, fNV)
    else
      let l := bitLen m
      let ip := e + l - 1
      if m = 2 ^ (l - 1) then (if ip = 0 then 0 else (w32 (fp32.round 0 (decide (ip < 0)) ip.natAbs 0 false)).1, 0)
      else
        let frac := log2Bits 200 (m <<< (256 - l)) 0
        let z : Int := ip * (2 ^ 256 : Nat) + (frac <<< 56 : Nat)
        let base := (roundFix z).1
        let near := decide ((-1 : Int) ≤ ip ∧ ip ≤ 0)
        -- z lies less than 2^-200 below the exact result
        let r := boundedPick 0 a base z ((if near then ((2 ^ 233 : Nat) : Int) else ulpFix z) - ((2 ^ 56 : Nat) : Int))
        (r, inexactFlags r)

/-- The Taylor sum of sine (`odd`) or cosine for a small angle with 256 fraction bits. -/
def trigSeries : Nat → Nat → Int → Int → Int → Int
  | 0, _, _, _, acc => acc
  | fuel + 1, i, y2, term, acc =>
    let t := -(term * y2 / (2 ^ 256 : Nat)) / ((i + 1) * (i + 2) : Nat)
    if t = 0 then acc else trigSeries fuel (i + 2) y2 t (acc + t)

/-- sin or cos of 2π·num/2^256, num in [-1/2, 1/2]. -/
def trigFix (isCos : Bool) (num : Int) : Int :=
  let y := num * (twoPiFix : Int) / (2 ^ 256 : Nat)
  let y2 := y * y / (2 ^ 256 : Nat)
  if isCos then trigSeries 60 0 y2 (2 ^ 256 : Nat) (2 ^ 256 : Nat) else trigSeries 60 1 y2 y y

/-- FSIN and FCOS of x turns (R316): the argument is reduced exactly, multiples of a quarter turn are exact. -/
def fTrig (isCos : Bool) (a : Word) : Word × FFlags :=
  match un32 a with
  | .nan s => (0x7FC00000, if s then fNV else 0)
  | .inf _ => (0x7FC00000, fNV)
  | .fin neg m e =>
    if m = 0 then (if isCos then 0x3F800000 else a, 0)
    else
      -- x in units of 2^g, g at most −2; one turn is 2^-g of them
      let g := min e (-2)
      let z := onGrid neg m e g
      let turn : Int := (2 ^ (-g).toNat : Nat)
      let r := z % turn
      if (4 * r) % turn = 0 then
        let q := ((4 * r) / turn).toNat
        let v : Word := match (if isCos then (q + 1) % 4 else q) with
          | 0 => 0
          | 1 => 0x3F800000
          | 2 => 0
          | _ => 0xBF800000
        (v, 0)
      else
        let rc := if turn < 2 * r then r - turn else r
        let num := if (-256 : Int) ≤ g then rc * (2 ^ (256 + g).toNat : Nat) else rc / (2 ^ (-256 - g).toNat : Nat)
        let y := trigFix isCos num
        let base := (roundFix y).1
        let v := boundedPick (if isCos then 2 else 1) a base y (2 ^ 234 : Nat)
        (v, inexactFlags v)

/-- A value rounded to an integer: the integer and whether it is inexact. -/
def toIntRound (mode : BitVec 2) (neg : Bool) (m : Nat) (e : Int) : Int × Bool :=
  let (n, ix) := roundAt mode neg m e 0 false
  (if neg then -(n : Int) else n, ix)

def ofInt (z : Int) : FVal := .fin (decide (z < 0)) z.natAbs 0

/-- The union of flags. -/
def joinFlags (l : List FFlags) : FFlags := l.foldl (· ||| ·) 0

end Sys2Proof.Machine
end

