-- ==== Sys2Proof/Machine/Flags.lean ====
section
/-!
DEFINITION. The sticky FLAGS of a team and the traps that FPTRAP enables (R217, R218).
-/
namespace Sys2Proof.Machine

/-- For each flag in the order NV, DZ, OF, UF, NX, IOV: the lowest lane that raised it (R218). -/
abbrev Raised := List (Option Nat)

def Raised.none : Raised := List.replicate 6 Option.none

def lowerOf : Option Nat → Option Nat → Option Nat
  | some a, some b => some (min a b)
  | some a, Option.none => some a
  | Option.none, b => b

/-- Add the flags that a lane raised. -/
def Raised.add (r : Raised) (lane : Nat) (f : FFlags) : Raised :=
  if f = 0 then r else mapAt (fun i x => if f.getLsbD i then lowerOf x (some lane) else x) 0 r

def Raised.join (r q : Raised) : Raised := List.zipWith lowerOf r q

/-- The union of the exceptions. -/
def Raised.flags (r : Raised) : FFlags := BitVec.ofNat 6 (maskOfList (r.map Option.isSome))

/-- The flags that the lanes of a mask raised; `row` holds one entry per lane. -/
def raisedIn (m : LaneMask) : Nat → List FFlags → Raised
  | _, [] => Raised.none
  | l, f :: fs =>
    let r := raisedIn m (l + 1) fs
    if m.getLsbD l then r.add l f else r

/-- The causes 0x58 + i of the enabled exceptions, lowest code first (R218). -/
def Raised.causes (fptrap : Nat) (r : Raised) : List Cause :=
  (List.range 5).filterMap fun i =>
    match r[i]? with
    | some (some lane) =>
      if bit fptrap i then some { code := 0x58 + i, info := 0, lane := lane, handle := 0, next := false } else Option.none
    | some Option.none => Option.none
    | Option.none => Option.none

/-- FLAGS takes the union (R217). -/
def Team.raise (t : Team) (r : Raised) : Team := { t with flags := t.flags ||| r.flags }

def Cause.simple (code info : Nat) : Cause := { code := code, info := info, lane := 0, handle := 0, next := false }

/-- The cause with the lowest code (R298). -/
def lowestCause : List Cause → Option Cause
  | [] => none
  | c :: cs =>
    match lowestCause cs with
    | some d => if d.code < c.code then some d else some c
    | none => some c

/-- SINGLE_STEP is raised by an instruction that completes with STEP set before and after it, outside a trap (R298). -/
def stepCause (t0 t1 : Team) : List Cause :=
  if t0.dbg.getLsbD 0 ∧ t1.dbg.getLsbD 0 ∧ ¬ t0.inTrap ∧ ¬ t1.inTrap then [Cause.simple 0x0D 0] else []

end Sys2Proof.Machine
end

