-- ==== Sys2Proof/Machine/Tree.lean ====
section
/-!
DEFINITION. The fixed combining tree of REDX, SCAN and the BARR payload (R302).
-/
namespace Sys2Proof.Machine

/-- The combine operations by SUB (R302). -/
def combineW (op : Nat) (x y : Word) : Word × FFlags :=
  match op with
  | 0 => (x + y, 0)
  | 1 => (if x.toInt ≤ y.toInt then x else y, 0)
  | 2 => (if x.toInt ≤ y.toInt then y else x, 0)
  | 3 => (x &&& y, 0)
  | 4 => (x ||| y, 0)
  | 5 => (x ^^^ y, 0)
  | _ => fAdd 0 x y

/-- The identities (R302). -/
def combineId (op : Nat) : Word :=
  match op with
  | 0 => 0
  | 1 => 0x7FFFFFFF
  | 2 => 0x80000000
  | 3 => 0xFFFFFFFF
  | 4 => 0
  | 5 => 0
  | _ => 0x80000000

/-- A node: its value, the lowest selected lane among its leaves, and for each exception the lowest selected lane among the
leaves of the combines below it that raised the exception. -/
structure TNode where
  val : Word
  low : Option Nat
  exc : Raised
  deriving DecidableEq, Repr

def TNode.ident (op : Nat) : TNode := { val := combineId op, low := none, exc := Raised.none }

def TNode.leaf (lane : Nat) (x : Word) : TNode := { val := x, low := some lane, exc := Raised.none }

def TNode.combine (op : Nat) (a b : TNode) : TNode :=
  let r := combineW op a.val b.val
  let low := lowerOf a.low b.low
  { val := r.1, low := low, exc := (a.exc.join b.exc).add (low.getD 0) r.2 }

/-- One level: neighbours combined. Nodes past the end are identities, whose combine with an identity is the identity. -/
def pairUp (op : Nat) : List TNode → List TNode
  | [] => []
  | [a] => [a.combine op (TNode.ident op)]
  | a :: b :: r => a.combine op b :: pairUp op r

/-- The levels of the tree from level 0 (R302). -/
def treeLevels (op : Nat) : Nat → List TNode → List (List TNode)
  | 0, l => [l]
  | k + 1, l => l :: treeLevels op k (pairUp op l)

/-- node(k, 0) of `k` levels. -/
def treeRoot (op k : Nat) (l : List TNode) : TNode := (((treeLevels op k l)[k]?).bind (·.head?)).getD (TNode.ident op)

/-- The leaves of a row over a selection. -/
def treeLeaves (op : Nat) (m : LaneMask) (row : List Word) : List TNode :=
  mapAt (fun l x => if m.getLsbD l then TNode.leaf l x else TNode.ident op) 0 row

/-- prefix(n) from level `k` down, with `base` lanes combined (R302). -/
def treePrefix (op : Nat) (levels : List (List TNode)) (n : Nat) : Nat → Nat → TNode → TNode
  | 0, base, acc =>
    if 1 ≤ n - base then acc.combine op (((levels[0]?).bind (·[base]?)).getD (TNode.ident op)) else acc
  | k + 1, base, acc =>
    if 2 ^ (k + 1) ≤ n - base then
      treePrefix op levels n k (base + 2 ^ (k + 1))
        (acc.combine op (((levels[k + 1]?).bind (·[base / 2 ^ (k + 1)]?)).getD (TNode.ident op)))
    else treePrefix op levels n k base acc

/-- REDX: node(10, 0) over the selection (R303). -/
def reduceRow (op : Nat) (m : LaneMask) (row : List Word) : TNode := treeRoot op 10 (treeLeaves op m row)

/-- SCAN: the node of each lane of a row; `excl` leaves the lane itself out (R304). -/
def scanRow (op : Nat) (excl : Bool) (m : LaneMask) (row : List Word) : List TNode :=
  let levels := treeLevels op 10 (treeLeaves op m row)
  (List.range row.length).map fun l => treePrefix op levels (if excl then l else l + 1) 10 0 (TNode.ident op)

/-- The cross-team tree of 32 leaves (R307). -/
def teamTree (op : Nat) (l : List TNode) : TNode := treeRoot op 5 l

end Sys2Proof.Machine
end

