-- ==== Sys2Proof/Machine/Barrier.lean ====
section
/-!
DEFINITION. Barrier instances (R305-R307): arrival, the required sum of launched lanes, the payload result, and departure of
every arrived team.
-/
namespace Sys2Proof.Machine

/-- Neighbourhood position of a rank (R90). -/
def LaunchRec.cx (p : LaunchRec) (rank : Nat) : Nat := rank / p.t % p.w
def LaunchRec.cy (p : LaunchRec) (rank : Nat) : Nat := rank / p.t / p.w

/-- Teams of a neighbourhood. -/
def LaunchRec.teams (p : LaunchRec) : Nat := p.w * p.h * p.t

/-- The ranks of a span, ascending (R91). -/
def LaunchRec.spanRanks (p : LaunchRec) (ox oy sw sh : Nat) : List Nat :=
  (List.range p.teams).filter fun r =>
    decide (ox ≤ p.cx r) && decide (p.cx r < ox + sw) && decide (oy ≤ p.cy r) && decide (p.cy r < oy + sh)

/-- A sub-rectangle that is a span (R91). -/
def LaunchRec.isSpan (p : LaunchRec) (ox oy sw sh : Nat) : Bool :=
  decide (sw ≤ p.w) && decide (sh ≤ p.h) && decide (ox + sw ≤ p.w) && decide (oy + sh ≤ p.h)

/-- The span rectangle of X1 for a rank: origin and size, or none for BARRIER_SHAPE (R305). -/
def LaunchRec.spanOf (p : LaunchRec) (rank : Nat) (x1 : Byte) : Option (Nat × Nat × Nat × Nat) :=
  let k := x1.extractLsb' 6 2
  if k = 3 then
    if x1.extractLsb' 0 6 = 0 then some (0, 0, p.w, p.h) else none
  else if k = 0 then
    let sw := 2 ^ (x1.extractLsb' 0 3).toNat
    let sh := 2 ^ (x1.extractLsb' 3 3).toNat
    let ox := p.cx rank / sw * sw
    let oy := p.cy rank / sh * sh
    if p.isSpan ox oy sw sh then some (ox, oy, sw, sh) else none
  else none

/-- Launched lanes of a rank of a neighbourhood, resident or saved; a retired team has none (R306). -/
def State.lanesOfRank (s : State) (nb : Nb) (p : LaunchRec) (rank : Nat) : Nat :=
  match s.rankTeam? nb.id rank with
  | some t => popMask t.lanes t.launched
  | none =>
    match nb.saved.find? fun v => v.rank == rank with
    | some v => v.lanes
    | none => if nb.retired.contains rank then 0 else p.lanes

/-- The instance is complete when the arrivals' lanes equal the launched lanes of the span's teams (R306). -/
def State.barrierComplete (s : State) (nb : Nb) (p : LaunchRec) (b : Barrier) : Bool :=
  decide ((b.arrivals.map (·.lanes)).sum = ((p.spanRanks b.ox b.oy b.sw b.sh).map (s.lanesOfRank nb p)).sum)

/-- The root of the payload tree and its exceptions (R307); every arrival of an instance has one SUB (R308). -/
def barrierResult (p : LaunchRec) (b : Barrier) : Word × BitVec 6 :=
  let op := ((b.arrivals.head?).map (·.sub)).getD 7
  if op = 7 then (0, 0)
  else
    let leaf (r : Nat) : TNode :=
      match b.arrivals.find? fun a => a.rank == r with
      | some a => TNode.leaf r a.payload
      | none => TNode.ident op
    let n := teamTree op ((p.spanRanks b.ox b.oy b.sw b.sh).map leaf)
    (n.val, n.exc.flags)

/-- Departure of one arrived team (R306, R302): Sd, FLAGS, the acquire, and the next instruction; an enabled exception is
taken before that instruction. -/
def State.depart (s : State) (t : Team) (a : Arrival) (d : Spec) (res : Word × BitVec 6) : State :=
  let t1 := if a.sub = 7 then t else t.writeS d res.1
  let cross : Raised := (List.range 6).map fun i => if res.2.getLsbD i then some 0 else none
  let own := a.causes.map (·.code)
  let cs := a.causes ++ (cross.causes t.prm.fptrap).filter fun c => !own.contains c.code
  let t2 : Team :=
    { t1 with flags := t1.flags ||| a.exc ||| (if a.sub = 7 then 0 else res.2), status := .running, pc := t1.pc + 12,
              port := none, runLen := 0 }
  let due := (lowestCause ((if a.sub = 7 then [] else cs) ++ stepCause t t2)).map fun c => (c, t.pc)
  (s.setTeam { t2 with due := due }).selfInvalidate t.core t.part

/-- Departure of every resident team that has arrived; the instance ends when all have departed. -/
def State.departAll (s : State) (nb : Nat) (b : Barrier) (res : Word × BitVec 6) : State :=
  let go (acc : State × List Nat) (a : Arrival) : State × List Nat :=
    match acc.1.rankTeam? nb a.rank with
    | none => acc
    | some t =>
      match t.status with
      | .waitBarrier ox oy sw sh n d _ =>
        if (ox, oy, sw, sh, n) = (b.ox, b.oy, b.sw, b.sh, b.n) then (acc.1.depart t a d res, a.rank :: acc.2) else acc
      | _ => acc
  let r := b.arrivals.foldl go (s, b.departed)
  let same (x : Barrier) : Bool := decide ((x.ox, x.oy, x.sw, x.sh, x.n) = (b.ox, b.oy, b.sw, b.sh, b.n))
  let update (l : List Barrier) : List Barrier :=
    if b.arrivals.all fun a => r.2.contains a.rank then l.filter fun x => !same x
    else l.map fun x => if same x then { x with result := some res, departed := r.2 } else x
  r.1.mapNb nb fun n => { n with barriers := update n.barriers }

/-- Complete every instance of a neighbourhood whose count has been reached (R306). -/
def State.completeBarriers (s : State) (nbId : Nat) : State :=
  match s.nb? nbId with
  | none => s
  | some nb =>
    match s.launch? nb.launch with
    | none => s
    | some l =>
      nb.barriers.foldl (fun s b =>
        match b.result with
        | some r => s.departAll nbId b r
        | none =>
          if s.barrierComplete nb l.prm b then s.departAll nbId b (barrierResult l.prm b) else s) s

/-- Arrival of a team at its next instance of a rectangle (R306): the count of its BARRs on the rectangle goes up, the
instance gains the arrival, and the team waits. -/
def State.arrive (s : State) (t : Team) (rect : Nat × Nat × Nat × Nat) (span : Byte) (d : Spec) (sub : Nat) (a : Arrival) :
    State :=
  let (ox, oy, sw, sh) := rect
  let key (e : Nat × Nat × Nat × Nat × Nat) : Bool := decide ((e.1, e.2.1, e.2.2.1, e.2.2.2.1) = (ox, oy, sw, sh))
  let n := ((t.barrs.find? key).map (·.2.2.2.2)).getD 0
  let t1 : Team :=
    { t with barrs := (ox, oy, sw, sh, n + 1) :: t.barrs.filter fun e => !key e,
             status := .waitBarrier ox oy sw sh n d sub }
  let same (x : Barrier) : Bool := decide ((x.ox, x.oy, x.sw, x.sh, x.n) = (ox, oy, sw, sh, n))
  let add (nb : Nb) : Nb :=
    if (nb.barriers.any same) then
      { nb with barriers := nb.barriers.map fun x => if same x then { x with arrivals := x.arrivals ++ [a] } else x }
    else
      { nb with barriers := nb.barriers ++
          [{ ox := ox, oy := oy, sw := sw, sh := sh, n := n, span := span, arrivals := [a], result := none, departed := [] }] }
  ((s.setTeam t1).mapNb t.nb add).completeBarriers t.nb

end Sys2Proof.Machine
end

