-- ==== Sys2Proof/Machine/Ops.lean ====
section
/-!
DEFINITION. The named operations shared by the meanings of team instructions: settling the reconvergence stack (R107), lanes
leaving (R110), TAKING A TRAP and halting (R168, R169) and the return through RET and R107, parking in the wait table (R170),
and the frame in which every team instruction executes: ILL_REGISTER, the scoreboard, UNIFORM_PARTIAL, guard and empty mask,
the effect, the causes taken after completion, and the end of the run (R94-R99, R112, R167).
-/
namespace Sys2Proof.Machine

/-- The outcome type of a meaning. -/
abbrev Out := Host.Outcome State Fault Refusal

/-- The entries of a stack with whether each is hidden, top first: a DEFER entry, itself hidden or not, hides the SEG
entries directly below it (R102). -/
def markHidden : Nat → List StackEntry → List (Bool × StackEntry)
  | _, [] => []
  | skip, e :: es =>
    (decide (0 < skip), e) :: markHidden (max (skip - 1) (if e.kind = .defer then e.seg else 0)) es

/-- The position and entry of the topmost visible entry of a kind. -/
def topVisible (kind : EntryKind) (st : List StackEntry) : Option (Nat × StackEntry) :=
  ((mapAt (fun i p => (i, p)) 0 (markHidden 0 st)).find? fun x => !x.2.1 && decide (x.2.2.kind = kind)).map
    fun x => (x.1, x.2.2)

def hasVisibleDefer (st : List StackEntry) : Bool := (topVisible .defer st).isSome

/-- BBC is 0 whenever no visible DEFER entry remains (R109). -/
def Team.fixBbc (t : Team) : Team := if hasVisibleDefer t.stack then t else { t with bbc := 0 }

/-- Bytes of a stack entry in the spill area (R101). -/
def entryBytes (lanes : Nat) : Nat := alignUp (16 + lanes / 4) 16

/-- The depth limit D (R101). -/
def depthLimit (lanes : Nat) : Nat := min 256 (16 + 8192 / entryBytes lanes)

def callCount (st : List StackEntry) : Nat := (st.filter fun e => decide (e.kind = .call)).length

def EntryKind.code : EntryKind → Nat
  | .defer => 1 | .join => 2 | .loop => 3 | .call => 4

/-- INFO in form S (R165): depth, and the kind and PC of the top visible entry. The top entry is never hidden. -/
def Team.infoS (t : Team) : Nat :=
  t.stack.length + match t.stack with
    | [] => 0
    | e :: _ => e.kind.code * 2 ^ 9 + e.pc.toNat * 2 ^ 32

/-- INFO in form W (R165). -/
def infoW (w0 : Word) (idx bitPos : Nat) : Nat := w0.toNat + idx * 2 ^ 32 + bitPos * 2 ^ 34

/-- Popping or dropping the CALL entry of a trap clears INTRAP (R168). -/
def Team.popped (t : Team) (e : StackEntry) (rest : List StackEntry) : Team :=
  { t with stack := rest, inTrap := t.inTrap && !e.trapCall }

/-- Settling the stack (R107). `fuel` bounds the entries dropped. False: lanes are stranded. -/
def settle : Nat → Team → Team × Bool
  | 0, t => (t, true)
  | fuel + 1, t =>
    match t.stack with
    | [] => if t.active ≠ 0 then (t, true) else (t, t.launched = 0)
    | e :: rest =>
      if e.m = 0 ∧ (e.kind ≠ .loop ∨ e.k = 0) then settle fuel (t.popped e rest)
      else if t.active ≠ 0 then (t, true)
      else match e.kind with
        | .defer => settle fuel { t.popped e rest with active := e.m, pc := e.pc }
        | .join => settle fuel { t.popped e rest with active := e.m, pc := e.pc }
        | .call => settle fuel { t.popped e rest with active := e.m, pc := e.pc }
        | .loop =>
          if e.k ≠ 0 then
            settle fuel { t with active := e.k, pc := e.head, stack := { e with k := 0 } :: rest }
          else (({ t with active := e.m, pc := e.pc } : Team), true)

/-- Settle a team completely. -/
def Team.settled (t : Team) : Team × Bool :=
  let r := settle (2 * t.stack.length + 2) t
  (r.1.fixBbc, r.2)

/-- Lanes leave a team (R110): from the launched mask, A, and M and K of every entry, hidden or not. -/
def Team.dropLanes (t : Team) (x : LaneMask) : Team :=
  { t with
      launched := t.launched &&& ~~~x
      active := t.active &&& ~~~x
      stack := t.stack.map fun e => { e with m := e.m &&& ~~~x, k := e.k &&& ~~~x } }

/-- A record as the batcher holds it (R172, R173). -/
def FaultRec.of (cause kind token handle core slot agent : Nat) (key info : Nat) (pc : Word) (lane : Nat) : FaultRec :=
  { cause := cause, kind := kind, token := token, handle := handle, core := core, slot := slot, agent := agent,
    key := BitVec.ofNat 64 key, info := BitVec.ofNat 64 info, pc := pc, qword := 0, cursor := 0, lane := lane, count := 0, time := 0 }

/-- Hand a record to the partition's batcher with the device time; it is posted when the ring has room (R172, R173). -/
def State.post (s : State) (p : Nat) (r : FaultRec) : State :=
  s.mapPart p fun x => { x with records := x.records ++ [{ r with time := s.devTime }] }

/-- The barriers of the team's neighbourhood after its launched lanes have changed (R110, R306). -/
def State.lanesLeft (s : State) (t : Team) : State :=
  State.completeBarriers (s.mapNb t.nb fun n => { n with barriers := n.barriers.map fun b =>
    { b with arrivals := b.arrivals.map fun a => if a.rank = t.rank then { a with lanes := popMask t.lanes t.launched } else a } }) t.nb

/-- A team with an empty launched mask stops issuing and waits to free its slot (R110). -/
def Team.retiring (t : Team) : Team :=
  if t.launched = 0 then { t with status := .retiring, port := none, runLen := 0, active := 0, stack := [] } else t

/-- Whether INFO of a cause is in form A or K, so that it is also the record's key or offset (R166, R173). -/
def infoIsKey (cause : Nat) : Bool :=
  [0x07, 0x20, 0x21, 0x22, 0x23, 0x24, 0x25, 0x26, 0x28, 0x29, 0x2A, 0x2B, 0x2C, 0x2D, 0x2F, 0x30, 0x31, 0x32, 0x33, 0x34].contains
    cause ||
  [0x0E, 0x35, 0x36, 0x38, 0x3D, 0x3E, 0x41, 0x42, 0x44, 0x47, 0x4D].contains cause

/-- The key field of a record (R173). -/
def keyOf (cause info : Nat) : Nat := if infoIsKey cause then info else 0

/-- HALT (R169): the team departs as if every launched lane had exited, limb rules not applying, and one KIND 0 record is
posted. -/
def State.haltTeam (s : State) (t : Team) (c : Cause) (pc : Word) : State :=
  let t1 := (t.dropLanes t.launched).retiring
  ((s.setTeam t1).lanesLeft t1).post t.part
    { FaultRec.of c.code 0 0 c.handle t.core t.slot c.agent (keyOf c.code c.info) c.info pc c.lane with
        cursor := BitVec.ofNat 64 c.cursor }

/-- TRAP.CAUSE (R164). -/
def trapWord (c : Cause) (isAsync : Bool) : DWord :=
  BitVec.ofNat 64 (c.code + c.lane * 2 ^ 8 + b2n isAsync * 2 ^ 19 + c.handle * 2 ^ 32)

/-- TAKING A TRAP (R168): `t` is the team as the instruction leaves it, `pc` the faulting instruction, `ret` the return pc
and `m` the faulting instruction's execution mask where it has one. The trap registers are written, INTRAP is set, CALL is
pushed, A becomes the execution mask and the team continues at TRAPENT; the run ends. Without a trap entry, with INTRAP set,
or where the push would exceed a limit, the team halts (R168, R169). -/
def State.takeTrap (s : State) (t : Team) (c : Cause) (isAsync : Bool) (pc ret : Word) (m : Option LaneMask) : State :=
  if t.prm.trapEnt = 0xFFFFFFFF ∨ t.inTrap ∨ callCount t.stack ≥ 64 ∨ t.stack.length + 1 > depthLimit t.lanes then
    s.haltTeam t c pc
  else
    s.setTeam { t with
      trapCause := trapWord c isAsync
      trapInfo := BitVec.ofNat 64 c.info
      trapPc := pc
      inTrap := true
      stack := { kind := .call, pc := ret, m := t.active, seg := 0, head := 0, k := 0, trapCall := true } :: t.stack
      active := match m with
        | some x => if x = 0 then t.active else x
        | none => t.active
      pc := t.prm.trapEnt
      port := none
      runLen := 0 }

/-- The next token of a partition: they count from 1 and wrap to 1 (R170). -/
def State.token (s : State) (p : Nat) : Nat × State :=
  let n := (s.getPart p).nextToken
  (n, s.mapPart p fun x => { x with nextToken := if n = 2 ^ 32 - 1 then 1 else n + 1 })

/-- The wait-table entry of a partition with a key; entries keyed by token alone are never joined (R170). -/
def Core.waitFor? (c : Core) (part : Nat) (key : Option (Nat × Nat)) : Option WaitEntry :=
  if key.isNone then none else c.waits.find? fun e => e.part == part && decide (e.key = key) && !e.wake

/-- The entries in use: a woken or closed one stays only until its batch is posted (R183). -/
def Core.openWaits (c : Core) : List WaitEntry := c.waits.filter fun e => !e.wake

/-- Open a wait-table entry with one waiter, in the core's open batch (R170, R172). -/
def State.openWait (s : State) (core : Nat) (e : WaitEntry) : State :=
  s.mapCore core fun c => { c with
    waits := c.waits ++ [e], batch := c.batch ++ [e.token],
    batchClk := match c.batchClk with
      | some k => some k
      | none => some s.clk }

/-- The key of a park (R170): handle and page, or the token alone. -/
def parkKeyOf (cause handle page : Nat) : Option (Nat × Nat) := if cause = 0x35 then none else some (handle, page)

/-- Something of a core that waits for a wait-table entry (R176): its partition, its queue, and what it asked for. -/
structure Asker where
  part : Nat
  queue : Nat
  ask : Asking
  deriving DecidableEq, Repr

def Asking.key (a : Asking) : Option (Nat × Nat) := parkKeyOf a.cause a.handle a.page

/-- Requests of a team that are parked in the islands of its core, or withdrawn into its frame (R179). -/
def State.parkedReqs (s : State) (core uid : Nat) : Nat :=
  let c := s.getCore core
  ((c.slotA.queue ++ c.slotB.queue).filter fun r => r.uid == uid && r.parked.isSome).length +
    ((s.nbs.flatMap fun n => n.saved.filter fun v => v.uid == uid).map fun v => v.heldReqs.length).sum

/-- What waits for an entry of a core's table, but for requests whose team has three in its places already (R176, R179).
Queue 0 is the copy queue, 1 and 2 are the slots, 3 is the weight-buffer queue. -/
def State.askers (s : State) (core : Nat) : List Asker :=
  let c := s.getCore core
  let ops (k : Nat) (l : List EngineOp) : List Asker := l.filterMap fun e => e.asking.map fun a => { part := e.part, queue := k, ask := a }
  let reqs (k : Nat) (l : List IslandReq) : List Asker :=
    (l.filter fun r => r.asking.isSome && decide (s.parkedReqs core r.uid < 3)).filterMap fun r =>
      r.asking.map fun a => { part := r.part, queue := k, ask := a }
  ops 0 c.copyQ ++ reqs 1 c.slotA.queue ++ reqs 2 c.slotB.queue ++ ops 3 c.wbQ

/-- The entries that those who asked before `order` will open: one for each of their keys that no entry has (R176). -/
def State.spokenFor (s : State) (core order : Nat) : Nat :=
  let fresh := (s.askers core).filter fun a => decide (a.ask.order < order) && ((s.getCore core).waitFor? a.part a.ask.key).isNone
  (fresh.map fun a => (a.part, a.ask.key, if a.ask.key.isNone then a.ask.order else 0)).eraseDups.length

/-- One more waiter of an entry (R170). -/
def State.joinWait (s : State) (core : Nat) (e : WaitEntry) : State :=
  s.mapCore core fun c => { c with waits := c.waits.map fun x =>
    if x.token = e.token ∧ x.part = e.part then { x with waiters := x.waiters + 1 } else x }

/-- PARKING (R170): an agent joins the entry of its key or opens one, and has the entry's token; none where the table is full
and has no such entry, or where its free entries are for those who asked before `order` (R176). `mk` gives the entry that it
would open, for a token. -/
def State.parkIn (s : State) (core part cause handle page order : Nat) (mk : Option (Nat × Nat) → Nat → WaitEntry) :
    Option (Nat × State) :=
  let key := parkKeyOf cause handle page
  match (s.getCore core).waitFor? part key with
  | some e => some (e.token, s.joinWait core e)
  | none =>
    if 64 ≤ (s.getCore core).openWaits.length + s.spokenFor core order then none
    else
      let (tok, s1) := s.token part
      some (tok, s1.openWait core (mk key tok))

/-- INFO of a park-class cause (R165, R166). -/
def parkInfo (cause handle page : Nat) : Nat := infoK handle (if cause = 0x35 then 0 else page)

/-- A team that parks: it keeps its slot, and its run ends (R170). -/
def Team.stopped (t : Team) (clk : Nat) (st : TeamStatus) (cause : Nat) (key : DWord) (lane : Nat) : Team :=
  { t with status := st, port := none, runLen := 0, parkClk := clk, parkCause := cause, parkKey := key, parkLane := lane }

/-- A team parks with the entry of a request that owes what it reads (R176, R194). -/
def State.parkWith (s : State) (t : Team) (e : WaitEntry) : State :=
  (s.joinWait t.core e).setTeam (t.stopped s.clk (.parked e.token) e.cause e.info e.lane)

/-- PARKING A TEAM (R170): it keeps its slot, and its run ends. With the table full it is to be evicted (R175). -/
def State.parkTeam (s : State) (t : Team) (cause : Nat) (handle page lane : Nat) : State :=
  let info := BitVec.ofNat 64 (parkInfo cause handle page)
  let stop (st : TeamStatus) : Team := t.stopped s.clk st cause info lane
  let mk (key : Option (Nat × Nat)) (tok : Nat) : WaitEntry :=
    { part := t.part, cause := cause, key := key, info := info, token := tok, waiters := 1,
      wake := false, agent := 0, slot := t.slot, pc := t.pc, handle := handle, lane := lane, cursor := 0, posted := false }
  match s.parkIn t.core t.part cause handle page s.nextId mk with
  | some (tok, s1) => s1.setTeam (stop (.parked tok))
  | none =>
    let (tok, s1) := s.token t.part
    s1.setTeam (stop (.evictDue tok))

/-- A completed instruction: the state with the team's registers written, a new pc where the instruction gives one, whether
it ends the run, and the causes that are taken after completion. -/
structure Done where
  s : State
  pc : Option Word
  ends : Bool
  after : List Cause
  /-- SINGLE_STEP is not raised: the SWRITE to DBG (R298, R309) -/
  quiet : Bool := false
  deriving DecidableEq, Repr

/-- What an instruction's body answers. -/
inductive Res where
  | ok (d : Done)
  /-- a cause taken with no effect (R167) -/
  | trap (s : State) (c : Cause)
  /-- a park-class cause (R170) -/
  | park (s : State) (cause handle page lane : Nat)
  /-- a wait for what a parked request owes: the team parks with it (R176, R194) -/
  | join (s : State) (e : WaitEntry)
  /-- not issued: the scoreboard or an ordering precondition holds it (R96, R150) -/
  | stay (s : State)
  /-- the team sleeps or waits at this instruction: its run ends, its pc stays -/
  | sleep (s : State)
  deriving DecidableEq, Repr

/-- The team parks with the request that owes what it reads. -/
def Res.joins (r : Res) : Bool :=
  match r with
  | .join _ _ => true
  | .ok _ => false
  | .trap _ _ => false
  | .park _ _ _ _ _ => false
  | .stay _ => false
  | .sleep _ => false

def Res.done (s : State) : Res := .ok { s := s, pc := none, ends := false, after := [] }

/-- Done with the team updated and nothing else. -/
def Res.team (s : State) (t : Team) : Res := .done (s.setTeam t)

def Res.raise (s : State) (code info : Nat) : Res := .trap s (Cause.simple code info)

/-- The end of an instruction of `words` words with run-boundary bit `b` and execution mask `m`: pc, run length, port, and
the causes taken after completion (R94, R167, R168, R298). -/
def finish (words : Nat) (b : Bool) (m : Option LaneMask) (t0 : Team) : Res → Out
  | .ok d =>
    match d.s.team? t0.uid with
    | none => .next d.s
    | some t1 =>
      if t1.status = .retiring then .next d.s
      else
      let pc := d.pc.getD (t0.pc + BitVec.ofNat 32 (4 * words))
      let ends := b || d.ends
      let t2 := { t1 with pc := pc, runLen := if ends then 0 else t0.runLen + 1, port := if ends then none else t1.port }
      match lowestCause (d.after ++ if d.quiet then [] else stepCause t0 t1) with
      | none => .next (d.s.setTeam t2)
      | some c => .next (d.s.takeTrap t2 c false t0.pc pc m)
  | .trap s c =>
    let t := (s.team? t0.uid).getD t0
    .next (s.takeTrap t c false t0.pc (if c.next then t0.pc + BitVec.ofNat 32 (4 * words) else t0.pc) m)
  | .park s cause handle page lane => .next (s.parkTeam ((s.team? t0.uid).getD t0) cause handle page lane)
  | .join s e => .next (s.parkWith ((s.team? t0.uid).getD t0) e)
  | .stay s => .next s
  | .sleep s => .next (s.mapTeam t0.uid fun t => { t with port := none, runLen := 0 })

/-- The team holds one of the two issue ports of its core (R95). -/
def Team.holdsPort (t : Team) : Bool := t.port == some 0 || t.port == some 1

/-- The team may issue: it is running, holds a port, and its run is shorter than 24 (R94, R95). -/
def Team.canIssue (t : Team) : Bool := decide (t.status = .running) && t.holdsPort && decide (t.runLen < 24)

/-- MODEL: the team is only asked whether the scoreboard would hold its next instruction, as the choice of a run's start asks
(R95): it stands at a port that no core has. -/
def Team.asked (t : Team) : Bool := t.port == some 2

/-- What an asked team answers: it lets go of the port where the scoreboard would hold the instruction (R95, R96). -/
def State.askedTeam (s : State) (t : Team) (us : List RegUse) (part : Bool) (m : Option LaneMask) : State :=
  if t.asked && (t.badReg us).isNone && !(part && t.active != t.launched) && t.hazard (m.getD t.active) us then
    s.setTeam { t with port := none }
  else s

/-- THE FRAME OF A TEAM INSTRUCTION. `f` gives the length, the run-boundary bit and word 0; `us` are its register operands;
`part` says that its destination is uniform or capability class (R99); `m` is its execution or selection mask where it has
one. Order: ILL_REGISTER, UNIFORM_PARTIAL (R167), then the scoreboard, then the body. -/
def State.runTeam (s : State) (f : Fields) (us : List RegUse) (part : Bool) (m : Team → Option LaneMask)
    (body : Team → Res) : Out :=
  match s.team? s.cur with
  | none => .fault .noCurrentTeam
  | some t =>
    if !t.canIssue then .next (s.askedTeam t us part (m t))
    else
      let r : Res :=
        match t.badReg us with
        | some u => .raise s 0x05 (u.spec.toNat + u.pos * 2 ^ 8)
        | none =>
          if part ∧ t.active ≠ t.launched then .raise s 0x10 (infoW f.word0 0 10)
          else if t.hazard ((m t).getD t.active) us then .stay s
          else body t
      finish (f.len.toNat + 1) f.b (m t) t r

/-- A uniform, affine or capability instruction under a Q guard (R240, R272): a false guard leaves no effect. -/
def State.uniformOp (s : State) (f : Fields) (g : Guard) (us : List RegUse) (part : Bool) (body : Team → Res) : Out :=
  s.runTeam f us part (fun _ => none) fun t => if t.guardQ g then body t else .done s

/-- A varying instruction under a P guard: an empty execution mask leaves no effect (R112). -/
def State.varyingOp (s : State) (f : Fields) (g : Guard) (us : List RegUse) (body : Team → LaneMask → Res) : Out :=
  s.runTeam f us false (fun t => some (t.execMask g)) fun t =>
    if t.execMask g = 0 then .done s else body t (t.execMask g)

/-- A team-wide instruction whose guard selects lanes and whose destination is uniform (R281, R300, R303). -/
def State.selectOp (s : State) (f : Fields) (g : Guard) (us : List RegUse) (body : Team → LaneMask → Res) : Out :=
  s.runTeam f us true (fun _ => none) fun t => body t (t.execMask g)

/-- A control instruction: no execution mask and no register operand but those named (R291). -/
def State.controlOp (s : State) (f : Fields) (us : List RegUse) (body : Team → Res) : Out :=
  s.runTeam f us false (fun _ => none) body

end Sys2Proof.Machine
end

