-- ==== Sys2Proof/Machine/Arith.lean ====
section
/-!
DEFINITION. The integer functions shared by the uniform and the varying instructions (R261, R274, R275, R285-R289), and the
shapes of register-only instructions over the frame of Machine/Ops.lean.
-/
namespace Sys2Proof.Machine

/-- INFO in form M: the mask word that holds a lane (R165). -/
def infoM (m : LaneMask) (lane : Nat) : Nat := lane / 32 + (maskWord m (lane / 32)).toNat * 2 ^ 32

/-- shl, shr, sar and rot (R275). -/
def shl (a s : Word) : Word := if 32 ≤ s.toNat then 0 else a <<< s.toNat
def shr (a s : Word) : Word := if 32 ≤ s.toNat then 0 else a >>> s.toNat
def sar (a s : Word) : Word := if 32 ≤ s.toNat then (if a.getLsbD 31 then 0xFFFFFFFF else 0) else a.sshiftRight s.toNat
def rot (a s : Word) : Word := a.rotateLeft (s.toNat % 32)

/-- fld (R275): position and length of a bit-field control. -/
def fld (c : Word) : Nat × Nat :=
  let pos := bits c.toNat 7 0
  (pos, if 32 ≤ pos then 0 else min (bits c.toNat 15 8) (32 - pos))

/-- extract_u, extract_s and insert (R275). -/
def extractU (x c : Word) : Word :=
  let p := fld c
  if p.2 = 0 then 0 else BitVec.ofNat 32 (x.toNat >>> p.1 % 2 ^ p.2)

def extractS (x c : Word) : Word :=
  let p := fld c
  if p.2 = 0 then 0 else BitVec.ofInt 32 (toSigned p.2 (x.toNat >>> p.1 % 2 ^ p.2))

def insertW (x y c : Word) : Word :=
  let p := fld c
  if p.2 = 0 then x
  else
    let mask : Word := BitVec.ofNat 32 ((2 ^ p.2 - 1) * 2 ^ p.1)
    (x &&& ~~~mask) ||| ((y <<< p.1) &&& mask)

def mulLow (a b : Word) : Word := a * b
def mulHighS (a b : Word) : Word := BitVec.ofInt 32 (a.toInt * b.toInt / (2 ^ 32 : Nat))
def mulHighU (a b : Word) : Word := BitVec.ofNat 32 (a.toNat * b.toNat / 2 ^ 32)
def minS (a b : Word) : Word := if a.toInt ≤ b.toInt then a else b
def maxS (a b : Word) : Word := if a.toInt ≤ b.toInt then b else a
def minU (a b : Word) : Word := if a.toNat ≤ b.toNat then a else b
def maxU (a b : Word) : Word := if a.toNat ≤ b.toNat then b else a
def andNot (a b : Word) : Word := a &&& ~~~b

/-- Number of 1 bits. -/
def popc (a : Word) : Word := BitVec.ofNat 32 ((List.range 32).filter fun i => a.getLsbD i).length

/-- Number of leading 0 bits; 32 for 0. -/
def clz (a : Word) : Word := BitVec.ofNat 32 (32 - bitLen a.toNat)

/-- Bit i of the result is bit 31 − i (R285). -/
def brev (a : Word) : Word := BitVec.ofNat 32 (maskOfList ((List.range 32).map fun i => a.getLsbD (31 - i)))

/-- |a| as a signed value, modulo 2^32 (R285). -/
def absW (a : Word) : Word := if a.getLsbD 31 then -a else a

/-- The condition codes of SCMP, ISETP and LCMP (R261). -/
def condW (cc : BitVec 3) (a b : Word) : Bool :=
  match cc.toNat with
  | 0 => a == b
  | 1 => a != b
  | 2 => decide (a.toInt < b.toInt)
  | 3 => decide (a.toInt ≤ b.toInt)
  | 4 => decide (b.toInt < a.toInt)
  | 5 => decide (b.toInt ≤ a.toInt)
  | 6 => decide (a.toNat < b.toNat)
  | _ => decide (a.toNat ≤ b.toNat)

/-- An exact result under MOD (R286): `s` is the exact value with signed operands, `u` with unsigned ones. -/
def ranged (mod : BitVec 2) (s u : Int) : Word :=
  if mod = 1 then BitVec.ofInt 32 (max (-(2 ^ 31 : Nat)) (min (2 ^ 31 - 1 : Nat) s))
  else if mod = 2 then BitVec.ofInt 32 (max 0 (min (2 ^ 32 - 1 : Nat) u))
  else BitVec.ofInt 32 s

/-- The exact signed value leaves the range of a word. -/
def outOfRange (s : Int) : Bool := decide (s < -(2 ^ 31 : Nat)) || decide ((2 ^ 31 : Nat) ≤ s)

/-- INT_OVERFLOW_TRAP of .TRAPV for the lowest lane of the mask whose exact value leaves the range (R286). -/
def trapV (mod : BitVec 2) (m : LaneMask) (exact : List Int) : List Cause :=
  if mod = 3 then
    match (List.range exact.length).find? fun l => m.getLsbD l && outOfRange (exact[l]?.getD 0) with
    | some l => [{ code := 0x5D, info := 0, lane := l, handle := 0, next := false }]
    | none => []
  else []

/-- Byte `i` of a word as an integer, signed or unsigned. -/
def byteInt (uns : Bool) (x : Word) (i : Nat) : Int :=
  let b := (wordByte x i).toNat
  if uns then (b : Int) else toSigned 8 b

/-- IDP4 of one lane (R289). -/
def idp4 (mod : BitVec 2) (a b c : Word) : Word :=
  BitVec.ofInt 32 (c.toInt + ((List.range 4).map fun i =>
    byteInt (mod.getLsbD 0) a i * byteInt (mod.getLsbD 1) b i).sum)

/-- IPRMT of one lane (R289). -/
def iprmt (a b c : Word) : Word :=
  BitVec.ofNat 32 (leNat ((List.range 4).map fun i =>
    let s := bits c.toNat (4 * i + 3) (4 * i)
    let byte := if s % 8 < 4 then wordByte a (s % 8) else wordByte b (s % 8 - 4)
    if bit s 3 then (if byte.getLsbD 7 then 0xFF else 0) else byte))

/-- ISAD of one lane (R289). -/
def isad (uns : Bool) (a b c : Word) : Word :=
  let d := if uns then ((a.toNat : Int) - b.toNat).natAbs else (a.toInt - b.toInt).natAbs
  BitVec.ofNat 32 d + c

/-- A uniform instruction of one source: Sd := op a (R272, R274). -/
def State.uniform1 (s : State) (f : Fields) (g : Guard) (d x : Spec) (op : Word → Word) : Out :=
  s.uniformOp f g [RegUse.dest 0 .s d, RegUse.src 1 .s x] true fun t => .team s (t.writeS d (op (t.readS x)))

/-- A two-address uniform instruction: Sd := op Sd Sy (R236, R272, R274). -/
def State.uniform2a (s : State) (f : Fields) (d y : Spec) (op : Word → Word → Word) : Out :=
  s.uniformOp f .always [RegUse.dest 0 .s d, RegUse.src 1 .s y] true fun t =>
    .team s (t.writeS d (op (t.readS d) (t.readS y)))

/-- A three-address uniform instruction: Sd := op Sx Sy (R272, R274). -/
def State.uniform2 (s : State) (f : Fields) (g : Guard) (d x y : Spec) (op : Word → Word → Word) : Out :=
  s.uniformOp f g [RegUse.dest 0 .s d, RegUse.src 1 .s x, RegUse.src 2 .s y] true fun t =>
    .team s (t.writeS d (op (t.readS x) (t.readS y)))

/-- A uniform predicate instruction: Qd := v (R272, R276). -/
def State.uniformQ (s : State) (f : Fields) (g : Guard) (us : List RegUse) (d : BitVec 3) (v : Team → Bool) : Out :=
  s.uniformOp f g us true fun t => .team s (t.writeQ d (v t))

/-- An affine instruction: Ad := v (R272, R279). -/
def State.affineOp (s : State) (f : Fields) (g : Guard) (us : List RegUse) (d : Spec) (v : Team → Word × Word) : Out :=
  s.uniformOp f g (RegUse.dest 0 .a d :: us) false fun t => .team s (t.writeA d (v t))

/-- A varying instruction that writes a row and raises nothing (R273). -/
def State.varyRow (s : State) (f : Fields) (g : Guard) (us : List RegUse) (d : Spec) (row : Team → List Word) : Out :=
  s.varyingOp f g (RegUse.dest 0 .v d :: us) fun t m => .team s (t.writeV m d (row t))

/-- A varying instruction of one varying source (R285). -/
def State.vary1 (s : State) (f : Fields) (g : Guard) (d x : Spec) (op : Word → Word) : Out :=
  s.varyRow f g [RegUse.src 1 .v x] d fun t => (t.readV x).map op

/-- A varying instruction of one source, of the class that SIG names (R259, R285). -/
def State.vary1Opd (s : State) (f : Fields) (g : Guard) (d : Spec) (x : Opd) (op : Word → Word) : Out :=
  s.varyRow f g (opdUse 1 x) d fun t => (t.readOpd immSext x).map op

/-- A two-address varying instruction (R236, R285). -/
def State.vary2a (s : State) (f : Fields) (d y : Spec) (op : Word → Word → Word) : Out :=
  s.varyRow f .always [RegUse.src 1 .v y, RegUse.src 0 .v d] d fun t => List.zipWith op (t.readV d) (t.readV y)

/-- A varying instruction of two operands of any admitted class (R285); `imm` says how IMM8 is read. -/
def State.vary2 (s : State) (f : Fields) (g : Guard) (d : Spec) (x y : Opd) (imm : Byte → Word) (op : Word → Word → Word) :
    Out :=
  s.varyRow f g (opdUse 1 x ++ opdUse 2 y) d fun t => List.zipWith op (t.readOpd imm x) (t.readOpd imm y)

/-- Three rows lane by lane. -/
def zip3 (op : Word → Word → Word → Word) (a b c : List Word) : List Word :=
  List.zipWith (fun (p : Word × Word) z => op p.1 p.2 z) (List.zipWith Prod.mk a b) c

/-- A varying instruction of three operands (R285). -/
def State.vary3 (s : State) (f : Fields) (g : Guard) (d : Spec) (x y : Opd) (z : Spec) (op : Word → Word → Word → Word) : Out :=
  s.varyRow f g (opdUse 1 x ++ opdUse 2 y ++ [RegUse.src 3 .v z]) d fun t =>
    zip3 op (t.readOpd immSext x) (t.readOpd immSext y) (t.readV z)

/-- A varying instruction whose exact result MOD governs (R286): `s'` and `u` give the exact signed and unsigned values. -/
def State.varyMod (s : State) (f : Fields) (g : Guard) (us : List RegUse) (d : Spec) (mod : BitVec 2)
    (exact : Team → List (Int × Int)) : Out :=
  s.varyingOp f g (RegUse.dest 0 .v d :: us) fun t m =>
    let e := exact t
    .ok { s := s.setTeam (t.writeV m d (e.map fun p => ranged mod p.1 p.2)), pc := none, ends := false,
          after := trapV mod m (e.map (·.1)) }

/-- The exact values of an operation of two words, with the operands signed and unsigned. -/
def exact2 (op : Int → Int → Int) (a b : Word) : Int × Int := (op a.toInt b.toInt, op a.toNat b.toNat)

/-- IADD, ISUB and IMUL with MOD, 64-bit form. -/
def State.varyMod2 (s : State) (f : Fields) (g : Guard) (d : Spec) (x y : Opd) (mod : BitVec 2) (op : Int → Int → Int) : Out :=
  s.varyMod f g (opdUse 1 x ++ opdUse 2 y) d mod fun t => List.zipWith (exact2 op) (t.readOpd immSext x) (t.readOpd immSext y)

/-- A varying instruction that writes a predicate (R273, R288). -/
def State.varyP (s : State) (f : Fields) (g : Guard) (us : List RegUse) (d : BitVec 3) (v : Team → LaneMask) : Out :=
  s.varyingOp f g us fun t m => .team s (t.writeP m d (v t))

end Sys2Proof.Machine
end

