-- ==== Sys2Proof/Machine/Control.lean ====
section
/-!
DEFINITION. Control: branches and the reconvergence stack (R101-R110, R291-R293), NOP and YIELD (R294), TRAP and BKPT (R295),
special registers (R296-R298), and the words that are no instruction (R244).
-/
namespace Sys2Proof.Machine

/-- The target of a displacement of `d` words from offset `pc`, modulo 2^32 (R242, R291). -/
def target (pc : Word) (d : BitVec 22) : Word := pc + (d.signExtend 32 <<< 2)

/-- A control cause with INFO in form S (R165). -/
def Res.raiseS (s : State) (t : Team) (code : Nat) : Res := .raise s code t.infoS

/-- The state after a stack operation: the stack settles (R107); a change of pc ends the run (R94); stranded lanes raise
JOIN_MISMATCH with no effect. -/
def State.afterStack (s : State) (t0 t : Team) : Res :=
  let r := t.settled
  if r.2 then .ok { s := s.setTeam r.1, pc := some r.1.pc, ends := decide (t.active = 0), after := [] }
  else .raiseS s t0 0x14

/-- The K merge at a taken backward branch (R105). -/
def Team.mergeK (t : Team) : Team :=
  match topVisible .loop t.stack with
  | none => t
  | some (i, e) => { t with active := t.active ||| e.k, stack := modifyAt t.stack i fun x => { x with k := 0 } }

/-- Rotation at a taken backward branch with target `x` (R109). -/
def Team.rotate (t : Team) (x : Word) : Team :=
  match topVisible .defer t.stack with
  | none => t
  | some (i, d) =>
    { t with
        stack := { kind := .defer, pc := x, m := t.active, seg := i, head := 0, k := 0, trapCall := false } ::
          (t.stack.take i ++ t.stack.drop (i + 1))
        active := d.m
        pc := d.pc
        bbc := 0
        rot := t.rot + 1 }

/-- A taken branch to `x`: a backward one merges K, counts in BBC while a visible DEFER lies on the stack, and rotates at the
64th (R109, R291). -/
def Team.jump (t : Team) (x : Word) (backward : Bool) : Team :=
  if !backward then { t with pc := x }
  else
    let t1 := { t.mergeK with pc := x }
    if !hasVisibleDefer t1.stack then { t1 with bbc := 0 }
    else if t1.bbc + 1 < 64 then { t1 with bbc := t1.bbc + 1 }
    else t1.rotate x

/-- BRA (R292). -/
def execBra (b : Bool) (disp : BitVec 22) (s : State) : Out :=
  s.controlOp (encBra b disp) [] fun t =>
    let t1 := t.jump (target t.pc disp) (disp.getLsbD 21)
    .ok { s := s.setTeam t1, pc := some t1.pc, ends := true, after := [] }

/-- `n` pushes fit under the depth limit (R101). -/
def Team.fits (t : Team) (n : Nat) : Bool := decide (t.stack.length + n ≤ depthLimit t.lanes)

/-- The first lane of the first group of 2^LIMB lanes that a mask splits, else the mask's lowest lane (R165 form M; DEDUCED, log
entry 18). -/
def Team.splitLane (t : Team) (x : LaneMask) : Nat :=
  let n := 2 ^ t.limb
  let split (k : Nat) : Bool :=
    let l := (List.range n).map fun i => x.getLsbD (k * n + i)
    l.any id && !l.all id
  match (List.range (t.lanes / n)).find? split with
  | some k => k * n
  | none => (lowestLane t.lanes x).getD 0

/-- BRX (R103): P is G1 after its negate bit. -/
def execBrx (b : Bool) (pd : PTerm) (taken join : BitVec 22) (s : State) : Out :=
  s.controlOp (encBrx b pd taken join) [] fun t =>
    let p := t.pTerm pd
    let yes := t.active &&& p
    let no := t.active &&& ~~~p
    let go (t : Team) : Res :=
      let t1 := t.jump (target t.pc taken) (taken.getLsbD 21)
      .ok { s := s.setTeam t1, pc := some t1.pc, ends := true, after := [] }
    if no = 0 then go t
    else if yes = 0 then .done s
    else if t.limb ≠ 0 then .raise s 0x18 (infoM yes (t.splitLane yes))
    else if !t.fits 2 then .raiseS s t 0x13
    else
      go { t with
        stack :=
          { kind := .defer, pc := t.pc + 12, m := no, seg := 0, head := 0, k := 0, trapCall := false } ::
          { kind := .join, pc := target t.pc join, m := t.active, seg := 0, head := 0, k := 0, trapCall := false } :: t.stack
        active := yes }

/-- JOIN (R104). -/
def execJoin (b : Bool) (s : State) : Out :=
  s.controlOp (encJoin b) [] fun t =>
    let next := t.pc + 4
    match t.stack with
    | [] => .raiseS s t 0x14
    | e :: rest =>
      if e.kind = .defer then
        let r := { t.popped e rest with active := e.m, pc := e.pc }.settled
        if r.2 then .ok { s := s.setTeam r.1, pc := some r.1.pc, ends := true, after := [] } else .raiseS s t 0x14
      else if (e.kind = .join ∨ e.kind = .loop) ∧ e.pc = t.pc then
        s.afterStack t { t.popped e rest with active := e.m, pc := next }
      else .raiseS s t 0x14

/-- LOOP (R105, R292). -/
def execLoop (b : Bool) (disp : BitVec 22) (s : State) : Out :=
  s.controlOp (encLoop b disp) [] fun t =>
    if !t.fits 1 then .raiseS s t 0x13
    else
      .team s { t with stack :=
        { kind := .loop, pc := target t.pc disp, m := t.active, seg := 0, head := t.pc + 4, k := 0, trapCall := false } ::
          t.stack }

/-- BRK and CONT over X = A ∧ guard (R105, R291, R293). -/
def State.leaveLoop (s : State) (f : Fields) (g : Guard) (cont : Bool) : Out :=
  s.controlOp f [] fun t =>
    let x := t.execMask g
    if x = 0 then .done s
    else
      match topVisible .loop t.stack with
      | none => .raiseS s t 0x15
      | some (i, _) =>
        if t.limb ≠ 0 ∧ x ≠ t.active then .raise s 0x18 (infoM x ((lowestLane t.lanes x).getD 0))
        else
          let clear (e : StackEntry) : StackEntry := { e with m := e.m &&& ~~~x, k := e.k &&& ~~~x }
          let keep (e : StackEntry) : StackEntry := if cont then { e with k := e.k ||| x } else e
          let stack := (t.stack.take i).map clear ++ modifyAt (t.stack.drop i) 0 keep
          s.afterStack t { t with active := t.active &&& ~~~x, stack := stack,
                                  pc := t.pc + BitVec.ofNat 32 (4 * (f.len.toNat + 1)) }

/-- BRK, 32-bit form (R105). -/
def execBrk32 (b : Bool) (s : State) : Out := s.leaveLoop (encBrk32 b) .always false

/-- BRK, 64-bit form (R105). -/
def execBrk64 (b : Bool) (g : Guard) (s : State) : Out := s.leaveLoop (encBrk64 b g) g false

/-- CONT, 32-bit form (R105). -/
def execCont32 (b : Bool) (s : State) : Out := s.leaveLoop (encCont32 b) .always true

/-- CONT, 64-bit form (R105). -/
def execCont64 (b : Bool) (g : Guard) (s : State) : Out := s.leaveLoop (encCont64 b g) g true

/-- A call to `x` from an instruction of `n` bytes (R106); STACK_OVERFLOW before CALL_DEPTH (R292). -/
def State.call (s : State) (t : Team) (n : Nat) (x : Word) : Res :=
  if !t.fits 1 then .raiseS s t 0x13
  else if 64 ≤ callCount t.stack then .raiseS s t 0x17
  else
    .ok { s := s.setTeam { t with stack :=
            { kind := .call, pc := t.pc + BitVec.ofNat 32 n, m := t.active, seg := 0, head := 0, k := 0, trapCall := false } ::
              t.stack },
          pc := some x, ends := true, after := [] }

/-- CALL, displacement form (R106, R292). -/
def execCallDisp (b : Bool) (disp : BitVec 22) (s : State) : Out :=
  s.controlOp (encCallDisp b disp) [] fun t => s.call t 4 (target t.pc disp)

/-- CALL, register form (R243). -/
def execCallReg (b : Bool) (x : Spec) (s : State) : Out :=
  s.controlOp (encCallReg b x) [RegUse.src 1 .s x] fun t =>
    let a := t.readS x
    if a.toNat % 4 ≠ 0 then .raise s 0x06 a.toNat else s.call t 8 a

/-- RET (R106): the executing lanes leave every entry above the topmost visible CALL, and the stack settles. -/
def execRet (b : Bool) (s : State) : Out :=
  s.controlOp (encRet b) [] fun t =>
    match topVisible .call t.stack with
    | none => .raiseS s t 0x16
    | some (i, _) =>
      let x := t.active
      let clear (e : StackEntry) : StackEntry := { e with m := e.m &&& ~~~x, k := e.k &&& ~~~x }
      s.afterStack t { t with active := 0, stack := (t.stack.take i).map clear ++ t.stack.drop i }

/-- EXIT over X = A ∧ guard (R110). -/
def State.exitOp (s : State) (f : Fields) (g : Guard) : Out :=
  s.controlOp f [] fun t =>
    let x := t.execMask g
    if x = 0 then .done s
    else if t.limb ≠ 0 then .raise s 0x19 (infoM x ((lowestLane t.lanes x).getD 0))
    else
      let t1 : Team := { t.dropLanes x with pc := t.pc + BitVec.ofNat 32 (4 * (f.len.toNat + 1)) }
      let r := t1.settled
      if !r.2 then .raiseS s t 0x14
      else
        let t2 := r.1.retiring
        .ok { s := (s.setTeam t2).lanesLeft t2, pc := some t2.pc, ends := t1.active == 0, after := [] }

/-- EXIT, 32-bit form (R110). -/
def execExit32 (b : Bool) (s : State) : Out := s.exitOp (encExit32 b) .always

/-- EXIT, 64-bit form (R110). -/
def execExit64 (b : Bool) (g : Guard) (s : State) : Out := s.exitOp (encExit64 b g) g

/-- NOP, 32-bit form (R294). -/
def execNop32 (b : Bool) (s : State) : Out := s.controlOp (encNop32 b) [] fun _ => .done s

/-- NOP, 64-bit form (R294). -/
def execNop64 (b : Bool) (g : Guard) (s : State) : Out := s.controlOp (encNop64 b g) [] fun _ => .done s

/-- NOP, 96-bit form (R294). -/
def execNop96 (b : Bool) (g : Guard) (s : State) : Out := s.controlOp (encNop96 b g) [] fun _ => .done s

/-- YIELD ends its run (R294). -/
def execYield (b : Bool) (s : State) : Out :=
  s.controlOp (encYield b) [] fun _ => .ok { s := s, pc := none, ends := true, after := [] }

/-- TRAP and BKPT (R295): the lowest lane of the execution mask fills LANE, the return pc is the next instruction. -/
def State.trapOp (s : State) (f : Fields) (g : Guard) (code : Nat) (n : Byte) : Out :=
  s.varyingOp f g [] fun t m =>
    .trap s { code := code, info := n.toNat, lane := (lowestLane t.lanes m).getD 0, handle := 0, next := true }

/-- TRAP, 32-bit form (R295). -/
def execTrap32 (b : Bool) (s : State) : Out := s.trapOp (encTrap32 b) .always 0x0B 0

/-- TRAP, 64-bit form (R295). -/
def execTrap64 (b : Bool) (g : Guard) (n : Spec) (s : State) : Out := s.trapOp (encTrap64 b g n) g 0x0B n

/-- BKPT, 32-bit form (R295). -/
def execBkpt32 (b : Bool) (s : State) : Out := s.trapOp (encBkpt32 b) .always 0x0C 0

/-- BKPT, 64-bit form (R295). -/
def execBkpt64 (b : Bool) (g : Guard) (n : Spec) (s : State) : Out := s.trapOp (encBkpt64 b g n) g 0x0C n

/-- A special register's width in bits, or none where R297 lists none. -/
def specialWidth (n : Nat) : Option Nat :=
  if n = 0 ∨ n = 2 ∨ n = 3 ∨ n = 0x0E ∨ n = 0x0F ∨ n = 0x12 then some 64
  else if n ≤ 0x13 ∨ (0x20 ≤ n ∧ n ≤ 0x61) then some 32
  else none

/-- A special register that SWRITE may name (R297). -/
def specialWritable (n : Nat) : Bool := [0, 1, 0x10, 0x11, 0x12, 0x13].contains n

/-- TSTATE (R97). -/
def Team.tstate (t : Team) : Nat :=
  t.stack.length + t.limb * 2 ^ 14 + b2n t.aw * 2 ^ 17 + t.bbc * 2 ^ 18 + t.forced * 2 ^ 24 + t.rot.toNat * 2 ^ 32

/-- The value of a special register (R297). -/
def State.special (s : State) (t : Team) (n : Nat) : Nat :=
  match n with
  | 0x00 => t.tstate
  | 0x01 => t.flags.toNat
  | 0x02 => t.trapCause.toNat
  | 0x03 => t.trapInfo.toNat
  | 0x04 => t.trapPc.toNat
  | 0x05 => b2n t.inTrap
  | 0x06 => t.lanes
  | 0x07 => t.rank
  | 0x08 => t.gx + t.gy * 2 ^ 16
  | 0x09 => t.prm.gridX + t.prm.gridY * 2 ^ 16
  | 0x0A => t.prm.w + t.prm.h * 2 ^ 8 + t.prm.t * 2 ^ 16
  | 0x0B => t.prm.cx t.rank + t.prm.cy t.rank * 2 ^ 4
  | 0x0C => t.core % 12 + t.core / 12 * 2 ^ 4
  | 0x0D => t.part
  | 0x0E => s.devTime.toNat
  | 0x0F => s.clk % 2 ^ 64
  | 0x10 => t.dbg.toNat
  | 0x11 => t.whnd
  | 0x12 => t.woff
  | 0x13 => t.wlen
  | 0x60 => (maskSummary t.launched).toNat
  | 0x61 => (maskSummary t.helper).toNat
  | _ => if n < 0x40 then (maskWord t.launched (n - 0x20)).toNat else (maskWord t.helper (n - 0x40)).toNat

/-- The uniform register or pair of a special-register access. -/
def specialUse (pos : Nat) (r : Spec) (dst : Bool) (n : Nat) : RegUse :=
  if specialWidth n = some 64 then ⟨pos, .s, r, dst, 2, 2⟩ else ⟨pos, .s, r, dst, 1, 1⟩

/-- SREAD (R296, R297). -/
def State.sread (s : State) (f : Fields) (g : Guard) (d n : Spec) : Out :=
  s.uniformOp f g [specialUse 0 d true n.toNat] true fun t =>
    match specialWidth n.toNat with
    | none => .raise s 0x0A n.toNat
    | some w =>
      let x := s.special t n.toNat
      .team s (if w = 64 then t.writeS64 d x else t.writeS d (BitVec.ofNat 32 x))

/-- SREAD, 32-bit form. -/
def execSread32 (b : Bool) (d n : Spec) (s : State) : Out := s.sread (encSread32 b d n) .always d n

/-- SREAD, 64-bit form. -/
def execSread64 (b : Bool) (g : Guard) (d n : Spec) (s : State) : Out := s.sread (encSread64 b g d n) g d n

/-- The write of a special register (R297). -/
def Team.putSpecial (t : Team) (n x : Nat) : Team :=
  match n with
  | 0x00 => if bit x 17 then { t with aw := false } else t
  | 0x01 => { t with flags := BitVec.ofNat 6 x }
  | 0x10 => { t with dbg := BitVec.ofNat 3 x }
  | 0x11 => { t with whnd := x % 2 ^ 20 }
  | 0x12 => { t with woff := x % 2 ^ 48 }
  | 0x13 => { t with wlen := x % 2 ^ 32 }
  | _ => t

/-- SWRITE (R296-R298). -/
def State.swrite (s : State) (f : Fields) (g : Guard) (n x : Spec) : Out :=
  s.uniformOp f g [specialUse 1 x false n.toNat] false fun t =>
    if !specialWritable n.toNat then .raise s 0x0A n.toNat
    else
      let v := if specialWidth n.toNat = some 64 then t.readS64 x else (t.readS x).toNat
      .ok { s := s.setTeam (t.putSpecial n.toNat v), pc := none, ends := false, after := [], quiet := decide (n = 0x10) }

/-- SWRITE, 32-bit form. -/
def execSwrite32 (b : Bool) (n x : Spec) (s : State) : Out := s.swrite (encSwrite32 b n x) .always n x

/-- SWRITE, 64-bit form. -/
def execSwrite64 (b : Bool) (g : Guard) (n x : Spec) (s : State) : Out := s.swrite (encSwrite64 b g n x) g n x

/-- A word group that is no instruction raises its cause with INFO in form W and has no effect (R244). -/
def execIll (cause : Byte) (w0 : Word) (idx : BitVec 2) (bitPos : BitVec 5) (s : State) : Out :=
  s.controlOp { Fields.zero with len := w0.extractLsb' 0 2, b := w0.getLsbD 2 } [] fun _ =>
    .raise s cause.toNat (infoW w0 idx.toNat bitPos.toNat)

end Sys2Proof.Machine
end

