-- ==== Sys2Proof/Machine/Convert.lean ====
section
/-!
DEFINITION. Conversions (R318-R321), packed FP16 arithmetic (R314), random numbers (R230, R317), and the frame of a varying
instruction that raises floating-point exceptions (R218, R310).
-/
namespace Sys2Proof.Machine

/-- A varying instruction that writes a row and raises exceptions: FLAGS takes the union over the execution mask, enabled
exceptions are taken after every lane is written (R217, R218, R310). -/
def State.varyFp (s : State) (f : Fields) (g : Guard) (us : List RegUse) (d : Spec) (rows : Team → List (Word × FFlags)) :
    Out :=
  s.varyingOp f g (RegUse.dest 0 .v d :: us) fun t m =>
    let r := rows t
    let q := raisedIn m 0 (r.map (·.2))
    .ok { s := s.setTeam ((t.writeV m d (r.map (·.1))).raise q), pc := none, ends := false, after := q.causes t.prm.fptrap }

/-- IMM8 as the FP32 value of a signed integer (R310). -/
def immF32 (n : Byte) : Word := (pk32 0 (ofInt n.toInt)).1

/-- IMM8 as an FP16 value in both halves (R310). -/
def immF16x2 (n : Byte) : Word :=
  let h := (fp16.pack 0 (ofInt n.toInt)).1
  BitVec.ofNat 32 (h + h * 2 ^ 16)

/-- The two elements of a packed word through one FP16 operation (R314). -/
def half2 (op : Nat → Nat → Nat × FFlags) (a b : Word) : Word × FFlags :=
  let lo := op (bits a.toNat 15 0) (bits b.toNat 15 0)
  let hi := op (bits a.toNat 31 16) (bits b.toNat 31 16)
  (BitVec.ofNat 32 (lo.1 + hi.1 * 2 ^ 16), lo.2 ||| hi.2)

def hAdd2 (m : BitVec 2) (a b : Word) : Word × FFlags := half2 (fp16.add m) a b
def hMul2 (m : BitVec 2) (a b : Word) : Word × FFlags := half2 (fp16.mul m) a b

def hFma2 (m : BitVec 2) (a b c : Word) : Word × FFlags :=
  let lo := fp16.fma m (bits a.toNat 15 0) (bits b.toNat 15 0) (bits c.toNat 15 0)
  let hi := fp16.fma m (bits a.toNat 31 16) (bits b.toNat 31 16) (bits c.toNat 31 16)
  (BitVec.ofNat 32 (lo.1 + hi.1 * 2 ^ 16), lo.2 ||| hi.2)

/-- FCPSGN: a[30:0] with b[31] (R311). -/
def fCpsgn (a b : Word) : Word := (a &&& 0x7FFFFFFF) ||| (b &&& 0x80000000)

/-- The integer formats of R318 by code: signed, width. -/
def intFmt (code : Nat) : Option (Bool × Nat) :=
  match code with
  | 0 => some (true, 32)
  | 1 => some (false, 32)
  | 2 => some (true, 16)
  | 3 => some (false, 16)
  | 4 => some (true, 8)
  | 5 => some (false, 8)
  | 13 => some (true, 32)
  | 14 => some (false, 32)
  | _ => none

/-- The floating-point formats of R318 by code: format, lowest bit of the place it is held in. -/
def floatFmt (code : Nat) : Fmt × Nat :=
  match code with
  | 7 => (fp16, 0)
  | 8 => (bf16, 16)
  | 9 => (fp19, 13)
  | 10 => (e4m3, 0)
  | 11 => (e5m2, 0)
  | 12 => (e3m4, 0)
  | _ => (fp32, 0)

/-- An 8-bit format reads its NaN patterns as quiet (R219). -/
def quietFp8 (code : Nat) (v : FVal) : FVal :=
  match v with
  | .nan s => .nan (s && decide (code < 10))
  | .inf n => .inf n
  | .fin n m e => .fin n m e

/-- The value of a source word (R318). -/
def cvtSource (code : Nat) (x : Word) : FVal :=
  match intFmt code with
  | some (sg, w) => ofInt (if sg then toSigned w (x.toNat % 2 ^ w) else (x.toNat % 2 ^ w : Nat))
  | none =>
    let p := floatFmt code
    quietFp8 code (p.1.unpack true (x.toNat >>> p.2 % 2 ^ (p.1.eb + p.1.mb + 1)))

/-- A value into a floating-point format: NaNs become canonical with NV if signalling; E4M3 takes ±∞ to ±448 with NV (R319). -/
def toFloat (f : Fmt) (mode : BitVec 2) (v : FVal) : Nat × FFlags :=
  match v with
  | .nan s => (f.nan, if s then fNV else 0)
  | .inf n => if f.infs then (f.infCode n, 0) else (f.maxCode n, fNV)
  | .fin n m e => f.round mode n m e false

/-- A value into an integer format: the result, the flags of a float source, and whether it was a NaN or was clamped (R319). -/
def toInteger (sg : Bool) (w : Nat) (fromFloat : Bool) (mode : BitVec 2) (v : FVal) : Word × FFlags × Bool :=
  let lo : Int := if sg then -(2 ^ (w - 1) : Nat) else 0
  let hi : Int := if sg then (2 ^ (w - 1) - 1 : Nat) else (2 ^ w - 1 : Nat)
  let nv : FFlags := if fromFloat then fNV else 0
  match v with
  | .nan _ => (0, nv, true)
  | .inf n => (BitVec.ofInt 32 (if n then lo else hi), nv, true)
  | .fin n m e =>
    let (z, ix) := toIntRound mode n m e
    if z < lo then (BitVec.ofInt 32 lo, nv, true)
    else if hi < z then (BitVec.ofInt 32 hi, nv, true)
    else (BitVec.ofInt 32 z, if ix then fNX else 0, false)

/-- CVT of one lane: word, flags, and whether .S32T or .U32T is out of range (R318, R319). -/
def cvtWord (pair : Byte) (mode : BitVec 2) (x : Word) : Word × FFlags × Bool :=
  let src := bits pair.toNat 3 0
  let dst := bits pair.toNat 7 4
  let v := cvtSource src x
  match intFmt dst with
  | some (sg, w) =>
    let r := toInteger sg w (intFmt src).isNone mode v
    (r.1, r.2.1, r.2.2 && decide (13 ≤ dst))
  | none =>
    let p := floatFmt dst
    let r := toFloat p.1 mode v
    (BitVec.ofNat 32 (r.1 <<< p.2), r.2, false)

/-- The format of a CVTP element and its width (R320). -/
def elemFmt (el : Nat) : Fmt × Nat := ((floatFmt el).1, if el < 9 then 16 else 8)

/-- CVTP.PACK of one lane (R320). -/
def packWord (el : Nat) (mode : BitVec 2) (a b : Word) : Word × FFlags :=
  let p := elemFmt el
  let x := toFloat p.1 mode (un32 a)
  let y := toFloat p.1 mode (un32 b)
  (BitVec.ofNat 32 (x.1 + y.1 * 2 ^ p.2), x.2 ||| y.2)

/-- Stochastic rounding of a finite value (R321). The exponent is unbounded above; below, values lie on the subnormal grid. -/
def stochastic (f : Fmt) (neg : Bool) (m : Nat) (e : Int) (r : Nat) : Nat × FFlags :=
  if m = 0 then (f.sign neg, 0)
  else
    let top := e + (bitLen m : Int) - 1
    let q := max (top - f.mb) (1 - (f.bias : Int) - f.mb)
    let sh := (q - e).toNat
    let n := if q ≤ e then m <<< (e - q).toNat else m >>> sh
    let rem := if q ≤ e then 0 else m - n <<< sh
    let t := if q ≤ e then 0 else rem * 2 ^ 32 / 2 ^ sh
    let up := decide (rem ≠ 0) && decide (r < t)
    let c := f.round 1 neg (if up then n + 1 else n) q false
    let tooBig := c.2 &&& fOF != 0
    let fl : FFlags := if rem = 0 then 0 else fNX
    if tooBig then ((if f.infs then f.infCode neg else f.maxCode neg), fOF ||| fNX)
    else (c.1, fl ||| (if decide (rem ≠ 0) && decide (bits c.1 (f.eb + f.mb - 1) f.mb = 0) then fUF else 0))

/-- CVTP.PACKSR of one lane (R320, R321). -/
def packSr (el : Nat) (a b : Word) : Word × FFlags :=
  let p := elemFmt el
  match un32 a with
  | .fin n m e => w32 (stochastic p.1 n m e b.toNat)
  | .nan s => w32 (toFloat p.1 0 (.nan s))
  | .inf n => w32 (toFloat p.1 0 (.inf n))

/-- CVTP.UNPACK of one lane (R320). -/
def unpackWord (el j : Nat) (a : Word) : Word × FFlags :=
  let p := elemFmt el
  match quietFp8 el (p.1.unpack true (a.toNat >>> (p.2 * j) % 2 ^ p.2)) with
  | .nan s => (0x7FC00000, if s then fNV else 0)
  | .inf n => (BitVec.ofNat 32 (fp32.infCode n), 0)
  | .fin n m e => (BitVec.ofNat 32 (fp32.round 0 n m e false).1, 0)

/-- frand_next: the new state and 32 bits (R230). -/
def frandNext (x0 : DWord) : DWord × Word :=
  let x1 := x0 ^^^ (x0 >>> 12)
  let x2 := x1 ^^^ (x1 <<< 25)
  let x3 := x2 ^^^ (x2 >>> 27)
  (x3, (x3 * 0x2545F4914F6CDD1D).extractLsb' 32 32)

/-- The generator state of a lane's global index (R230). -/
def frandSeed (seed : DWord) (g : Nat) : DWord :=
  let z0 := seed + BitVec.ofNat 64 g * 0x9E3779B97F4A7C15
  let z1 := (z0 ^^^ (z0 >>> 30)) * 0xBF58476D1CE4E5B9
  let z2 := (z1 ^^^ (z1 >>> 27)) * 0x94D049BB133111EB
  let z3 := z2 ^^^ (z2 >>> 31)
  if z3 = 0 then 0x9E3779B97F4A7C15 else z3

/-- FRAND: one frand_next in each lane of the execution mask and in no other (R230, R317). -/
def State.frand (s : State) (f : Fields) (g : Guard) (d : Spec) (out : Word → Word) : Out :=
  s.varyingOp f g [RegUse.dest 0 .v d] fun t m =>
    let r := t.rng.map frandNext
    let keep (l : Nat) (x : DWord) : DWord := if m.getLsbD l then (frandNext x).1 else x
    .team s { t.writeV m d (r.map fun p => out p.2) with rng := mapAt keep 0 t.rng }

/-- g[31:8] × 2^-24 as FP32, exact (R317). -/
def frandF32 (g : Word) : Word := (fp32.round 0 false (g.toNat / 256) (-24) false).1

end Sys2Proof.Machine
end

