-- ==== Sys2Proof/Machine/Crypto.lean ====
section
/-!
DEFINITION. SHA-512 (FIPS 180-4) and Ed25519 signing and verification (RFC 8032) with the choices of R386, as the boot chain,
envelopes and attestation use them (R41-R43, R48, R49). The two standards are PRESUMED from outside the spec (log entry 6).
-/
namespace Sys2Proof.Machine

/-- The largest `r` below 2^`n` with `r ^ k ≤ x`, found bit by bit. -/
def rootBits (k x : Nat) : Nat → Nat → Nat
  | 0, r => r
  | n + 1, r => rootBits k x n (if (r + 2 ^ n) ^ k ≤ x then r + 2 ^ n else r)

/-- The first `n` primes, in order. -/
def primesAux : Nat → Nat → Nat → List Nat
  | 0, _, _ => []
  | _ + 1, 0, _ => []
  | fuel + 1, n + 1, x =>
    if (List.range x).all fun d => d < 2 || x % d != 0 then x :: primesAux fuel n (x + 1) else primesAux fuel (n + 1) (x + 1)

def primes (n : Nat) : List Nat := primesAux 420 n 2

/-- The first 64 fractional bits of a cube root (the round constants) and of a square root (the initial state). -/
def cbrtFrac (p : Nat) : DWord := BitVec.ofNat 64 (rootBits 3 (p * 2 ^ 192) 68 0)
def sqrtFrac (p : Nat) : DWord := BitVec.ofNat 64 (rootBits 2 (p * 2 ^ 128) 68 0)

/-- The number that big-endian bytes hold, and back. -/
def beNat (bs : List Byte) : Nat := leNat bs.reverse
def beBytes (n x : Nat) : List Byte := (leBytes n x).reverse

/-- The message schedule, newest word first. -/
def schedule512 : Nat → List DWord → List DWord
  | 0, w => w
  | n + 1, w =>
    let g (i : Nat) : DWord := w[i]?.getD 0
    let s0 (x : DWord) : DWord := x.rotateRight 1 ^^^ x.rotateRight 8 ^^^ (x >>> 7)
    let s1 (x : DWord) : DWord := x.rotateRight 19 ^^^ x.rotateRight 61 ^^^ (x >>> 6)
    schedule512 n ((s1 (g 1) + g 6 + s0 (g 14) + g 15) :: w)

/-- One round of the compression on the state a to h. -/
def round512 (s : List DWord) (kw : DWord) : List DWord :=
  match s with
  | [a, b, c, d, e, f, g, h] =>
    let t1 := h + (e.rotateRight 14 ^^^ e.rotateRight 18 ^^^ e.rotateRight 41) + ((e &&& f) ^^^ (~~~e &&& g)) + kw
    let t2 := (a.rotateRight 28 ^^^ a.rotateRight 34 ^^^ a.rotateRight 39) + ((a &&& b) ^^^ (a &&& c) ^^^ (b &&& c))
    [t1 + t2, a, b, c, d + t1, e, f, g]
  | _ => s

/-- Compress one 128-byte block. -/
def block512 (ks : List DWord) (h : List DWord) (blk : List Byte) : List DWord :=
  let w := (List.range 16).map fun i => BitVec.ofNat 64 (beNat ((blk.drop (8 * i)).take 8))
  let ws := (schedule512 64 w.reverse).reverse
  List.zipWith (· + ·) h ((List.zipWith (· + ·) ks ws).foldl round512 h)

/-- The blocks of a padded message. -/
def blocks512 : Nat → List Byte → List (List Byte)
  | 0, _ => []
  | n + 1, m => m.take 128 :: blocks512 n (m.drop 128)

/-- SHA-512 of a message, as 64 bytes. -/
def sha512 (m : List Byte) : List Byte :=
  let len := m.length
  let zeros := (239 - len % 128) % 128
  let padded := m ++ [0x80] ++ List.replicate zeros 0 ++ beBytes 16 (8 * len)
  let ks := (primes 80).map cbrtFrac
  ((blocks512 (padded.length / 128) padded).foldl (block512 ks) ((primes 8).map sqrtFrac)).flatMap fun w => beBytes 8 w.toNat

/-- The field prime of Ed25519, the group order, and the curve constant. -/
def edP : Nat := 2 ^ 255 - 19
def edL : Nat := 2 ^ 252 + 27742317777372353535851937790883648493

/-- b^e mod p over `n` bits of the exponent. -/
def powMod (p : Nat) : Nat → Nat → Nat → Nat
  | 0, _, _ => 1 % p
  | n + 1, b, e =>
    let r := powMod p n (b * b % p) (e / 2)
    if e % 2 = 1 then b * r % p else r

def edInv (x : Nat) : Nat := powMod edP 256 x (edP - 2)
def edD : Nat := (edP - 121665) * edInv 121666 % edP

/-- Addition on the twisted Edwards curve, in affine coordinates; the law is complete. -/
def edAdd (a b : Nat × Nat) : Nat × Nat :=
  let t := edD * (a.1 * b.1 % edP) % edP * (a.2 * b.2 % edP) % edP
  ((a.1 * b.2 + a.2 * b.1) % edP * edInv (1 + t) % edP, (a.2 * b.2 + a.1 * b.1) % edP * edInv (1 + edP - t) % edP)

/-- [k]P over `n` bits of k. -/
def edMul : Nat → Nat → Nat × Nat → Nat × Nat
  | 0, _, _ => (0, 1)
  | n + 1, k, pt =>
    let r := edMul n (k / 2) (edAdd pt pt)
    if k % 2 = 1 then edAdd pt r else r

/-- The x coordinate of even or odd parity for a y coordinate, if y is on the curve. -/
def edX (y : Nat) (odd : Bool) : Option Nat :=
  let y2 := y * y % edP
  let u := (y2 + edP - 1) % edP
  let x2 := u * edInv (edD * y2 + 1) % edP
  let r := powMod edP 256 x2 ((edP + 3) / 8)
  let x := if r * r % edP = x2 then r else r * powMod edP 256 2 ((edP - 1) / 4) % edP
  if x * x % edP ≠ x2 then none
  else if x = 0 ∧ odd then none
  else some (if (x % 2 = 1) = odd then x else (edP - x) % edP)

/-- Decode a point; a non-canonical encoding decodes to none (R386). -/
def edDecode (bs : List Byte) : Option (Nat × Nat) :=
  let v := leNat bs
  let y := v % 2 ^ 255
  if edP ≤ y then none else (edX y (v / 2 ^ 255 % 2 = 1)).map fun x => (x, y)

def edEncode (pt : Nat × Nat) : List Byte := leBytes 32 (pt.2 + pt.1 % 2 * 2 ^ 255)

/-- The base point: y = 4/5, x even. -/
def edBase : Nat × Nat :=
  let y := 4 * edInv 5 % edP
  ((edX y false).getD 0, y)

/-- Verification (R386): S below the order, canonical encodings of points of the curve, and the equation without the cofactor. -/
def edVerify (pub msg sig : List Byte) : Bool :=
  let rb := sig.take 32
  let sn := leNat (sig.drop 32)
  match edDecode rb, edDecode pub with
  | some r, some a =>
    decide (sn < edL) &&
      edEncode (edMul 253 sn edBase) == edEncode (edAdd r (edMul 253 (leNat (sha512 (rb ++ pub ++ msg)) % edL) a))
  | none, _ => false
  | some _, none => false

/-- The secret scalar of a seed. -/
def edScalar (seed : List Byte) : Nat :=
  let h := leNat ((sha512 seed).take 32)
  h % 2 ^ 254 / 8 * 8 + 2 ^ 254

/-- The public key of a seed. -/
def edPublic (seed : List Byte) : List Byte := edEncode (edMul 255 (edScalar seed) edBase)

/-- The signature of a message under a seed. -/
def edSign (seed msg : List Byte) : List Byte :=
  let pfx := (sha512 seed).drop 32
  let r := leNat (sha512 (pfx ++ msg)) % edL
  let rb := edEncode (edMul 253 r edBase)
  let k := leNat (sha512 (rb ++ edPublic seed ++ msg)) % edL
  rb ++ leBytes 32 ((r + k * edScalar seed) % edL)

end Sys2Proof.Machine
end

