-- ==== Sys2Proof/Machine/Log.lean ====
section
/-!
DEFINITION. The flight log (R29-R31), and who owns a GDDR7 frame (R35).
-/
namespace Sys2Proof.Machine

/-- SOURCE of a flight-log entry (R29). -/
def flightSource (e : BitVec 128) : Nat := bits e.toNat 79 72

/-- The entry at an index of the flight log; an index never written reads zero (R29, R30). -/
def State.flightAt (s : State) (i : Nat) : BitVec 128 := ((s.flog.find? fun x => x.1 == i).map (·.2)).getD 0

/-- Append an entry to the flight log, a ring of 4,096 (R29). Entries of one clk stand in ascending SOURCE order (R30): the
new one goes before those of its clk whose SOURCE is greater. -/
def State.flight (s : State) (source event part data : Nat) : State :=
  let e : BitVec 128 := BitVec.ofNat 128
    (s.devTime.toNat % 2 ^ 48 * 2 ^ 80 + source % 256 * 2 ^ 72 + event % 256 * 2 ^ 64 + part % 256 * 2 ^ 56 + data % 2 ^ 56)
  let run := if s.flogClk = s.clk then min s.flogRun 4095 else 0
  let place (k : Nat) : Nat := (s.flogNext + 4096 - run + k) % 4096
  let old := (List.range run).map fun k => s.flightAt (place k)
  let new := (old.filter fun x => decide (flightSource x ≤ source % 256)) ++ [e] ++
    old.filter fun x => decide (source % 256 < flightSource x)
  let touched := (List.range (run + 1)).map place
  { s with flog := (mapAt (fun k x => (place k, x)) 0 new).reverse ++ s.flog.filter fun x => !touched.contains x.1,
           flogNext := (s.flogNext + 1) % 4096, flogClk := s.clk, flogRun := run + 1 }

/-- The flight-log data that names a channel and a block (R31): the block address keeps its place in [39:6]. -/
def blockData (pa : Nat) : Nat := (Config.channel (blockOf pa)).val * 2 ^ 52 + blockOf pa % 2 ^ 34 * 64

/-- The object descriptors of a partition's table, with their index. -/
def State.descs (s : State) (p : Nat) : List (Nat × Nat) :=
  let d := (s.getPart p).desc
  (List.range d.otLen).map fun i => (i, s.homeNat (d.otBase + 32 * i) 32)

/-- Entries of a frame array (R121). -/
def ODesc.pages (d : Nat) : Nat := ceilDiv (ODesc.length d) (2 ^ ODesc.pageShift d)

/-- A client partition's frame array lists the 64 KiB frame of an address (R35). An entry whose PRESENT is 0 lists no frame (DESIGN
CHOICE, log entry 92). -/
def State.listsFrame (s : State) (p pa : Nat) : Bool :=
  (s.descs p).any fun e =>
    bit e.2 224 && decide (ODesc.ownerOf e.2 = p) && (List.range (ODesc.pages e.2)).any fun i =>
      let f := s.homeNat (ODesc.faAddr e.2 + 8 * i) 8
      bit f 0 && decide (bits f 39 16 * 2 ^ 16 / 2 ^ ODesc.pageShift e.2 = pa / 2 ^ ODesc.pageShift e.2)

/-- The 64 KiB frame of an address meets a range. -/
def frameMeets (pa lo len : Nat) : Bool := decide (lo / 2 ^ 16 ≤ pa / 2 ^ 16) && decide (pa / 2 ^ 16 * 2 ^ 16 < lo + len)

/-- The bytes that a stream's object spans: header and slots (R21, R22). -/
def streamSpan (slotLog n : Nat) : Nat := 0x40 + 2 ^ n * (2048 * 2 ^ slotLog)

/-- The ranges in which a device table or record of partition 0 lies (R35). A client's descriptor at its reset value names a mailbox
table and an envelope map at address 0 all the same, so that frame 0 is partition 0's unless a client lists it (DESIGN CHOICE, log
entry 92). -/
def State.systemRanges (s : State) : List (Nat × Nat) :=
  let ofPart (p : Nat) : List (Nat × Nat) :=
    let d := (s.getPart p).desc
    [(d.htBase, 8 * d.htLen), (d.otBase, 32 * d.otLen), (d.fqBase, 64 * d.fqLen), (d.mbxBase, 32 * 64), (d.emBase, 16 * 128)] ++
      ((s.descs p).filter fun e => bit e.2 224).flatMap fun e =>
        (ODesc.faAddr e.2, 8 * ODesc.pages e.2) :: if bit e.2 230 then [(ODesc.haloAddr e.2, 8)] else []
  let clients := (List.range 129).filter fun p => decide (p ≠ 0)
  let stream (e : Stream) : List (Nat × Nat) :=
    if e.part ≠ 0 then []
    else
      let x := e.entry.toNat
      (if bit x 104 then [(bits x 63 24, streamSpan (bits x 99 98) (bits x 103 100))] else []) ++
        if bit x 226 then [(bits x 191 152, streamSpan (bits x 221 220) (bits x 225 222))] else []
  let out (o : Output) : List (Nat × Nat) :=
    if o.en ∧ o.curPart = 0 then [(o.curBase, bits o.curGeom.toNat 63 32 * (bits o.curGeom.toNat 31 16 + 1))] else []
  clients.flatMap ofPart ++ [(s.envBase, 4096 * s.envLen)] ++ s.streams.flatMap stream ++ s.outputs.flatMap out

/-- The owner of the frame of an address (R35): a client partition, partition 0, or none. -/
def State.frameOwner (s : State) (pa : Nat) : Option Nat :=
  match (List.range 129).find? fun p => p != 0 && s.listsFrame p pa with
  | some p => some p
  | none => if s.systemRanges.any fun r => r.2 != 0 && frameMeets pa r.1 r.2 then some 0 else none

/-- The PART byte of an owner (R31). -/
def ownerByte (o : Option Nat) : Nat := o.getD 0xFF

/-- A saturating 32-bit count goes up (R9). -/
def satInc (w : Word) : Word := if w = 0xFFFFFFFF then w else w + 1

/-- A block goes bad, none of its bytes rewritten since (R11). -/
def State.markBad (s : State) (b : Nat) : State := if s.isBad b then s else { s with badBlocks := s.badBlocks ++ [(b, 0)] }

/-- An uncorrectable error counts on its channel and the block stays bad until it is rewritten (R9, R11). -/
def State.countBad (s : State) (pa : Nat) : State :=
  ({ s with uecnt := modifyAt s.uecnt (Config.channel (blockOf pa)).val satInc } : State).markBad (blockOf pa)

/-- A correctable error found by a read (`scrub` false) or by the scrubber (R8, R31). -/
def State.corrected (s : State) (pa : Nat) (scrub : Bool) : State :=
  let s1 := { s with cecnt := modifyAt s.cecnt (Config.channel (blockOf pa)).val satInc }
  s1.flight 0x04 (if scrub then 2 else 1) (ownerByte (s.frameOwner pa)) (blockData pa)

end Sys2Proof.Machine
end

