-- ==== Sys2Proof/Machine/Reset.lean ====
section
/-!
DEFINITION. Resets and the boot chain (R26, R41-R46, R71), FREEZE (R28), and the boot registers' events.
-/
namespace Sys2Proof.Machine

/-- The bytes of an ASCII string. -/
def ascii (x : String) : List Byte := x.toList.map fun c => BitVec.ofNat 8 c.toNat

/-- Little-endian bytes as a bit vector of the register's width. -/
def packBytes (w : Nat) (bs : List Byte) : BitVec w := BitVec.ofNat w (leNat bs)

/-- A field of a byte image. -/
def field (img : List Byte) (off n : Nat) : Nat := leNat ((img.drop off).take n)

/-- A firmware image that passed: its version, entry offset, body and digest. -/
structure Firmware where
  version : Nat
  entry : Nat
  body : List Byte
  digest : List Byte
  deriving DecidableEq, Repr

/-- Steps 1 and 2 of R43 on an image: every Rule of R42, then the signature. -/
def checkFirmware (fuses : Fuses) (img : List Byte) : Option Firmware :=
  let ver := field img 8 4
  let len := field img 0xC 4
  let entry := field img 0x10 4
  let signer := (img.drop 0x20).take 32
  let body := (img.drop 0x80).take len
  let msg := img.take 0x40 ++ body
  if field img 0 4 ≠ 0x4B393646 ∨ field img 4 2 ≠ 1 ∨ field img 6 2 ≠ 0 ∨ 64 < ver ∨ ver < fuses.svc then none
  else if len < 2 ^ 20 ∨ 4 * 2 ^ 20 < len ∨ len % 4 ≠ 0 ∨ img.length < 0x80 + len then none
  else if len ≤ entry ∨ entry % 4 ≠ 0 ∨ field img 0x14 12 ≠ 0 then none
  else if packBytes 512 (sha512 signer) ≠ fuses.pkh then none
  else if !edVerify signer msg ((img.drop 0x40).take 64) then none
  else some { version := ver, entry := entry, body := body, digest := sha512 msg }

/-- Steps 3 to 5 of R43. The 32 bytes of DSEC enter the hashes little-endian (DESIGN CHOICE, log entry 74). -/
def bootKeys (fuses : Fuses) (f : Firmware) : Boot :=
  let dsec := leBytes 32 fuses.dsec.toNat
  let idSeed := (sha512 (ascii "K96 identity" ++ dsec)).take 32
  let attSeed := (sha512 (ascii "K96 attest" ++ dsec ++ f.digest)).take 32
  let cert := edPublic attSeed ++ f.digest
  { stat := 0, idKey := packBytes 256 (edPublic idSeed), attKey := packBytes 256 (edPublic attSeed),
    attSeed := packBytes 256 attSeed, aCert := cert ++ edSign idSeed cert, fwVersion := f.version,
    fwDigest := packBytes 512 f.digest }

/-- The boot chain on a machine whose other state is reset (R43, R46): the firmware starts on all four gondola cores, or the
ROM enters recovery, in which BOOT.IDKEY and BOOT.ACERT read 0 (DESIGN CHOICE, log entry 8). DSEC is locked in either case. Where the body lies in the gondola's memory is log entry 7. -/
def State.bootChain (s : State) : State :=
  let s1 := { s with fuses := { s.fuses with dsecLocked := true } }
  match checkFirmware s.fuses s.flash with
  | none => { s1 with boot := { Boot.reset with stat := 1 } }
  | some f =>
    { s1 with
        boot := bootKeys s.fuses f
        gmem := cellsOf 0 0 f.body
        gcores := List.replicate 4 { GCore.reset with pc := BitVec.ofNat 32 f.entry } }

/-- The pending wake bits of a partition, numbered as R71 numbers them. -/
def Partition.pendBits (p : Partition) : Nat :=
  maskOfList (p.queues.map (·.pend) ++ p.mailboxes.map (·.pend))

/-- What every reset leaves: State.reset with the board's memory size, flash and fuses, and the model's own schedule. What
GDDR7 holds is undefined then (R26): every byte reads as one that nothing has written, and a block that is bad stays so
until it is rewritten (R11; log entry 3). The links are down, and no link-change entry is written for that (log entry 73). -/
def State.cleared (s : State) : State :=
  { State.reset with
      schedule := s.schedule, cur := s.cur, gcur := s.gcur, nextSeq := s.nextSeq, nextId := s.nextId, freeCtr := s.freeCtr
      busRead := s.busRead, busFault := s.busFault
      badBlocks := s.badBlocks, sizeGiB := s.sizeGiB, flash := s.flash, fuses := { s.fuses with dsecLocked := false } }

/-- A cold reset (R26, R6): everything starts anew, the flight log with the fitted size. -/
def State.coldReset (s : State) : State :=
  ({ s.cleared with devTime := 0, flog := [(0, sizeEntry s.sizeGiB)], flogNext := 1 } : State).bootChain

/-- The firmware's report of the wakes that a warm reset discards (R71): two entries for each partition with bits set. -/
def State.reportWakes (s : State) (old : List Partition) : State :=
  ((mapAt (fun i p => (i, p.pendBits)) 0 old).filter fun x => x.2 != 0).foldl
    (fun s x => (s.flight 0x06 0x03 x.1 (x.2 % 2 ^ 40)).flight 0x06 0x03 x.1 (2 ^ 48 + x.2 / 2 ^ 40)) s

/-- What the always-on domain keeps of a partition through a warm reset (R26, R70): the wake words, the mailbox counts and one
pending bit for each. -/
def Partition.alwaysOn (old : Partition) : Partition :=
  { Partition.reset with
      queues := old.queues.map fun q => { Queue.reset with qwr := q.qwr, pend := q.pend }
      mailboxes := old.mailboxes.map fun m => { Mailbox.reset with count := m.count, overflow := m.overflow, pend := m.pend } }

/-- The pending bits are cleared, once they have been reported (R71). -/
def Partition.noPend (p : Partition) : Partition :=
  { p with queues := p.queues.map fun q => { q with pend := false }, mailboxes := p.mailboxes.map fun m => { m with pend := false } }

/-- A warm reset for a reason (R26, R31): the entry is written first; the always-on domain keeps the flight log, the device time
with its rate, the wake words, the mailbox counts and the pending bits; the firmware, if it starts, reports the pending bits
and clears them, else they stay for the next one that starts (R71). -/
def State.warmReset (s : State) (reason : Nat) : State :=
  let s0 := s.flight 0x07 0x01 (if reason = 1 then 0 else 0xFF) reason
  let s1 := ({ s0.cleared with
    devTime := s0.devTime, timeRate := s0.timeRate, timeFrac := s0.timeFrac, flog := s0.flog, flogNext := s0.flogNext
    parts := mapAt (fun i p => if i = 0 then { p.alwaysOn with st := .runnable } else p.alwaysOn) 0 s0.parts } : State).bootChain
  if s1.boot.stat = 0 then
    let s2 := s1.reportWakes s.parts
    { s2 with parts := s2.parts.map Partition.noPend }
  else s1

/-- COLD_RESET (R26). -/
def execColdReset (s : State) : Out := .next s.coldReset

/-- WARM_RESET (R26): the reset logic takes a reason of R31; the debug port asks for none on a part whose debug-lock fuse is
blown (R27). -/
def execWarmReset (cause : Byte) (s : State) : Out :=
  if cause = 1 ∨ cause = 2 ∨ (cause = 3 ∧ !s.fuses.debugLock) then .next (s.warmReset cause.toNat) else .next s

/-- The flight-log data of a link change (R31). -/
def State.linkData (s : State) (port : Nat) : Nat := port + (s.ports[port]?.getD Port.reset).speed * 2 ^ 8

/-- A link goes down (R17, R31): the change is logged. -/
def State.linkDown (s : State) (port : Nat) : State :=
  if (s.ports[port]?.getD Port.reset).link then
    ({ s with ports := modifyAt s.ports port fun x => { x with link := false, verified := false } }).flight 0x05 0x02 0xFF
      (s.linkData port)
  else s

/-- FREEZE (R28): the entry, the links go down, each a link change (R30), and every clock stops. Deasserting the pin restarts
nothing. -/
def execFreeze (on : Bool) (s : State) : Out :=
  if on ∧ ¬ s.frozen then
    .next { ((s.flight 0x08 0x01 0xFF 0).linkDown 0).linkDown 1 with frozen := true }
  else .next s

/-- BOOT_SVCSET (R44): blows fuses up to n, unless n is below SVC or above the running firmware's version. In recovery no firmware
runs that could bound n, and the write is ignored (DESIGN CHOICE, log entry 90; `State.sysWrite`). -/
def execBootSvcset (n : Nat) (s : State) : Out :=
  if n < s.fuses.svc ∨ s.boot.fwVersion < n ∨ 64 < n then .next s
  else .next { s with fuses := { s.fuses with svc := n } }

end Sys2Proof.Machine
end

