-- ==== Sys2Proof/Machine/Depart.lean ====
section
/-!
DEFINITION. Departures of teams and what they charge (R73, R76, R77), neighbourhoods that end, killing and stopping a
partition (R40, R178), and machine checks (R10, R11, R178).
-/
namespace Sys2Proof.Machine

/-- QUANTUM as the dispatcher uses it (R72). -/
def Queue.quantumUsed (q : Queue) : Int := if q.quantum = 0 then 1 else q.quantum.toNat

/-- A change of a queue's deficit; a charge that would take it below −8 × QUANTUM leaves it there (R77). -/
def Queue.credit (q : Queue) (d : Int) : Queue :=
  { q with deficit := if d < 0 then max (q.deficit + d) (-8 * q.quantumUsed) else q.deficit + d }

def State.mapQueue (s : State) (p q : Nat) (f : Queue → Queue) : State :=
  s.mapPart p fun x => { x with queues := modifyAt x.queues q f }

def State.getQueue (s : State) (p q : Nat) : Queue := ((s.getPart p).queues[q]?).getD Queue.reset

/-- The queue has a ready slot: its own, or that of a mailbox charged to it (R73, R76). -/
def State.queueReady (s : State) (p q : Nat) : Bool :=
  let of (id : Nat) : Bool := ((s.launch? id).map (·.queue)) == some q
  (s.getQueue p q).slot.isSome || (s.getPart p).offers.any of || (s.getPart p).mailboxes.any fun m =>
    match m.slot with
    | some id => of id
    | none => false

/-- A team of one of the queue's launches is resident. -/
def State.queueResident (s : State) (p q : Nat) : Bool :=
  s.teams.any fun t => t.part == p && ((s.launch? t.launch).map (·.queue)) == some q

/-- Idle queues keep no credit (R76). -/
def State.settleDeficits (s : State) (p : Nat) : State :=
  s.mapPart p fun x => { x with queues := mapAt (fun i q =>
    if s.queueReady p i || s.queueResident p i then q else { q with deficit := min q.deficit 0 }) 0 x.queues }

/-- The advance charge of one team (R76). -/
def State.advance (s : State) : Int := (s.adv * 256 : Nat)

/-- A team leaves its slot (R77): its queue is charged the stint, and gets back the team's share of an advance where it
retires and its neighbourhood was charged one; a core that it empties waits for its gate release (R82). -/
def State.departTeam (s : State) (t : Team) (retires : Bool) : State :=
  let back : Int := if retires && ((s.nb? t.nb).map (·.advance)).getD false then s.advance else 0
  let s1 : State :=
    match s.launch? t.launch with
    | none => s
    | some l => s.mapQueue t.part l.queue fun q => (q.credit (-(s.clk - t.startClk : Nat))).credit back
  let s2 := { s1 with teams := s1.teams.filter fun x => x.uid != t.uid }
  let s3 :=
    if s2.teams.any fun x => x.core == t.core then s2
    else
      let (n, s4) := s2.fresh
      s4.mapCore t.core fun c => { c with emptied := some n }
  s3.settleDeficits t.part

/-- The regions attached to a neighbourhood detach; their rounds are kept (R139). -/
def State.detachNb (s : State) (nb : Nat) : State :=
  { s with regions := s.regions.map fun r => if r.attached = some nb then { r with attached := none } else r }

/-- A neighbourhood all of whose teams have retired ends, and counts for its launch (R60). -/
def State.endNb (s : State) (n : Nb) : State :=
  let s1 : State := { s with
    nbs := s.nbs.filter fun x => x.id != n.id
    launches := s.launches.map fun l => if l.id = n.launch then { l with finished := l.finished + 1 } else l }
  (s1.mapPart n.part fun x => { x with returns := x.returns.filter fun i => i != n.id }).detachNb n.id

/-- The engine-queue entries and island requests of a partition are discarded (R40). -/
def Slot.dropPart (x : Slot) (p : Nat) : Slot :=
  { x with queue := x.queue.filter fun r => r.part != p, tris := x.tris.filter fun t => t.part != p,
           cache := x.cache.filter fun l => l.part != p }

def Core.dropPart (c : Core) (p : Nat) : Core :=
  { c with
      waits := (c.waits.map fun e => if e.part = p then { e with wake := true, waiters := 0 } else e).filter fun e =>
        !(e.wake && e.posted)
      copyQ := c.copyQ.filter fun e => e.part != p
      wbQ := c.wbQ.filter fun e => e.part != p
      slotA := c.slotA.dropPart p
      slotB := c.slotB.dropPart p }

/-- A neighbourhood that is cancelled before any of its teams starts gives back the advance that it was charged (R77). -/
def State.returnAdvance (s : State) (n : Nb) : State :=
  match s.launch? n.launch with
  | none => s
  | some l =>
    if n.phase = .requested ∧ n.advance ∧ !l.started then s.mapQueue l.part l.queue fun q => q.credit (l.prm.teams * s.advance)
    else s

/-- The partition's teams are killed whole (R40): charged as departures, with the neighbourhoods that are not wholly on the
return list, their barriers, engine entries, island requests and lines. -/
def State.killTeams (s : State) (p : Nat) : State :=
  let s1 := (s.teams.filter fun t => t.part == p).foldl (fun s t => s.departTeam t false) s
  let out := s.nbs.filter fun n => n.part == p && (decide (n.phase ≠ .waiting) || s.teams.any fun t => t.nb == n.id)
  let gone := out.map (·.id)
  let s2 := out.foldl State.returnAdvance (gone.foldl State.detachNb s1)
  { s2 with
      nbs := s2.nbs.filter fun n => !gone.contains n.id
      cores := s2.cores.map fun c => c.dropPart p }

/-- Work that slots and the return list hold is discarded without charge (R88). -/
def State.discardWork (s : State) (p : Nat) : State :=
  let gone := (s.nbs.filter fun n => n.part == p).map (·.id)
  let s1 := gone.foldl State.detachNb s
  let s2 : State := { s1 with
    nbs := s1.nbs.filter fun n => n.part != p
    launches := s1.launches.filter fun l => l.part != p }
  s2.mapPart p fun x => { x with
    returns := [], offers := [], deferred := []
    queues := x.queues.map fun q => { q with deficit := 0, slot := none, started := [] }
    mailboxes := x.mailboxes.map fun m => { m with slot := none } }

/-- The partition enters STOPPED (R40). -/
def State.stopPart (s : State) (p : Nat) : State := (s.killTeams p).mapPart p fun x => { x with st := .stopped }

/-- The partition that the table port's command in progress names (R36). -/
def TablePort.target (t : TablePort) : Option Nat := t.cmd.map fun c => bits c.toNat 55 48

/-- A kill-class fault on a partition (R40, R178): one KIND 7 record, and STOPPED, after a table port command in progress for
the partition has completed, a RESET among them. Any other partition that is not RUNNABLE has only its flight-log entry, which
the caller writes. -/
def State.killClass (s : State) (p cause info core slot agent : Nat) : State :=
  if ((s.getPart p).st ≠ .runnable ∧ (s.getPart p).st ≠ .resetting) ∨ p = 0 ∨ s.tbl.stops.contains p then s
  else
    let s1 := s.post p (FaultRec.of cause 7 0 0 core slot agent 0 info 0 0)
    if s.tbl.target = some p then { s1 with tbl := { s1.tbl with stops := p :: s1.tbl.stops } } else s1.stopPart p

/-- An uncorrectable error at an address, found by a read or by the scrubber (R10, R11, R31). R11 has the gondola write the
entry where partition 0 owns the frame and names no SOURCE and EVENT for it: the entry is the one that R31 lists for the
detection (DESIGN CHOICE, log entry 75). -/
def State.uncorrectable (s : State) (pa : Nat) (scrub : Bool) : State :=
  let own := s.frameOwner pa
  let s1 := (s.countBad pa).flight (if scrub then 0x04 else 0x03) (if scrub then 0x03 else 0x39) (ownerByte own) (blockData pa)
  match own with
  | none => s1
  | some p => if p = 0 then s1.warmReset 1 else s1.killClass p 0x39 (blockData pa) 0 0 0

/-- What a read of tables or of memory leads to: a bad block that it meets is a machine check (R10, R11). -/
def State.unlessBad (s : State) (bad : Option Nat) (k : State) : State :=
  match bad with
  | some a => s.uncorrectable a false
  | none => k

/-- The candidate image's bytes that the ROM reads: the header, and the body that it announces (R42, R45). -/
def State.imageLen (s : State) (addr : Nat) : Nat := 0x80 + min (s.homeNat (addr + 0xC) 4) (4 * 2 ^ 20)

/-- BOOT_RECOVER (R44, R45): in recovery only, the candidate image in GDDR7 is verified; one that passes is programmed into
the flash and a warm reset follows, one that fails sets the state to 2. An address that is not 4 KiB aligned or lies past the
usable memory names no image, and the write is ignored (DESIGN CHOICE, log entry 90). An image that cannot be read does not pass,
beside what R10 and R11 do (DEDUCED, log entry 90). -/
def execBootRecover (addr : Nat) (s : State) : Out :=
  if s.boot.stat = 0 ∨ addr % 4096 ≠ 0 ∨ s.capacity ≤ addr then .next s
  else
    let rejected : State := { s with boot := { s.boot with stat := 2 } }
    match (s.badIn addr 0x80).orElse fun _ => s.badIn addr (s.imageLen addr) with
    | some a => .next (rejected.uncorrectable a false)
    | none =>
      let img := s.homeBytes addr (s.imageLen addr)
      match checkFirmware s.fuses img with
      | none => .next rejected
      | some _ => .next (({ s with flash := img } : State).warmReset 2)

/-- PATROL_SCRUB (R8, R10): `kind` 0 is a correctable error and 1 an uncorrectable one that the scrubber finds; 2 and 3 are
the same found by a read that is no step of its own (a table walk, an island, scan-out); 4 is the block going bad. -/
def execPatrolScrub (addr kind : Nat) (s : State) : Out :=
  if s.capacity ≤ addr then .next s
  else
    match kind with
    | 0 => .next (s.corrected addr true)
    | 1 => .next (s.uncorrectable addr true)
    | 2 => .next (s.corrected addr false)
    | 3 => .next (s.uncorrectable addr false)
    | 4 => .next (s.markBad (blockOf addr))
    | _ => .next s

/-- INFO of ECC_REGFILE (R166). -/
def infoRegfile (core : Nat) (arr : Byte) : Nat := core % 2 ^ 7 + arr.toNat % 16 * 2 ^ 8

/-- ECC_REGFILE (R178): every partition that holds data in the failing entry stops. -/
def execEccRegfile (core : Nat) (arr : Byte) (parts : List Nat) (s : State) : Out :=
  .next (parts.foldl (fun s p =>
    (s.flight 0x01 0x3A p (infoRegfile core arr)).killClass p 0x3A (infoRegfile core arr) core 0 0) s)

/-- SINGLE_BIT_ERROR_CORRECTED (R178): corrected in place, whatever array of the core it is in, and counted. No register
shows the count (log entry 16). -/
def execSingleBitErrorCorrected (core : Nat) (_arr : Byte) (s : State) : Out :=
  .next (s.mapCore core fun c => { c with corrected := c.corrected + 1 })

/-- A write to a system register other than the boot registers: it is ignored while the ROM is in recovery (R46). -/
def State.regWrite (s : State) (f : State → State) : Out := .next (if s.boot.stat = 0 then f s else s)

/-- MC_CECNT_CLEAR (R9). -/
def execMcCecntClear (c : Nat) (s : State) : Out := s.regWrite fun s => { s with cecnt := modifyAt s.cecnt c fun _ => 0 }

/-- MC_UECNT_CLEAR (R9). -/
def execMcUecntClear (c : Nat) (s : State) : Out := s.regWrite fun s => { s with uecnt := modifyAt s.uecnt c fun _ => 0 }

end Sys2Proof.Machine
end

