-- ==== Sys2Proof/Machine/Access.lean ====
section
/-!
DEFINITION. Accesses through a capability and to scratchpads: lane offsets (R323), the issuing-unit checks in the order of
R117, the home checks of every lane (R34, R119, R139), watches (R298), scratchpads and the window (R125, R126).
-/
namespace Sys2Proof.Machine

/-- A failed check of one lane. -/
structure Fail where
  cause : Nat
  info : Nat
  lane : Nat
  handle : Nat
  park : Bool
  page : Nat
  deriving DecidableEq, Repr

/-- A failed check as an instruction's answer. A walk that meets a bad block is a machine check, and the access does not take
place (R10, R11). -/
def Fail.res (e : Fail) (s : State) : Res :=
  if e.cause = 0x39 then .stay (s.uncorrectable e.info false)
  else if e.park then .park s e.cause e.handle e.page e.lane
  else .trap s { code := e.cause, info := e.info, lane := e.lane, handle := e.handle, next := false }

/-- What an instruction does with an object that its handle names, without an access: the failure of R34, the machine check of
a table or halo record that cannot be read (R10, R11), or the object index and descriptor. -/
def State.withObject (s : State) (part handle : Nat) (fail : Nat → Res) (k : Nat → Nat → Res) : Res :=
  match s.lookupHandle part handle with
  | .error e =>
    match s.walkBad part handle with
    | some a => .stay (s.uncorrectable a false)
    | none => fail e
  | .ok (obj, d) =>
    match s.haloBad d with
    | some a => .stay (s.uncorrectable a false)
    | none => k obj d

/-- The first lane of the first group of 2^LIMB lanes that a mask holds only in part, while limbs are bound (R113, R324). The
group is what fails the check, so its lowest lane fills LANE (R164; DEDUCED, log entry 18). -/
def Team.limbShape (t : Team) (m : LaneMask) : Option Nat :=
  if t.limb = 0 then none
  else
    let n := 2 ^ t.limb
    let part (k : Nat) : Bool :=
      let l := (List.range n).map fun i => m.getLsbD (k * n + i)
      l.any id && !l.all id
    ((List.range (t.lanes / n)).find? part).map fun k => k * n

/-- The unwrapped value of an affine address at a lane (R100). -/
def unwrapped (a : Word × Word) (l : Nat) : Int := (a.1.toNat : Int) + a.2.toInt * (l : Int)

def wraps (u : Int) : Bool := decide (u < 0) || decide ((2 ^ 32 : Nat) ≤ u)

/-- An affine address use: AW if any launched lane wraps, and the first lane of the mask that does (R100). -/
def Team.affineUse (t : Team) (o : Opd) (m : LaneMask) : Team × Option (Nat × Int) :=
  match o with
  | .a r =>
    let a := t.readA r
    let any := (List.range t.lanes).any fun l => t.launched.getLsbD l && wraps (unwrapped a l)
    let bad := (List.range t.lanes).find? fun l => m.getLsbD l && wraps (unwrapped a l)
    ({ t with aw := t.aw || any }, bad.map fun l => (l, unwrapped a l))
  | .v _ => (t, none)
  | .s _ => (t, none)
  | .imm _ => (t, none)

/-- The lane offsets of a memory instruction, lowest lane first: the unsigned per-lane value plus the displacement, an exact
sum (R323). -/
def Team.laneOffsets (t : Team) (o : Opd) (disp : Nat) (m : LaneMask) : List (Nat × Nat) :=
  let row := t.readOpd immZext o
  (lanesOf t.lanes m).map fun l => (l, (laneWord row l).toNat + disp)

/-- The lanes that an instruction acts in: stores, reductions, atomics and copies leave helper lanes out (R111, R324). -/
def Team.liveMask (t : Team) (m : LaneMask) : LaneMask := m &&& ~~~t.helper

/-- The frame of an instruction that addresses memory by lanes: LIMB_SHAPE before any check (R324), AW and AFFINE_WRAP first
of them (R100, R117), then the body with the lane offsets. -/
def State.memFrame (s : State) (f : Fields) (g : Guard) (us : List RegUse) (off : Opd) (disp : Nat) (live : Bool)
    (body : State → Team → LaneMask → List (Nat × Nat) → Res) : Out :=
  s.varyingOp f g (opdUse 1 off ++ us) fun t m =>
    match t.limbShape m with
    | some l => .trap s { code := 0x1B, info := infoM m l, lane := l, handle := 0, next := false }
    | none =>
      let act := if live then t.liveMask m else m
      let (t1, wrap) := t.affineUse off act
      let s1 := s.setTeam t1
      match wrap with
      | some (l, u) => .trap s1 { code := 0x11, info := ofSigned 64 u, lane := l, handle := 0, next := false }
      | none => body s1 t1 m (t1.laneOffsets off disp act)

/-- The cause of a missing right (R116). -/
def rightCause (bitNo : Nat) : Nat :=
  match bitNo with
  | 20 => 0x23
  | 21 => 0x24
  | 22 => 0x25
  | 23 => 0x26
  | 24 => 0x23
  | 25 => 0x24
  | 26 => 0x23
  | _ => 0x27

/-- The issuing-unit checks of R117 after the affine wrap: rights, alignment, bounds; the first check that any lane fails
decides, and its lowest lane. `align` is the unit that base and offset together must be a multiple of. -/
def capChecks (c : Cap) (rights : List Nat) (size align : Nat) (offs : List (Nat × Nat)) : Option Fail :=
  let h := Cap.handle c
  let b := Cap.base c
  let mk (cause detail : Nat) (p : Nat × Nat) : Fail :=
    { cause := cause, info := infoA (b + p.2) detail, lane := p.1, handle := h, park := false, page := 0 }
  match offs with
  | [] => none
  | first :: _ =>
    match missingRight (Cap.rights c) rights with
    | some r => some (mk (rightCause r) r first)
    | none =>
      match offs.find? fun p => (b + p.2) % align != 0 with
      | some p => some (mk 0x2A size p)
      | none =>
        (offs.find? fun p => decide (Cap.length c < p.2 + size) || decide (2 ^ 48 ≤ b + p.2)).map (mk 0x22 size)

/-- The place of a home check's cause in the order of R34 and R119; a walk that cannot be made comes first (R11). -/
def homeStage (cause : Nat) : Nat :=
  match cause with
  | 0x39 => 0
  | 0x20 => 1
  | 0x21 => 1
  | 0x35 => 2
  | 0x29 => 3
  | 0x28 => 4
  | 0x36 => 5
  | 0x2D => 7
  | _ => 6

/-- A lane's access after its checks: lane, object offset and translation. -/
structure Acc where
  lane : Nat
  off : Nat
  xl : Xl
  deriving DecidableEq, Repr

/-- The home checks of every lane (R119, R324): the earliest check that any lane fails decides, and its lowest lane. -/
def State.homeChecks (s : State) (part handle size : Nat) (rights : List Nat) (nonres : Nat) (offs : List (Nat × Nat)) :
    Except Fail (List Acc) :=
  let rs := offs.map fun p => (p, s.translate part handle p.2 size rights nonres)
  let failAt (k : Nat) : Option Fail := rs.findSome? fun r =>
    match r.2 with
    | .error e =>
      if homeStage e.cause = k then
        some { cause := e.cause, info := e.info, lane := r.1.1, handle := handle, park := e.park, page := e.page }
      else none
    | .ok _ => none
  match (List.range 8).findSome? failAt with
  | some e => .error e
  | none => .ok (rs.filterMap fun r =>
      match r.2 with
      | .error _ => none
      | .ok x => some { lane := r.1.1, off := r.1.2, xl := x })

/-- The foreign-write check of a store, atomic or reduction by a team (R139, R327, R330). -/
def State.foreignFail (s : State) (t : Team) (handle size : Nat) (accs : List Acc) : Option Fail :=
  (accs.find? fun a => s.foreignWrite t.part a.xl.obj a.xl.desc a.off size (some (t.nb, t.rank))).map fun a =>
    { cause := 0x3E, info := infoA a.off size, lane := a.lane, handle := handle, park := false, page := 0 }

/-- The lanes' stores, atomics or reductions that pass the checks are noted in round regions (R144). -/
def State.noteAccs (s : State) (t : Team) (size : Nat) (accs : List Acc) : State :=
  accs.foldl (fun (s : State) a => s.noteStore t.part a.xl.obj a.xl.desc a.off size (some (t.nb, t.rank))) s

/-- Every check of an access through a capability (R117, R119, R139). -/
def State.access (s : State) (t : Team) (c : Cap) (rights : List Nat) (size : Nat) (nonres : Nat) (write : Bool)
    (offs : List (Nat × Nat)) : Except Fail (List Acc) :=
  match capChecks c rights size size offs with
  | some e => .error e
  | none =>
    match s.homeChecks t.part (Cap.handle c) size rights nonres (offs.map fun p => (p.1, Cap.base c + p.2)) with
    | .error e => .error e
    | .ok l =>
      if write then
        match s.foreignFail t (Cap.handle c) size l with
        | some e => .error e
        | none => .ok l
      else .ok l

/-- WATCH_HIT of an access of a selected kind, for the lowest lane that overlaps the watched range (R298). -/
def Team.watch (t : Team) (loads stores : Bool) (handle size : Nat) (accs : List Acc) : List Cause :=
  if t.inTrap || t.wlen == 0 || !((loads && t.dbg.getLsbD 1) || (stores && t.dbg.getLsbD 2)) || handle != t.whnd then []
  else
    match accs.find? fun a => decide (a.off < t.woff + t.wlen) && decide (t.woff < a.off + size) with
    | some a => [{ code := 0x0E, info := infoA a.off size, lane := a.lane, handle := handle, next := false }]
    | none => []

/-- Access size, registers and sign of a width (R262, R325). -/
def widthSize (wd : BitVec 3) : Nat :=
  match wd.toNat with
  | 0 => 1
  | 1 => 2
  | 2 => 4
  | 3 => 8
  | 4 => 16
  | 5 => 1
  | _ => 2

def widthRegs (wd : BitVec 3) : Nat :=
  match wd.toNat with
  | 3 => 2
  | 4 => 4
  | _ => 1

def widthSigned (wd : BitVec 3) : Bool := decide (5 ≤ wd.toNat)

/-- The words that a load of `n` bytes delivers (R325). -/
def loadWords (n : Nat) (signed : Bool) (bs : List Byte) : List Word :=
  if n = 8 then [BitVec.ofNat 32 (leNat (bs.take 4)), BitVec.ofNat 32 (leNat (bs.drop 4))]
  else
    let x := leNat bs
    [if signed then BitVec.ofInt 32 (toSigned (8 * n) x) else BitVec.ofNat 32 x]

/-- The bytes of a lane's register group, lowest register first (R325). -/
def Team.groupBytes (t : Team) (r : Spec) (size lane : Nat) : List Byte :=
  leBytes size ((List.range ((size + 3) / 4)).foldl
    (fun acc i => acc + (laneWord (t.readV (if r = 0xFF then r else r + BitVec.ofNat 8 i)) lane).toNat * 2 ^ (32 * i)) 0)

/-- The scratchpad of a rank of a neighbourhood (R126). -/
def State.pad (s : State) (nb rank : Nat) : List Host.Cell :=
  match s.rankTeam? nb rank with
  | some t => t.scratch
  | none =>
    match s.nb? nb with
    | none => []
    | some n => ((n.pads.find? fun p => p.1 == rank).map (·.2)).getD []

/-- Write bytes into a rank's scratchpad. -/
def State.setPad (s : State) (nb rank off : Nat) (bs : List Byte) : State :=
  match s.rankTeam? nb rank with
  | some t => s.setTeam { t with scratch := cellSet 0 t.scratch off bs }
  | none => s.mapNb nb fun n => { n with pads := n.pads.map fun p => if p.1 = rank then (p.1, cellSet 0 p.2 off bs) else p }

/-- A scratchpad access of a lane after its checks: rank and byte offset (R125, R126). -/
structure PadAcc where
  lane : Nat
  rank : Nat
  off : Nat
  deriving DecidableEq, Repr

/-- The checks of a scratchpad or window access: alignment, then bounds (R125, R126, R329). -/
def Team.padChecks (t : Team) (win : Bool) (size : Nat) (offs : List (Nat × Nat)) : Except Fail (List PadAcc) :=
  let mk (cause : Nat) (p : Nat × Nat) : Fail :=
    { cause := cause, info := infoA p.2 size, lane := p.1, handle := 0, park := false, page := 0 }
  match offs.find? fun p => p.2 % size != 0 with
  | some p => .error (mk 0x2A p)
  | none =>
    let top := if win then t.prm.teams * t.prm.scratch else t.prm.scratch
    match offs.find? fun p => decide (top < p.2 + size) with
    | some p => .error (mk (if win then 0x2C else 0x2B) p)
    | none =>
      .ok (offs.map fun p =>
        if win then { lane := p.1, rank := p.2 / t.prm.scratch, off := p.2 % t.prm.scratch }
        else { lane := p.1, rank := t.rank, off := p.2 })

/-- A program-order stamp for one instruction (log entry 4). -/
def State.stamp (s : State) : State := { s with nextSeq := s.nextSeq + 1 }

end Sys2Proof.Machine
end

