-- ==== Sys2Proof/Machine/Memory.lean ====
section
/-!
DEFINITION. The memory instructions at issue (R277, R323-R337): checks, then the entries that they leave in the team's store
queue, pending loads and pending atomics; fences, RREL and the range operations. What happens to the entries stands in
Machine/MemSys.lean.
-/
namespace Sys2Proof.Machine

/-- The pending items of one lane's load: one of at most 8 bytes, or two halves of 16 (R324). -/
def loadItems (seq size : Nat) (signed : Bool) (rq hint : Nat) (cls : Nat) (reg lane : Nat) (place : Nat → Place) :
    List PendLoad :=
  let n := min size 8
  (List.range (size / n)).map fun h =>
    { seq := seq, place := place (8 * h), size := n, signed := signed, rq := rq, hint := hint,
      target := { cls := cls, reg := reg + 2 * h, lane := lane, ySlot := 0, first := h == 0, n := (n + 3) / 4 },
      bound := none, got := none }

/-- The register group of a load destination, or of the data of a store (R325). -/
def groupUse (pos : Nat) (r : Spec) (dst : Bool) (n : Nat) : RegUse := ⟨pos, .v, r, dst, n, n⟩

/-- LD (R326): every check, then one pending load per lane. -/
def execLd (b : Bool) (g : Guard) (wd : BitVec 3) (d : Spec) (off : Opd) (c : Spec) (n : Byte) (rq h : BitVec 2) (s : State) :
    Out :=
  let size := widthSize wd
  s.memFrame (encLd b g wd d off c n rq h) g [groupUse 0 d true (widthRegs wd), RegUse.src 2 .c c] off (n.toNat * size) false
    fun s t m offs =>
      let cap := t.readC c
      match s.access t cap [20] size 0x30 false offs with
      | .error e => e.res s
      | .ok accs =>
        let items := accs.flatMap fun a =>
          loadItems s.nextSeq size (widthSigned wd) rq.toNat h.toNat 1 d.toNat a.lane fun k =>
            .obj (Cap.handle cap) (a.off + k) (a.xl.pa + k)
        let t1 := t.advanceYPending m
        .ok { s := (s.setTeam { t1 with loads := t1.loads ++ items }).stamp, pc := none, ends := false,
              after := t.watch true false (Cap.handle cap) size accs }

/-- The store-queue entries of one lane: at most 8 bytes each (R324). -/
def storeItems (seq : Nat) (kind : StoreKind) (handle hint : Nat) (a : Acc) (bs : List Byte) : List StoreEntry :=
  (List.range ((bs.length + 7) / 8)).map fun k =>
    { seq := seq, kind := kind, handle := handle, off := a.off + 8 * k, pa := a.xl.pa + 8 * k,
      bytes := (bs.drop (8 * k)).take 8, lane := a.lane, hint := hint }

/-- The store type by RQ (R135). -/
def storeKind (rq : BitVec 2) : StoreKind :=
  if rq = 0 then .own else if rq = 1 then .writeThrough else .nonAlloc

/-- ST (R327): every check, then entries in the team's store queue, lowest lane first; a store to a round region is .W. -/
def execSt (b : Bool) (g : Guard) (wd : BitVec 3) (d : Spec) (off : Opd) (c : Spec) (n : Byte) (rq h : BitVec 2) (s : State) :
    Out :=
  let size := widthSize wd
  s.memFrame (encSt b g wd d off c n rq h) g [groupUse 0 d false (widthRegs wd), RegUse.src 2 .c c] off (n.toNat * size) true
    fun s t _ offs =>
      let cap := t.readC c
      match s.access t cap [21] size 0x30 true offs with
      | .error e => e.res s
      | .ok accs =>
        let items := accs.flatMap fun a =>
          storeItems s.nextSeq (if ODesc.isRound a.xl.desc then .writeThrough else storeKind rq) (Cap.handle cap) h.toNat a
            (t.groupBytes d size a.lane)
        .ok { s := ((s.noteAccs t size accs).setTeam { t with storeQ := t.storeQ ++ items }).stamp, pc := none, ends := false,
              after := t.watch false true (Cap.handle cap) size accs }

/-- CODE as far as SLDC reaches: an offset sum of 2^32 or more is out of bounds, however long the object is (R277). -/
def codeReach (c : Cap) : Cap :=
  if 2 ^ 32 < Cap.length c then Cap.make (Cap.handle c) (Cap.rights c) (Cap.base c) (2 ^ 32) else c

/-- SLDC (R277): an .I load of the code image through CODE with right X; the offset is the exact sum of the two registers. -/
def State.sldc (s : State) (f : Fields) (g : Guard) (d x y : Spec) (n : Nat) : Out :=
  s.uniformOp f g [⟨0, .s, d, true, n, n⟩, RegUse.src 1 .s x, RegUse.src 2 .s y] true fun t =>
    let o := (t.readS x).toNat + (t.readS y).toNat
    let cap := codeReach t.prm.code
    match s.access t cap [23] (4 * n) 0x30 false [(0, o)] with
    | .error e => e.res s
    | .ok accs =>
      let items := accs.flatMap fun a => loadItems s.nextSeq (4 * n) false 0 0 2 d.toNat 0 fun k =>
        .obj (Cap.handle cap) (a.off + k) (a.xl.pa + k)
      .ok { s := (s.setTeam { t with loads := t.loads ++ items }).stamp, pc := none, ends := false,
            after := t.watch true false (Cap.handle cap) (4 * n) accs }

/-- SLDC.W32 (R277). -/
def execSldcW32 (b : Bool) (g : Guard) (d x y : Spec) (s : State) : Out := s.sldc (encSldcW32 b g d x y) g d x y 1

/-- SLDC.W64 (R277). -/
def execSldcW64 (b : Bool) (g : Guard) (d x y : Spec) (s : State) : Out := s.sldc (encSldcW64 b g d x y) g d x y 2

/-- A uniform operand class never fails its lane: traps of SLDC name lane 0. The round region of an LDB lane, and whether a
.W64 access lies within one element or two elements of one tile (R328). -/
def State.ldbFail (s : State) (handle size : Nat) (accs : List Acc) : Option Fail :=
  let bad (a : Acc) : Bool :=
    match s.halo? a.xl.desc with
    | none => true
    | some h =>
      match h.tileOf a.off with
      | none => true
      | some k =>
        if size = 4 then false
        else if h.esz = 3 then false
        else if h.esz = 2 then decide (h.tileOf (a.off + 4) ≠ some k)
        else true
  (accs.find? bad).map fun a =>
    { cause := 0x2D, info := infoA a.off size, lane := a.lane, handle := handle, park := false, page := 0 }

/-- Every lane of a bounded load served: its destinations are written and the instruction completes (R328). -/
def State.ldbDone (s : State) (t : Team) (m : LaneMask) (size handle : Nat) : Res :=
  let mine := t.loads.filter fun p => p.bound.isSome
  let t0 : Team := { t with loads := t.loads.filter fun p => p.bound.isNone, inLdb := false }
  let t1 := t0.advanceYPending m
  let t2 := mine.foldl (fun t p => t.deliver p.target (loadWords p.size p.signed (leBytes p.size (p.got.getD 0)))) t1
  let accs : List Acc := mine.filterMap fun p =>
    match p.place with
    | .obj _ off pa => some { lane := p.target.lane, off := off, xl := { obj := 0, desc := 0, pa := pa, page := 0, entryAddr := 0 } }
    | .scratch _ _ => none
    | .again _ _ => none
  .ok { s := s.setTeam t2, pc := none, ends := false, after := t.watch true false handle size accs }

/-- LDB (R143, R328). The first execution checks every lane and leaves a bounded load per lane; the team then holds its port
at the instruction, and an execution that finds every lane served completes it. -/
def execLdb (b : Bool) (g : Guard) (wd : BitVec 3) (d : Spec) (off : Opd) (c n : Spec) (h m : BitVec 2) (s : State) : Out :=
  let size := widthSize wd
  let us := [groupUse 0 d true (widthRegs wd), RegUse.src 2 .c c] ++ if m.getLsbD 0 then [] else [RegUse.src 3 .s n]
  s.memFrame (encLdb b g wd d off c n h m) g us off 0 false fun s t msk offs =>
    let cap := t.readC c
    let handle := Cap.handle cap
    if t.inLdb then
      if t.loads.all (fun p => p.bound.isNone || p.got.isSome) then s.ldbDone t msk size handle else .stay s
    else
      match s.access t cap [24] size 0x30 false offs with
      | .error e => e.res s
      | .ok accs =>
        match s.ldbFail handle size accs with
        | some e => e.res s
        | none =>
          match accs.head? with
          | none => .done s
          | some a0 =>
            match s.halo? a0.xl.desc with
            | none => .done s
            | some halo =>
              let s1 := s.useRound t.core t.part handle a0.xl.obj halo
              let known := (((s1.getCore t.core).round? t.part handle).map (·.known)).getD 0
              let bnd := if m.getLsbD 0 then known - n.toNat else (t.readS n).toNat
              let items := accs.flatMap fun a =>
                (loadItems s.nextSeq size false 0 h.toNat 1 d.toNat a.lane fun k =>
                  .obj handle (a.off + k) (a.xl.pa + k)).map fun p =>
                    { p with bound := some (bnd, !m.getLsbD 1), target := { p.target with cls := 1 } }
              .stay (s1.setTeam { t with loads := t.loads ++ items, inLdb := true, sleepClk := s.clk }).stamp

/-- LDS (R329): a pending load per lane from the team's own scratchpad or the window. -/
def execLds (b : Bool) (g : Guard) (wd : BitVec 3) (d : Spec) (off : Opd) (n : Byte) (win : Bool) (s : State) : Out :=
  let size := widthSize wd
  s.memFrame (encLds b g wd d off n win) g [groupUse 0 d true (widthRegs wd)] off (n.toNat * size) false fun s t m offs =>
    match t.padChecks win size offs with
    | .error e => e.res s
    | .ok accs =>
      let items := accs.flatMap fun a =>
        loadItems s.nextSeq size (widthSigned wd) 0 0 1 d.toNat a.lane fun k => .scratch a.rank (a.off + k)
      let t1 := t.advanceYPending m
      .done (s.setTeam { t1 with loads := t1.loads ++ items }).stamp

/-- STS (R329): a pending store per lane, lowest lane first. -/
def execSts (b : Bool) (g : Guard) (wd : BitVec 3) (d : Spec) (off : Opd) (n : Byte) (win : Bool) (s : State) : Out :=
  let size := widthSize wd
  s.memFrame (encSts b g wd d off n win) g [groupUse 0 d false (widthRegs wd)] off (n.toNat * size) true fun s t _ offs =>
    match t.padChecks win size offs with
    | .error e => e.res s
    | .ok accs =>
      let items : List WinStore := accs.flatMap fun a =>
        let bs := t.groupBytes d size a.lane
        (List.range ((size + 7) / 8)).map fun k =>
          { seq := s.nextSeq, rank := a.rank, off := a.off + 8 * k, bytes := (bs.drop (8 * k)).take 8 }
      .done (s.setTeam { t with winStores := t.winStores ++ items }).stamp

/-- A 32- or 64-bit operand of an atomic in a lane. -/
def Team.pairValue (t : Team) (r : Spec) (n lane : Nat) : DWord :=
  BitVec.ofNat 64 (leNat (t.groupBytes r (4 * n) lane))

/-- Helper lanes of an atomic return 0 (R324). -/
def Team.zeroHelpers (t : Team) (m : LaneMask) (d : Spec) (n : Nat) : Team :=
  (lanesOf t.lanes (m &&& t.helper)).foldl (fun t l =>
    t.deliver { cls := 1, reg := d.toNat, lane := l, ySlot := 0, first := true, n := n } (List.replicate n 0)) t

/-- The pending atomic of one lane (R330, R331). -/
def Team.atomItem (t : Team) (seq n op : Nat) (y z : Spec) (lane : Nat) (place : Place) (target : Target)
    (loc acq rel : Bool) (hint : Nat) : PendAtomic :=
  { seq := seq, place := place, size := 4 * n, op := op, b := t.pairValue y n lane,
    c := if op = 9 then t.pairValue z n lane else 0, target := target, loc := loc, acquire := acq, release := rel, hint := hint }

/-- Registers of an atomic's operands: S4, and S5 for .CAS (R330). -/
def atomUses (n : Nat) (y z : Spec) (o : Byte) : List RegUse :=
  groupUse 4 y false n :: if o = 9 then [groupUse 5 z false n] else []

/-- ATOM (R330-R334). -/
def execAtom (b : Bool) (g : Guard) (wd : BitVec 3) (d : Spec) (off : Opd) (c : Spec) (n : Byte) (loc : Bool) (h m : BitVec 2)
    (y z o : Spec) (s : State) : Out :=
  let size := widthSize wd
  let k := widthRegs wd
  s.memFrame (encAtom b g wd d off c n loc h m y z o) g
    ([groupUse 0 d true k, RegUse.src 2 .c c] ++ atomUses k y z o) off (n.toNat * size) true fun s t msk offs =>
    let cap := t.readC c
    match s.access t cap [22] size 0x31 true offs with
    | .error e => e.res s
    | .ok accs =>
      let items := accs.map fun a =>
        t.atomItem s.nextSeq k o.toNat y z a.lane (.obj (Cap.handle cap) a.off a.xl.pa)
          { cls := 1, reg := d.toNat, lane := a.lane, ySlot := 0, first := true, n := k } loc (m.getLsbD 0) (m.getLsbD 1)
          h.toNat
      let t1 := (t.advanceYPending msk).zeroHelpers msk d k
      .ok { s := ((s.noteAccs t size accs).setTeam { t1 with atomics := t1.atomics ++ items }).stamp, pc := none, ends := false,
            after := t.watch true true (Cap.handle cap) size accs }

/-- RED (R330-R334): an atomic without a result. -/
def execRed (b : Bool) (g : Guard) (wd : BitVec 3) (off : Opd) (c : Spec) (n : Byte) (loc : Bool) (h : BitVec 2) (rel : Bool)
    (y o : Spec) (s : State) : Out :=
  let size := widthSize wd
  let k := widthRegs wd
  s.memFrame (encRed b g wd off c n loc h rel y o) g [RegUse.src 2 .c c, groupUse 4 y false k] off (n.toNat * size) true
    fun s t _ offs =>
      let cap := t.readC c
      match s.access t cap [22] size 0x31 true offs with
      | .error e => e.res s
      | .ok accs =>
        let items := accs.map fun a =>
          t.atomItem s.nextSeq k o.toNat y y a.lane (.obj (Cap.handle cap) a.off a.xl.pa)
            { cls := 0, reg := 0, lane := a.lane, ySlot := 2, first := false, n := 0 } loc false rel h.toNat
        .ok { s := ((s.noteAccs t size accs).setTeam { t with atomics := t.atomics ++ items }).stamp, pc := none, ends := false,
              after := t.watch false true (Cap.handle cap) size accs }

/-- ATOMS (R330-R334): an atomic on the scratchpad or the window. -/
def execAtoms (b : Bool) (g : Guard) (wd : BitVec 3) (d : Spec) (off : Opd) (n : Byte) (win : Bool) (m : BitVec 2)
    (y z o : Spec) (s : State) : Out :=
  let size := widthSize wd
  let k := widthRegs wd
  s.memFrame (encAtoms b g wd d off n win m y z o) g (groupUse 0 d true k :: atomUses k y z o) off (n.toNat * size) true
    fun s t msk offs =>
      match t.padChecks win size offs with
      | .error e => e.res s
      | .ok accs =>
        let items := accs.map fun a =>
          t.atomItem s.nextSeq k o.toNat y z a.lane (.scratch a.rank a.off)
            { cls := 1, reg := d.toNat, lane := a.lane, ySlot := 0, first := true, n := k } false (m.getLsbD 0) (m.getLsbD 1) 0
        let t1 := (t.advanceYPending msk).zeroHelpers msk d k
        .done (s.setTeam { t1 with atomics := t1.atomics ++ items }).stamp

def Place.isObj : Place → Bool
  | .obj _ _ _ => true
  | .again _ _ => true
  | .scratch _ _ => false

/-- Every earlier load and atomic of the team on objects has performed (R335). -/
def Team.loadsDone (t : Team) : Bool := t.loads.all (fun p => !p.place.isObj) && t.atomics.all (fun p => !p.place.isObj)

/-- A mark in the store queue: the release of FENCE.REL or of an RREL (R335, R336). -/
def markEntry (seq : Nat) (kind : StoreKind) (handle : Nat) : StoreEntry :=
  { seq := seq, kind := kind, handle := handle, off := 0, pa := 0, bytes := [], lane := 0, hint := 0 }

/-- FENCE.ACQ (R335): waits for earlier loads and atomics, then self-invalidates. -/
def execFenceAcq (b : Bool) (s : State) : Out :=
  s.controlOp (encFenceAcq b) [] fun t =>
    if t.loadsDone then .done (s.selfInvalidate t.core t.part) else .stay s

/-- The marks of FENCE.REL at the head of a store queue whose precondition holds go (R150, R335). -/
def settleMarks (loads : List PendLoad) (atomics : List PendAtomic) : List StoreEntry → List StoreEntry
  | [] => []
  | e :: es =>
    if e.kind = .fence ∧ (loads.all fun q => decide (e.seq ≤ q.seq) || !q.place.isObj) ∧
        (atomics.all fun q => decide (e.seq ≤ q.seq) || !q.place.isObj) then settleMarks loads atomics es
    else e :: es

def Team.settleQ (t : Team) : Team := { t with storeQ := settleMarks t.loads t.atomics t.storeQ }

/-- FENCE.REL (R335): marks the store queue. A mark whose precondition already holds goes at once (R150, R162). -/
def execFenceRel (b : Bool) (s : State) : Out :=
  s.controlOp (encFenceRel b) [] fun t =>
    .done (s.setTeam ({ t with storeQ := t.storeQ ++ [markEntry s.nextSeq .fence 0] } : Team).settleQ).stamp

/-- FENCE.AR (R335): both; the team is held until its stores have drained too (log entry 19). -/
def execFenceAr (b : Bool) (s : State) : Out :=
  s.controlOp (encFenceAr b) [] fun t =>
    if t.loadsDone && t.storeQ.isEmpty then .done (s.selfInvalidate t.core t.part) else .stay s

/-- The byte range of a tile: its lowest offset and the end of its highest element (R138). -/
def Halo.tileRange (h : Halo) (tile : Nat) : Nat × Nat :=
  let w := h.gx * h.tw
  let x0 := tile % h.gx * h.tw
  let y0 := tile / h.gx * h.th
  ((y0 * w + x0) * 2 ^ h.esz, ((y0 + h.th - 1) * w + x0 + h.tw) * 2 ^ h.esz)

/-- RREL by a team of the attached instance, or on a region that is not attached: the rank owns a tile inside the capability
(R336); the region attaches (R139). A store of another party to the tile in the clk of the RREL faults whatever the order, so the
RREL comes in no clk in which such a store was taken as an ordinary one (R144). -/
def State.rrelOwned (s : State) (t : Team) (cap : Cap) (handle obj : Nat) (h : Halo) (bad : Nat → Nat → Res) : Res :=
  if h.gx * h.gy ≤ t.rank then bad 0x2D (infoA (Cap.base cap) 0)
  else
    let r := h.tileRange t.rank
    if r.1 < Cap.base cap ∨ Cap.base cap + Cap.length cap < r.2 then bad 0x22 (infoA r.1 (r.2 - r.1))
    else if s.storedThisClk t obj then .stay s
    else
      let s1 := (s.useRound t.core t.part handle obj h).mapRegion t.part obj fun x => { x with attached := some t.nb }
      .done (s1.setTeam { t with storeQ := t.storeQ ++ [markEntry s.nextSeq .rrel handle] }).stamp

/-- RREL (R139, R140, R336): checks, attachment and the entry that carries the release. A capability cause names lane 0. -/
def State.rrel (s : State) (f : Fields) (g : Guard) (c : Spec) : Out :=
  s.uniformOp f g [RegUse.src 1 .c c] false fun t =>
    let cap := t.readC c
    let handle := Cap.handle cap
    let bad (cause info : Nat) : Res := .trap s { code := cause, info := info, lane := 0, handle := handle, next := false }
    if !bit (Cap.rights cap) 4 then bad 0x23 (infoA (Cap.base cap) 24)
    else
      s.withObject t.part handle (fun e => bad e (infoA (Cap.base cap) 0)) fun obj d =>
        if !ODesc.ok d then .park s 0x35 handle 0 0
        else if !bit (ODesc.ceil d) 4 then bad 0x29 (infoA (Cap.base cap) 24)
        else
          match s.halo? d with
          | none => bad 0x2D (infoA (Cap.base cap) 0)
          | some h =>
            match ((s.region? t.part obj).bind (·.attached)) with
            | some inst =>
              if inst ≠ t.nb then bad 0x3E (infoA (Cap.base cap) 0) else s.rrelOwned t cap handle obj h bad
            | none => s.rrelOwned t cap handle obj h bad

/-- RREL, 32-bit form (R336). -/
def execRrel32 (b : Bool) (c : Spec) (s : State) : Out := s.rrel (encRrel32 b c) .always c

/-- RREL, 64-bit form (R336). -/
def execRrel64 (b : Bool) (g : Guard) (c : Spec) (s : State) : Out := s.rrel (encRrel64 b g c) g c

/-- The present words of a range of object offsets (R137, R337): physical word addresses, each with the bytes of it that lie in
the range and its object offset. -/
def State.rangeWords (s : State) (d lo hi : Nat) : List (Nat × BitVec 4 × Nat) :=
  (List.range ((hi + 3) / 4 - lo / 4)).filterMap fun i =>
    let off := lo / 4 * 4 + 4 * i
    let e := s.homeNat (ODesc.entryAddr d off) 8
    let cover : BitVec 4 := BitVec.ofNat 4 (maskOfList ((List.range 4).map fun j => decide (lo ≤ off + j) && decide (off + j < hi)))
    if bit e 0 && cover != 0 then some ((bits e 39 16 * 2 ^ 16 + off % 2 ^ ODesc.pageShift d) / 4, cover, off) else none

/-- The bad block that finding the words of a range meets in the frame entries of its pages (R10, R11). -/
def State.rangeBad (s : State) (d lo hi : Nat) : Option Nat :=
  if s.badBlocks.isEmpty ∨ hi ≤ lo then none
  else
    let p := 2 ^ ODesc.pageShift d
    (List.range ((hi - 1) / p + 1 - lo / p)).findSome? fun i => s.badIn (ODesc.faAddr d + 8 * (lo / p + i)) 8

/-- The owned word of a range that it covers in part: its dirty bytes inside the range are written back, or discarded for the home's,
and those outside stay dirty (R137). -/
def State.rangeEdge (s : State) (core : Nat) (write : Bool) (cover : BitVec 4) (x : L1Word) : State :=
  let s1 := if write then s.writeBack { x with dirty := x.dirty &&& cover } else s
  let data := (List.range 4).foldl (fun (d : Word) i =>
    if cover.getLsbD i then wordSetByte d i (cellGet Config.memDefault s1.mem (4 * x.addr + i)) else d) x.data
  s1.mapCore core fun c => c.setL1 { x with data := data, dirty := x.dirty &&& ~~~cover }

/-- A word of a range discarded (`write` false), written back and kept valid, or written back and invalidated (R137). An owned word
that the range covers in part keeps its dirty bytes outside it; another word goes or stays whole (DEDUCED, log entry 88). -/
def State.rangeWord (s : State) (core part : Nat) (write keep : Bool) (p : Nat × BitVec 4 × Nat) : State :=
  match (s.getCore core).l1For? part p.1 with
  | none => s
  | some x =>
    if p.2.1 ≠ 0xF#4 ∧ x.st = .owned then s.rangeEdge core write p.2.1 x
    else
      let s1 := if x.st = .owned then (if write then s.writeBack x else s).setOwner p.1 none else s
      if keep then
        if x.st = .owned then s1.mapCore core fun c => c.setL1 { x with st := .valid, dirty := 0 } else s1
      else s1.mapCore core fun c => c.dropL1 p.1

/-- An undrained store of the team, through whatever handle, names one of some words (R137, R337). -/
def Team.storesIn (t : Team) (ws : List (Nat × BitVec 4 × Nat)) : Bool :=
  t.storeQ.any fun e => (wordsOf e.pa e.bytes.length).any fun w => ws.any fun p => p.1 == w

/-- INVR, WBR and FLR (R137, R337): the checks in order, then the words of the range in the issuing L1, once the team's
earlier stores to them have drained. `right` is W or R. -/
def State.rangeOp (s : State) (f : Fields) (g : Guard) (x c y : Spec) (right : Nat) (write keep : Bool) : Out :=
  s.uniformOp f g [RegUse.src 1 .s x, RegUse.src 2 .c c, RegUse.src 3 .s y] false fun t =>
    let cap := t.readC c
    let handle := Cap.handle cap
    let a := (t.readS x).toNat
    let n := (t.readS y).toNat
    let lo := Cap.base cap + a
    let bad (cause info : Nat) : Res := .trap s { code := cause, info := info, lane := 0, handle := handle, next := false }
    if a % 4 ≠ 0 ∨ n % 4 ≠ 0 then bad 0x2A (infoA lo 4)
    else if Cap.length cap < a + n then bad 0x22 (infoA lo n)
    else if !bit (Cap.rights cap) (right - 20) then bad 0x2F (infoA lo right)
    else
      s.withObject t.part handle (fun e => bad e (infoA lo n)) fun _ d =>
        if !ODesc.ok d then .park s 0x35 handle 0 0
        else if ODesc.length d < lo + n then bad 0x28 (infoA lo n)
        else if t.storesIn (s.rangeWords d lo (lo + n)) then .stay s
        else if let some a := s.rangeBad d lo (lo + n) then .stay (s.uncorrectable a false)
        else .done ((s.rangeWords d lo (lo + n)).foldl (fun s w => s.rangeWord t.core t.part write keep w) s)

/-- INVR: discards without write-back (R137). -/
def execInvr (b : Bool) (g : Guard) (x c y : Spec) (s : State) : Out := s.rangeOp (encInvr b g x c y) g x c y 21 false false

/-- WBR: writes back, words stay valid (R137). -/
def execWbr (b : Bool) (g : Guard) (x c y : Spec) (s : State) : Out := s.rangeOp (encWbr b g x c y) g x c y 20 true true

/-- FLR: writes back and invalidates (R137). -/
def execFlr (b : Bool) (g : Guard) (x c y : Spec) (s : State) : Out := s.rangeOp (encFlr b g x c y) g x c y 20 true false

/-- A word filled valid from its home unless the L1 holds it (R134, R137). -/
def State.fillValid (s : State) (core part handle w : Nat) : State :=
  let s1 := s.accessL1 core part (4 * w) 4
  match (s1.getCore core).l1For? part w with
  | some _ => s1
  | none => s1.fillWord core
      { part := part, handle := handle, addr := w, st := .valid, data := BitVec.ofNat 32 (s.homeNat (4 * w) 4), dirty := 0 }

/-- PREF: fetches the words that pass every condition of R137; it never faults. -/
def execPref (b : Bool) (g : Guard) (x c y : Spec) (h : BitVec 2) (s : State) : Out :=
  s.uniformOp (encPref b g x c y h) g [RegUse.src 1 .s x, RegUse.src 2 .c c, RegUse.src 3 .s y] false fun t =>
    let cap := t.readC c
    let handle := Cap.handle cap
    let a := (t.readS x).toNat
    let n := (t.readS y).toNat
    s.withObject t.part handle (fun _ => .done s) fun _ d =>
      if !ODesc.ok d || !bit (Cap.rights cap) 0 || !bit (ODesc.ceil d) 0 then .done s
      else
        let lo := alignUp (Cap.base cap + a) 4
        let hi := min (min (Cap.base cap + a + n) (Cap.base cap + Cap.length cap)) (ODesc.length d) / 4 * 4
        let ws := s.rangeWords d lo hi
        let held (s : State) (p : Nat × BitVec 4 × Nat) : Bool := ((s.getCore t.core).l1For? t.part p.1).isSome
        let bad := (s.rangeBad d lo hi).orElse fun _ => ws.findSome? fun p => if held s p then none else s.badIn (4 * p.1) 4
        if t.storesIn ws then .stay s
        else
          match bad with
          | some b => .stay (s.uncorrectable b false)
          | none => .done (ws.foldl (fun s p =>
              (if held s p then s else s.request t.part handle p.2.2 (4 * p.1) 4 h.toNat).fillValid t.core t.part handle p.1) s)

end Sys2Proof.Machine
end

