-- ==== Sys2Proof/Machine/MemSys.lean ====
section
/-!
DEFINITION. The transitions of the ordering machine (R149-R152) on what the memory instructions have issued: performing loads,
bounded loads and atomics, draining stores, releasing a round (R140, R141), dropping L1 words, and the L1's ways (R127-R129).
Which transition happens next is the schedule's choice (log entry 1); one whose precondition does not hold changes nothing.
-/
namespace Sys2Proof.Machine

/-- Two runs of bytes have a word in common. -/
def touches (a n b m : Nat) : Bool := decide (a / 4 < ceilDiv (b + m) 4) && decide (b / 4 < ceilDiv (a + n) 4)

/-- Two accesses of a team of rank `own` must keep program order (R151, R126, R152): they share a word of memory, or bytes of
another scratchpad, or are both to the team's own scratchpad. An address not translated again yet may be any. -/
def Place.meets (own : Nat) (p : Place) (n : Nat) (q : Place) (m : Nat) : Bool :=
  match p, q with
  | .obj _ _ a, .obj _ _ b => touches a n b m
  | .scratch r a, .scratch r' b => r == r' && (r == own || (decide (a < b + m) && decide (b < a + n)))
  | .obj _ _ _, .scratch _ _ => false
  | .scratch _ _, .obj _ _ _ => false
  | .again _ _, .obj _ _ _ => true
  | .obj _ _ _, .again _ _ => true
  | .again _ _, .again _ _ => true
  | .again _ _, .scratch _ _ => false
  | .scratch _ _, .again _ _ => false

/-- A store-queue entry meets a place. -/
def StoreEntry.meets (e : StoreEntry) (p : Place) (n : Nat) : Bool :=
  match p with
  | .obj _ _ a => touches e.pa e.bytes.length a n
  | .again _ _ => true
  | .scratch _ _ => false

def WinStore.meets (own : Nat) (w : WinStore) (p : Place) (n : Nat) : Bool :=
  Place.meets own (.scratch w.rank w.off) w.bytes.length p n

/-- Earlier accesses of the team, by program order, that a store, an atomic or a scratchpad access to a place waits for: loads
not yet served, atomics and scratchpad stores that meet it (R151, R152; log entry 4). -/
def Team.olderMeets (t : Team) (seq : Nat) (p : Place) (n : Nat) : Bool :=
  (t.loads.any fun q => decide (q.seq < seq) && q.got.isNone && q.place.meets t.rank q.size p n) ||
  (t.atomics.any fun q => decide (q.seq < seq) && q.place.meets t.rank q.size p n) ||
  (t.winStores.any fun w => decide (w.seq < seq) && w.meets t.rank p n)

/-- An earlier acquire that has not performed holds a later load or atomic; a scratchpad load only one of ATOMS (R150, R334). -/
def Team.acquirePending (t : Team) (seq : Nat) (scratch : Bool) : Bool :=
  t.atomics.any fun a => decide (a.seq < seq) && a.acquire && (!scratch || !a.place.isObj)

/-- Every object load, atomic and store before a position has performed (R150). -/
def Team.olderDone (t : Team) (seq : Nat) : Bool :=
  t.loads.all (fun q => decide (seq ≤ q.seq) || !q.place.isObj) &&
  t.atomics.all (fun q => decide (seq ≤ q.seq) || !q.place.isObj) &&
  t.storeQ.all fun e => decide (seq ≤ e.seq)

/-- Every scratchpad and window access before a position has performed (R334). -/
def Team.olderPadDone (t : Team) (seq : Nat) : Bool :=
  t.loads.all (fun q => decide (seq ≤ q.seq) || q.place.isObj) &&
  t.atomics.all (fun q => decide (seq ≤ q.seq) || q.place.isObj) &&
  t.winStores.all fun w => decide (seq ≤ w.seq)

/-- Remove an item. -/
def dropAt {α : Type} (l : List α) (i : Nat) : List α := l.take i ++ l.drop (i + 1)

/-- The youngest undrained byte that the team stored to an address before a position (R149, R151). -/
def Team.ownByte (t : Team) (seq pa : Nat) : Option Byte :=
  t.storeQ.foldl (fun r e =>
    if e.seq < seq ∧ e.pa ≤ pa ∧ pa < e.pa + e.bytes.length then e.bytes[pa - e.pa]? else r) none

/-- The word of an L1 that serves a load of a request type (R134). -/
def Core.serves (c : Core) (part rq w : Nat) : Option L1Word :=
  match c.l1For? part w with
  | some x => if rq = 0 ∨ x.st = .owned then some x else none
  | none => none

/-- A word made owned by a core, with its home value (R134, .O). An L1 without ways keeps no word: the previous owner's copy
is recalled, and the word is released at once (R127, R136). -/
def State.own (s : State) (core part handle w : Nat) : State :=
  match (s.getCore core).serves part 1 w with
  | some _ => s
  | none =>
    let v : Word := BitVec.ofNat 32 (s.homeNat (4 * w) 4)
    let s1 := (s.recall w).fillWord core { part := part, handle := handle, addr := w, st := .owned, data := v, dirty := 0 }
    if (s1.getCore core).ways = 0 then s1 else s1.setOwner w (some (.core core))

/-- The team's own undrained stores hold every byte of a word that a load takes (R149). -/
def Team.ownServes (t : Team) (p : PendLoad) (pa w : Nat) : Bool :=
  (List.range p.size).all fun i => (pa + i) / 4 != w || (t.ownByte p.seq (pa + i)).isSome

/-- The words of a load that its team's own stores do not hold whole. -/
def Team.wantedWords (t : Team) (p : PendLoad) (pa : Nat) : List Nat :=
  (wordsOf pa p.size).filter fun w => !t.ownServes p pa w

/-- Every word of a load that the team's own stores do not serve whole lies in the issuing L1 in a state that serves it (R134,
R149): the load is served locally. -/
def State.servedLocal (s : State) (t : Team) (p : PendLoad) (pa : Nat) : Bool :=
  (t.wantedWords p pa).all fun w => ((s.getCore t.core).serves t.part p.rq w).isSome

/-- The value of a word of a load: from the issuing L1 where the load is served locally, else the home value (R149). An access
of 8 bytes or fewer is single-copy, so that its words come from one of the two (R324). -/
def State.wordValue (s : State) (t : Team) (p : PendLoad) (loc : Bool) (w : Nat) : Word :=
  match (s.getCore t.core).serves t.part p.rq w with
  | some x => if loc then x.data else BitVec.ofNat 32 (s.homeNat (4 * w) 4)
  | none => BitVec.ofNat 32 (s.homeNat (4 * w) 4)

/-- The fill of a word that a load has fetched (R134): valid for .I, owned for .O, nothing for .N. Owned and round-n words stay
as they are. -/
def State.fillFetched (s : State) (core part handle rq w : Nat) : State :=
  if rq = 2 then s.own core part handle w
  else if rq ≠ 0 then s
  else
    let keep : Bool := match (s.getCore core).l1For? part w with
      | some x => decide (x.st ≠ .valid)
      | none => false
    if keep then s
    else
      s.fillWord core { part := part, handle := handle, addr := w, st := .valid,
                        data := BitVec.ofNat 32 (s.homeNat (4 * w) 4), dirty := 0 }

/-- Requests for words at an object offset and their homes (R130). -/
def State.requestWords (s : State) (part handle off hint : Nat) (ws : List Nat) : State :=
  ws.foldl (fun (s : State) w => s.request part handle off (4 * w) 4 hint) s

/-- The bytes of a load of memory by a team: its own undrained bytes over the words read (R149). A word that they hold whole is
read without a fetch; a fetch allocates its line in the partition's shelves (R130). -/
def State.loadBytes (s : State) (t : Team) (p : PendLoad) (handle off pa : Nat) : State × List Byte :=
  let loc := s.servedLocal t p pa
  let ws := t.wantedWords p pa
  let s1 := if loc then s else
    ws.foldl (fun s w => s.fillFetched t.core t.part handle p.rq w) (s.requestWords t.part handle off p.hint ws)
  (s1, (List.range p.size).map fun i =>
    (t.ownByte p.seq (pa + i)).getD (wordByte (s.wordValue t p loc ((pa + i) / 4)) ((pa + i) % 4)))

/-- The first bad block that a load would read at a home: its bytes, or the frame entry that gives its class (R10, R11, R130). -/
def State.loadBad (s : State) (t : Team) (p : PendLoad) (handle off pa : Nat) : Option Nat :=
  if s.servedLocal t p pa then none else (s.badIn pa p.size).orElse fun _ => s.classBad t.part handle off p.hint

/-- An earlier access of the team holds a load wherever it is served: an earlier lane of its instruction on the same word (R324),
an earlier load of the same type on it, .I or .N (R147), and an earlier atomic on it, which a later read must observe (R146; DEDUCED,
log entry 22). -/
def Team.heldLoad (t : Team) (idx : Nat) (p : PendLoad) : Bool :=
  ((t.loads.take idx).any fun q => q.seq == p.seq && q.got.isNone && q.place.meets t.rank q.size p.place p.size) ||
  (p.bound.isNone && t.loads.any fun q => decide (q.seq < p.seq) && q.bound.isNone && q.rq == p.rq && p.rq != 2 &&
    q.place.meets t.rank q.size p.place p.size) ||
  t.atomics.any fun q => decide (q.seq < p.seq) && q.place.meets t.rank q.size p.place p.size

/-- A fetch or an atomic on memory that the issuing core sent out before a position, by any of its teams, for a word of a run
of bytes: requests of one core to one word reach the home in issue order (R118, R151). -/
def State.sentBefore (s : State) (core seq pa n : Nat) : Bool :=
  s.teams.any fun t => t.core == core &&
    ((t.loads.any fun q => decide (q.seq < seq) && q.got.isNone && q.bound.isNone && !t.acquirePending q.seq false &&
      match q.place with
      | .obj _ _ a => touches a q.size pa n && !s.servedLocal t q a
      | .scratch _ _ => false
      | .again _ _ => false) ||
    t.atomics.any fun q => decide (q.seq < seq) && !t.acquirePending q.seq false &&
      match q.place with
      | .obj _ _ a => touches a q.size pa n
      | .scratch _ _ => false
      | .again _ _ => false)

/-- A bounded load's word is served by a round-n copy that meets the bound (R143). -/
def State.roundServes (s : State) (core part bnd w : Nat) : Option Word :=
  match (s.getCore core).l1For? part w with
  | some x =>
    match x.st with
    | .round n => if bnd ≤ n then some x.data else none
    | .valid => none
    | .owned => none
  | none => none

/-- The value of a bounded load, if it can be served now (R143): locally, or from the home under .F or after a lost push once
the tile round meets the bound. Nothing is filled. -/
def State.boundValue (s : State) (t : Team) (p : PendLoad) (handle off pa bnd : Nat) (wait : Bool) : Option Nat :=
  let ws := wordsOf pa p.size
  let loc := ws.map (s.roundServes t.core t.part bnd)
  if loc.all (·.isSome) then
    some (leNat ((List.range p.size).map fun i =>
      wordByte (((loc[(pa + i) / 4 - pa / 4]?).getD none).getD 0) ((pa + i) % 4)))
  else
    let lost := (((s.getCore t.core).round? t.part handle).map (·.pushLost)).getD false
    if wait && !lost then none
    else
      match s.lookupHandle t.part handle with
      | .error _ => none
      | .ok (obj, d) =>
        match s.halo? d with
        | none => none
        | some h =>
          match h.tileOf off with
          | none => none
          | some tile => if bnd ≤ s.tileRound t.part obj tile then some (s.homeNat pa p.size) else none

/-- Round-n copies of the issuing L1 serve a bounded load (R143). -/
def State.boundLocal (s : State) (t : Team) (p : PendLoad) (pa bnd : Nat) : Bool :=
  (wordsOf pa p.size).all fun w => (s.roundServes t.core t.part bnd w).isSome

/-- A bad block that serving a bounded load would meet: in the tables, the halo record, the word or the frame entry that gives its
class (R10, R11, R130). -/
def State.boundBad (s : State) (t : Team) (p : PendLoad) (handle off pa bnd : Nat) : Option Nat :=
  if s.boundLocal t p pa bnd then none
  else
    match s.lookupHandle t.part handle with
    | .error _ => s.walkBad t.part handle
    | .ok (_, d) =>
      ((s.haloBad d).orElse fun _ => s.badIn pa p.size).orElse fun _ => s.classBad t.part handle off p.hint

/-- A bad block that the walk of a reissued load meets (R10, R11). -/
def State.reissueBad (s : State) (part : Nat) (p : PendLoad) : Option Nat :=
  match p.place with
  | .again h off =>
    match s.translate part h off p.size [if p.target.cls = 2 then 23 else 20] 0x30 with
    | .error e => if e.cause = 0x39 then some e.info else none
    | .ok _ => none
  | .obj _ _ _ => none
  | .scratch _ _ => none

/-- A pending load that is reissued (R161, R182): an object's bytes are translated again, a uniform load with right X, another
with R. Where that fails the load stays to be translated: the spec names no cause at a reissue (log entry 27). -/
def State.reissue (s : State) (part : Nat) (p : PendLoad) : PendLoad :=
  let go (h off : Nat) : PendLoad :=
    match s.translate part h off p.size [if p.target.cls = 2 then 23 else 20] 0x30 with
    | .ok x => { p with place := .obj h off x.pa }
    | .error _ => { p with place := .again h off }
  match p.place with
  | .obj h off _ => go h off
  | .again h off => go h off
  | .scratch _ _ => p

/-- LOAD_PERFORM (R149-R152): the pending load `idx` of a team performs. -/
def execLoadPerform (team idx : Nat) (s : State) : Out :=
  match s.team? team with
  | none => .next s
  | some t =>
    match t.loads[idx]? with
    | none => .next s
    | some p =>
      if p.got.isSome || t.acquirePending p.seq (!p.place.isObj) then .next s
      else
        match p.place, p.bound with
        | .obj handle off pa, some (bnd, wait) =>
          let loc := s.boundLocal t p pa bnd
          if t.heldLoad idx p || (!loc && s.sentBefore t.core p.seq pa p.size) then .next s
          else
            match s.boundBad t p handle off pa bnd with
            | some a => .next (s.uncorrectable a false)
            | none =>
              match s.boundValue t p handle off pa bnd wait with
              | none => .next s
              | some v =>
                let s1 := s.accessL1 t.core t.part pa p.size
                .next ((if loc then s1 else s1.request t.part handle off pa p.size p.hint).setTeam
                  { t with loads := modifyAt t.loads idx fun q => { q with got := some v } })
        | .obj handle off pa, none =>
          if t.heldLoad idx p || (!s.servedLocal t p pa && s.sentBefore t.core p.seq pa p.size) then .next s
          else
            match s.loadBad t p handle off pa with
            | some a => .next (s.uncorrectable a false)
            | none =>
              let r := (s.accessL1 t.core t.part pa p.size).loadBytes t p handle off pa
              .next (r.1.setTeam
                ({ t with loads := dropAt t.loads idx }.deliver p.target (loadWords p.size p.signed r.2)).settleQ)
        | .again _ _, _ =>
          match s.reissueBad t.part p with
          | some a => .next (s.uncorrectable a false)
          | none => .next (s.setTeam { t with loads := modifyAt t.loads idx (s.reissue t.part) })
        | .scratch rank off, _ =>
          let early := (t.loads.take idx).any fun q => q.seq == p.seq && q.place.meets t.rank q.size p.place p.size
          if early || t.olderMeets p.seq p.place p.size then .next s
          else
            .next (s.setTeam
              ({ t with loads := dropAt t.loads idx }.deliver p.target
                (loadWords p.size p.signed (cellRead 0 (s.pad t.nb rank) off p.size))))

/-- The bytes of a drained store in an L1 word (R135): `own` also marks them dirty. -/
def L1Word.store (x : L1Word) (pa : Nat) (bs : List Byte) (own : Bool) : L1Word :=
  (mapAt (fun i b => (pa + i, b)) 0 bs).foldl (fun x p =>
    if p.1 / 4 = x.addr then
      { x with data := wordSetByte x.data (p.1 % 4) p.2,
               dirty := if own then x.dirty ||| (1#4 <<< (p.1 % 4)) else x.dirty &&& ~~~(1#4 <<< (p.1 % 4)) }
    else x) x

/-- Recall a word unless its owner is a core (R149: "any other owner"). -/
def State.recallOther (s : State) (core w : Nat) : State :=
  if s.owner w = some (.core core) then s else s.recall w


/-- .W at a drain: other owners recalled, the home copy written, a resident copy updated, a round-n copy dropped (R135). -/
def State.drainThrough (s : State) (core part pa : Nat) (bs : List Byte) : State :=
  let s1 := ((wordsOf pa bs.length).foldl (fun s w => s.recallOther core w) s).setMem pa bs
  s1.mapCore core fun c => (wordsOf pa bs.length).foldl (fun c w =>
    match c.l1For? part w with
    | none => c
    | some x =>
      match x.st with
      | .round _ => c.dropL1 w
      | .valid => c.setL1 (x.store pa bs false)
      | .owned => c.setL1 (x.store pa bs false)) c

/-- .O at a drain (R135, R149): the words become owned and dirty in the issuing L1. An L1 without ways holds none, and the
store goes to the home copy (R127). -/
def State.drainOwn (s : State) (core part handle pa : Nat) (bs : List Byte) : State :=
  if (s.getCore core).ways = 0 then s.drainThrough core part pa bs
  else
    (wordsOf pa bs.length).foldl (fun s w =>
      (s.own core part handle w).mapCore core fun c =>
        match c.l1For? part w with
        | some x => c.setL1 (x.store pa bs true)
        | none => c) s

/-- .N at a drain: as .W, but every copy of the issuing L1 is invalidated; an owned word goes home first (R135). -/
def State.drainNonAlloc (s : State) (core pa : Nat) (bs : List Byte) : State :=
  (s.writeHome pa bs).mapCore core fun c => (wordsOf pa bs.length).foldl Core.dropL1 c

/-- The effect of a drained entry (R149, R121): DIRTY first, then the store. A .O store to a word that its L1 owns requests nothing
at the homes (R130, R135). -/
def State.drain (s : State) (t : Team) (e : StoreEntry) : State :=
  let away (w : Nat) : Bool := decide (e.kind ≠ .own) || ((s.getCore t.core).serves t.part 1 w).isNone
  let s1 := ((s.dirtyAt t.part e.handle e.off).accessL1 t.core t.part e.pa e.bytes.length).requestWords t.part e.handle e.off
    e.hint ((wordsOf e.pa e.bytes.length).filter away)
  match e.kind with
  | .own => s1.drainOwn t.core t.part e.handle e.pa e.bytes
  | .writeThrough => s1.drainThrough t.core t.part e.pa e.bytes
  | .nonAlloc => s1.drainNonAlloc t.core e.pa e.bytes
  | .fence => s
  | .rrel => s

/-- A store-queue entry may drain (R149, R150, R151): no older entry names its word, no mark lies before it, and no earlier
load or atomic of its word is pending. -/
def Team.mayDrain (t : Team) (idx : Nat) (e : StoreEntry) : Bool :=
  decide (e.kind ≠ .fence) && decide (e.kind ≠ .rrel) &&
  !((t.storeQ.take idx).any fun x =>
      decide (x.kind = .fence) || decide (x.kind = .rrel) || touches x.pa x.bytes.length e.pa e.bytes.length) &&
  !t.olderMeets e.seq (.obj e.handle e.off e.pa) e.bytes.length

/-- A bad block that draining an entry would read: a word that .O takes into the L1 and writes in part (R10), or the tables that
the mark of DIRTY walks (R11). -/
def State.drainBad (s : State) (t : Team) (e : StoreEntry) : Option Nat :=
  match s.entryBad t.part e.handle e.off with
  | some a => some a
  | none =>
    if e.kind = .own then
      (wordsOf e.pa e.bytes.length).findSome? fun w =>
        if ((s.getCore t.core).serves t.part 1 w).isSome ∨ (e.pa ≤ 4 * w ∧ 4 * w + 4 ≤ e.pa + e.bytes.length) then none
        else s.badIn (4 * w) 4
    else none

/-- STORE_DRAIN (R149): entry `idx` of the team's store queue drains, or, past its end, a pending store to a scratchpad. -/
def execStoreDrain (team idx : Nat) (s : State) : Out :=
  match s.team? team with
  | none => .next s
  | some t =>
    match t.storeQ[idx]? with
    | some e =>
      if t.mayDrain idx e && !s.sentBefore t.core e.seq e.pa e.bytes.length then
        match s.drainBad t e with
        | some a => .next (s.uncorrectable a false)
        | none => .next ((s.drain t e).setTeam { t with storeQ := dropAt t.storeQ idx }.settleQ)
      else .next s
    | none =>
      let k := idx - t.storeQ.length
      match t.winStores[k]? with
      | none => .next s
      | some w =>
        if ((t.winStores.take k).any fun x => x.meets t.rank (.scratch w.rank w.off) w.bytes.length) ||
            t.olderMeets w.seq (.scratch w.rank w.off) w.bytes.length || t.acquirePending w.seq true then .next s
        else .next ((s.setTeam { t with winStores := dropAt t.winStores k }).setPad t.nb w.rank w.off w.bytes)

/-- dimin_wins (R332). -/
def diminWins (n o : Nat) : Bool :=
  let nk : Word := BitVec.ofNat 32 (n / 2 ^ 32)
  let ok : Word := BitVec.ofNat 32 (o / 2 ^ 32)
  if (un32 nk).isNaN then false
  else if (un32 ok).isNaN then true
  else
    match cmpV (un32 nk) (un32 ok) with
    | .lt => true
    | .eq => decide (n % 2 ^ 32 < o % 2 ^ 32)
    | .gt => false

/-- The new value of an atomic's word, or none where it writes nothing (R331): `n` is the width in bytes. -/
def atomicOp (op n old b c : Nat) : Option Nat :=
  let w := 8 * n
  let sgn (x : Nat) : Int := toSigned w x
  match op with
  | 0 => some ((old + b) % 2 ^ w)
  | 1 => some (if sgn b < sgn old then b else old)
  | 2 => some (if sgn old < sgn b then b else old)
  | 3 => some (min old b)
  | 4 => some (max old b)
  | 5 => some (old &&& b)
  | 6 => some (old ||| b)
  | 7 => some (old ^^^ b)
  | 8 => some b
  | 9 => if old = c then some b else none
  | 10 => some (fAdd 0 (BitVec.ofNat 32 old) (BitVec.ofNat 32 b)).1.toNat
  | _ => if diminWins b old then some b else none

/-- An atomic may perform (R149-R152, R334): `idx` is its place among the team's atomics. -/
def Team.mayAtomic (t : Team) (idx : Nat) (a : PendAtomic) : Bool :=
  !((t.atomics.take idx).any fun q => q.place.meets t.rank q.size a.place a.size) &&
  !t.olderMeets a.seq a.place a.size && !t.acquirePending a.seq false &&
  !(t.storeQ.any fun e => decide (e.seq < a.seq) && (decide (e.kind = .fence) || decide (e.kind = .rrel) || e.meets a.place a.size)) &&
  (!a.release || (t.olderDone a.seq && (a.place.isObj || t.olderPadDone a.seq)))

/-- The home of an atomic's word is written (R149): in the issuing core's L1 if it owns the word, else in the home copy, where
a copy of the issuing L1 that is not owned is dropped (log entry 22). -/
def State.atomicWrite (s : State) (core part pa : Nat) (bs : List Byte) : State :=
  (wordsOf pa bs.length).foldl (fun s w =>
    let here := (List.range bs.length).filter fun i => (pa + i) / 4 == w
    let lo := pa + here.headD 0
    let bytes := here.map fun i => bs[i]?.getD 0
    match (s.getCore core).serves part 1 w with
    | some x => s.mapCore core fun c => c.setL1 (x.store lo bytes true)
    | none => (s.setMem lo bytes).mapCore core fun c => c.dropL1 w) s

/-- The read-modify-write of an atomic on memory (R149, R331, R333): the state after it and the old value. -/
def State.atomicMem (s : State) (t : Team) (a : PendAtomic) (handle off pa : Nat) : State × Nat :=
  let ws := wordsOf pa a.size
  let s1 := if a.loc then ws.foldl (fun s w => s.own t.core t.part handle w) s
            else ws.foldl (fun s w => s.recallOther t.core w) s
  let old := s1.homeNat pa a.size
  match atomicOp a.op a.size old a.b.toNat a.c.toNat with
  | none => (s1, old)
  | some v => ((s1.dirtyAt t.part handle off).atomicWrite t.core t.part pa (leBytes a.size v), old)

/-- The words of a value of 4 or 8 bytes. -/
def valueWords (n v : Nat) : List Word := (List.range (n / 4)).map fun i => BitVec.ofNat 32 (v / 2 ^ (32 * i))

/-- The team after its atomic `idx` has performed with an old value; the last lane of an acquire self-invalidates (R334). -/
def State.atomicDone (s : State) (t : Team) (idx : Nat) (a : PendAtomic) (old : Nat) : State :=
  let rest := dropAt t.atomics idx
  let t1 := ({ t with atomics := rest }.deliver a.target (valueWords a.size old)).settleQ
  let s1 := s.setTeam t1
  if a.acquire && !(rest.any fun q => q.seq == a.seq) then s1.selfInvalidate t.core t.part else s1

/-- ATOMIC_PERFORM (R149, R331): the pending atomic `idx` of a team performs. -/
def execAtomicPerform (team idx : Nat) (s : State) : Out :=
  match s.team? team with
  | none => .next s
  | some t =>
    match t.atomics[idx]? with
    | none => .next s
    | some a =>
      if !t.mayAtomic idx a then .next s
      else
        match a.place with
        | .obj handle off pa =>
          if s.sentBefore t.core a.seq pa a.size then .next s
          else
            match (s.entryBad t.part handle off).orElse fun _ => s.badIn pa a.size with
            | some bad => .next (s.uncorrectable bad false)
            | none =>
              let away (w : Nat) : Bool := !a.loc || ((s.getCore t.core).serves t.part 1 w).isNone
              let s0 := (if a.loc then s.accessL1 t.core t.part pa a.size else s).requestWords t.part handle off a.hint
                ((wordsOf pa a.size).filter away)
              let r := s0.atomicMem t a handle off pa
              .next (r.1.atomicDone t idx a r.2)
        | .scratch rank off =>
          let old := cellNat 0 (s.pad t.nb rank) off a.size
          let s1 := s.atomicDone t idx a old
          match atomicOp a.op a.size old a.b.toNat a.c.toNat with
          | none => .next s1
          | some v => .next (s1.setPad t.nb rank off (leBytes a.size v))
        | .again _ _ => .next s

/-- L1_DROP (R149): a valid word becomes invalid, or an owned one is written back and released. A round-n word stays. -/
def execL1Drop (core addr : Nat) (s : State) : Out :=
  match (s.getCore core).l1Word? (addr / 4) with
  | none => .next s
  | some x =>
    match x.st with
    | .round _ => .next s
    | .valid => .next (s.dropWord core (addr / 4))
    | .owned => .next (s.dropWord core (addr / 4))

/-- REGISTRY_RECALL (R136): a full registry recalls the words of an entry. -/
def execRegistryRecall (addr : Nat) (s : State) : Out := .next (s.recall (addr / 4))

/-- A pushed word in a reader's L1 (R141): round-n, unless the copy there is of a later round; a line is allocated as needed. -/
def State.pushWord (s : State) (core part handle n w : Nat) : State :=
  let newer := match (s.getCore core).l1For? part w with
    | some x => (match x.st with | .round m => decide (n < m) | .valid => false | .owned => false)
    | none => false
  if newer then s
  else
    let v : Word := BitVec.ofNat 32 (s.homeNat (4 * w) 4)
    let s1 := if s.owner w = some (.core core) then s.recall w else s
    (s1.fillWord core { part := part, handle := handle, addr := w, st := .round n, data := v, dirty := 0 }).mapCore core fun c =>
      { c with pushClk := s.clk, pushed := w :: if c.pushClk = s.clk then c.pushed else [] }

/-- The words of a strip (R141) that lie on present pages. -/
def State.stripWords (s : State) (d : Nat) (h : Halo) (offs : List Nat) : List Nat :=
  (offs.flatMap fun o => wordsOf o (2 ^ h.esz)).filterMap fun k =>
    let off := 4 * k
    let e := s.homeNat (ODesc.entryAddr d off) 8
    if bit e 0 then some ((bits e 39 16 * 2 ^ 16 + off % 2 ^ ODesc.pageShift d) / 4) else none

/-- The readers of a tile that are resident, each with its core and the words of its strip (R141). -/
def State.pushes (s : State) (nb tile d : Nat) (h : Halo) : List (Nat × List Nat) :=
  (h.readers tile).filterMap fun r =>
    (s.rankTeam? nb r.2.2).map fun rd => (rd.core, s.stripWords d h (h.strip tile r.1 r.2.1))

/-- An entry of the round table of a core names an object of a partition. -/
def State.ofRegion (s : State) (part obj : Nat) (e : RoundEntry) : Bool :=
  e.part == part && match s.lookupHandle part e.handle with
    | .ok (o, _) => o == obj
    | .error _ => false

/-- Bounded loads under .W that wait on a core for a push of a region: bound, address and size (R143). -/
def State.waitingPush (s : State) (core part obj : Nat) : List (Nat × Nat × Nat) :=
  (s.teams.filter fun t => t.core == core && t.part == part).flatMap fun t => t.loads.filterMap fun p =>
    match p.bound, p.place with
    | some (bnd, true), .obj h _ pa =>
      match s.lookupHandle part h with
      | .ok (o, _) => if o = obj ∧ p.got.isNone then some (bnd, pa, p.size) else none
      | .error _ => none
    | _, _ => none

/-- What a push leaves in the round table of a core (R144): push-lost ends where the push meets the bound of what waits for it,
but not in the clk of a restore there. An L1 without ways keeps no word, and the push is lost (DEDUCED, log entry 42). -/
def State.pushEnds (s : State) (core part obj : Nat) : State :=
  let waiting := s.waitingPush core part obj
  let met := !waiting.isEmpty && waiting.all fun x => (wordsOf x.2.1 x.2.2).all fun w => (s.roundServes core part x.1 w).isSome
  let entry (c : Core) (e : RoundEntry) : RoundEntry :=
    if !s.ofRegion part obj e then e
    else if c.ways = 0 then { e with pushLost := true }
    else if met ∧ e.lostClk ≠ s.clk then { e with pushLost := false }
    else e
  s.mapCore core fun c => { c with rounds := c.rounds.map (entry c) }

/-- The push of a tile's strips to the readers that are resident (R141). The words bear the handle of the core's entry, or, where
it has none, the one that RREL named. -/
def State.push (s : State) (part obj via nb tile n d : Nat) (h : Halo) : State :=
  (s.pushes nb tile d h).foldl (fun s r =>
    let mine := ((s.getCore r.1).rounds.find? (s.ofRegion part obj)).map (·.handle)
    (r.2.foldl (fun s w => s.pushWord r.1 part (mine.getD via) n w) s).pushEnds r.1 part obj) s

/-- The effect of RREL once its release holds (R140): the tile round, and the push. -/
def State.releaseRound (s : State) (t : Team) (handle : Nat) : State :=
  match s.lookupHandle t.part handle with
  | .error _ => s
  | .ok (obj, d) =>
    match s.halo? d with
    | none => s
    | some h =>
      let n := min (s.tileRound t.part obj t.rank + 1) 0xFFFFFFFF
      (s.mapRegion t.part obj fun r => r.setRound t.rank n).push t.part obj handle t.nb t.rank n d h

/-- A bad block in the frame entries of the strips that a push reads (R10, R11). -/
def State.stripBad (s : State) (nb tile d : Nat) (h : Halo) : Option Nat :=
  if s.badBlocks.isEmpty then none
  else
    (h.readers tile).findSome? fun r =>
      if (s.rankTeam? nb r.2.2).isSome then (h.strip tile r.1 r.2.1).findSome? fun o => s.badIn (ODesc.entryAddr d o) 8 else none

/-- A bad block that a release of a round would read: in the tables, the halo record, a frame entry or a strip (R10, R11). -/
def State.releaseBad (s : State) (t : Team) (handle : Nat) : Option Nat :=
  match s.lookupHandle t.part handle with
  | .error _ => s.walkBad t.part handle
  | .ok (_, d) =>
    match s.haloBad d with
    | some a => some a
    | none =>
      match s.halo? d with
      | none => none
      | some h =>
        (s.stripBad t.nb t.rank d h).orElse fun _ =>
          (s.pushes t.nb t.rank d h).findSome? fun r => r.2.findSome? fun w => s.badIn (4 * w) 4

/-- RREL_PERFORM (R140, R336): the release at entry `idx` of the store queue takes effect once everything older has. -/
def execRrelPerform (team idx : Nat) (s : State) : Out :=
  match s.team? team with
  | none => .next s
  | some t =>
    match t.storeQ[idx]? with
    | none => .next s
    | some e =>
      if e.kind = .rrel ∧ t.olderDone e.seq then
        match s.releaseBad t e.handle with
        | some a => .next (s.uncorrectable a false)
        | none => .next ((s.releaseRound t e.handle).setTeam { t with storeQ := dropAt t.storeQ idx }.settleQ)
      else .next s

/-- A bounded load's bound is not met: nothing serves it yet (R143). -/
def State.unmetLoad (s : State) (t : Team) (p : PendLoad) : Bool :=
  match p.bound, p.place with
  | some (bnd, wait), .obj handle off pa => p.got.isNone && (s.boundValue t p handle off pa bnd wait).isNone
  | _, _ => false

/-- STALE_TIMEOUT (R143): 2^21 clk have passed without the bound being met; the lowest such lane raises it for the LDB, and no
lane's destination is written (R328). -/
def execStaleTimeout (team : Nat) (s : State) : Out :=
  match s.team? team with
  | none => .next s
  | some t =>
    match t.loads.find? (s.unmetLoad t) with
    | none => .next s
    | some p =>
      if !t.inLdb || s.clk < t.sleepClk + 2 ^ 21 then .next s
      else
        match p.place with
        | .scratch _ _ => .next s
        | .again _ _ => .next s
        | .obj handle off _ =>
          let t1 := { t with inLdb := false, loads := t.loads.filter fun q => q.bound.isNone }
          let lanes := (t.loads.filter fun q => q.bound.isSome).map fun q => q.target.lane
          .next (s.takeTrap t1 { code := 0x38, info := infoA off p.size, lane := p.target.lane, handle := handle, next := false }
            false t.pc t.pc (some (mkMask ((List.range 1024).map fun l => lanes.contains l))))

/-- R127: the sum over resident teams of SCRATCH + 8 KiB. -/
def State.coreSram (s : State) (core : Nat) : Nat :=
  ((s.teams.filter fun t => t.core == core).map fun t => t.prm.scratch + 8192).sum

/-- Nmin and Nmax (R127). -/
def State.wayMin (s : State) (core : Nat) : Nat :=
  ((s.teams.filter fun t => t.core == core).map fun t => t.prm.l1floor).foldl max 0 / 16
def State.wayMax (s : State) (core : Nat) : Nat := (320 * 1024 - s.coreSram core) / (16 * 1024)

/-- A way is removed (R128): from each set one of the places up to N, which the spec does not name (log entry 21), with what
it holds. Words pushed in this clk are placed afresh (R144). -/
def State.removeWay (s : State) (core : Nat) : State :=
  let c := s.getCore core
  let k := s.freeCtr
  let gone := (c.lru.map fun x => l1Set x.2).eraseDups.filterMap fun i =>
    (c.lru.filter fun x => l1Set x.2 == i)[Config.freeNat (k + i) % c.ways]?
  let back := if c.pushClk = s.clk then c.l1.filter fun x => c.pushed.contains x.addr && gone.any fun g => g.2 == lineOf x.addr else []
  let s1 := (gone.foldl (fun (s : State) x => s.dropLine core x) { s with freeCtr := k + 128 }).mapCore core fun c =>
    { c with ways := c.ways - 1 }
  back.foldl (fun s x => s.fillWord core x) s1

/-- Remove ways down to a number (R129). -/
def State.shrinkWays (n : Nat) : Nat → State → Nat → State
  | 0, s, _ => s
  | fuel + 1, s, core => if (s.getCore core).ways ≤ n then s else State.shrinkWays n fuel (s.removeWay core) core

/-- L1_WAY_ADJUST (R128): the end of an interval of 65,536 clk on a core. N below Nmin grows by a way as well (R127; DEDUCED,
log entry 21). -/
def execL1WayAdjust (core : Nat) (s : State) : Out :=
  match s.core? core with
  | none => .next s
  | some c =>
    if s.clk < c.adjClk + 65536 then .next s
    else
      let s1 :=
        if c.ways < s.wayMax core ∧ (c.sampA ≤ c.sampG * 64 ∨ c.ways < s.wayMin core) then
          s.mapCore core fun c => { c with ways := c.ways + 1 }
        else if s.wayMin core < c.ways ∧ c.sampZ * 256 < c.sampA then s.removeWay core
        else s
      .next (s1.mapCore core fun c => { c with sampA := 0, sampG := 0, sampZ := 0, adjClk := s.clk })

end Sys2Proof.Machine
end

