-- ==== Sys2Proof/Machine/Notify.lean ====
section
/-!
DEFINITION. Gondola signals and the sleeping aperture (R55, R70), mailbox arrivals (R69), and the writes that the device's own
units make at the homes (R145, R149).
-/
namespace Sys2Proof.Machine

/-- A signal source becomes pending; one pending bit each (R55). -/
def State.raiseSignal (s : State) (kind idx : Nat) : State :=
  if s.signals.contains (kind, idx) then s else { s with signals := s.signals ++ [(kind, idx)] }

/-- The wake of a queue: a signal, or the pending bit while the aperture is gated (R70). -/
def State.wakeQueue (s : State) (p q : Nat) : State :=
  if s.apertureGated then s.mapQueue p q fun x => { x with pend := true } else s.raiseSignal 0 (p * 16 + q)

def State.mapMailbox (s : State) (p m : Nat) (f : Mailbox → Mailbox) : State :=
  s.mapPart p fun x => { x with mailboxes := modifyAt x.mailboxes m f }

def State.wakeMailbox (s : State) (p m : Nat) : State :=
  if s.apertureGated then s.mapMailbox p m fun x => { x with pend := true } else s.raiseSignal 1 (p * 64 + m)

/-- MBCNT goes up by one, saturating with the sticky overflow (R69). -/
def Mailbox.arrive (m : Mailbox) : Mailbox :=
  if m.count = 65535 then { m with overflow := true } else { m with count := m.count + 1 }

/-- An arrival at a mailbox (R69). A mailbox at or above MAILBOXES receives none (R56); in a STOPPED partition the arrival is
counted and goes no further (R40). -/
def State.arrival (s : State) (p m : Nat) : State :=
  if (s.getPart p).desc.mailboxes ≤ m then s
  else
    match (s.getPart p).st with
    | .runnable => (s.mapMailbox p m Mailbox.arrive).wakeMailbox p m
    | .stopped => s.mapMailbox p m Mailbox.arrive
    | .free => s
    | .configured => s
    | .resetting => s

/-- A write by the gondola to an object (R121, R149): DIRTY first, its lines requested (R130), owners recalled, the home written. -/
def State.deviceWrite (s : State) (part handle off pa : Nat) (bs : List Byte) : State :=
  (((s.noteHandle part handle off bs.length).dirtyAt part handle off).request part handle off pa bs.length 0).writeHome pa bs

/-- Bytes at physical addresses from host-physical memory of partition 0, written by the gondola (R35). -/
def State.tableWrite (s : State) (pa : Nat) (bs : List Byte) : State := s.writeHome pa bs

/-- An asynchronous trap that its team can no longer take: a KIND 4 record (R176), with the agent that raised it and the cursor
of the copy that it stopped (R173). -/
def State.postAsync (s : State) (part core slot : Nat) (x : AsyncTrap) : State :=
  s.post part { FaultRec.of x.cause.toNat 4 0 x.handle core slot x.agent (keyOf x.cause.toNat x.info.toNat) x.info.toNat x.pc x.lane
    with cursor := BitVec.ofNat 64 x.cursor }

/-- The saved image of a team, by its number. -/
def State.saved? (s : State) (uid : Nat) : Option (Nb × SavedTeam) :=
  s.nbs.findSome? fun n => (n.saved.find? fun v => v.uid == uid).map fun v => (n, v)

def State.mapSaved (s : State) (uid : Nat) (f : SavedTeam → SavedTeam) : State :=
  { s with nbs := s.nbs.map fun n => { n with saved := n.saved.map fun v => if v.uid = uid then f v else v } }

/-- An asynchronous trap raised for a team (R176): it becomes pending; a second one, or one without its team, is a record. -/
def State.asyncTrap (s : State) (part uid core : Nat) (x : AsyncTrap) : State :=
  match s.team? uid with
  | some t =>
    if t.status = .retiring ∨ t.async.isSome then s.postAsync part core t.slot x
    else s.setTeam { t with async := some x }
  | none =>
    match s.saved? uid with
    | some (_, v) => if v.async.isSome then s.postAsync part core 0 x else s.mapSaved uid fun v => { v with async := some x }
    | none => s.postAsync part core 0 x

/-- The tag counts of a team that sleeps in WAITT are zero: WAITT returns with an acquire (R347), and the team goes on at the
next instruction. -/
def State.wakeTags (s : State) (t : Team) : State :=
  match t.status with
  | .waitTags mask words =>
    if (List.range 8).all fun i => !mask.getLsbD i || (t.tags[i]?.getD 0 == 0) then
      let t1 : Team := { t with status := .running, slept := 0, pc := t.pc + BitVec.ofNat 32 (4 * words) }
      (s.setTeam { t1 with due := (lowestCause (stepCause t t1)).map fun c => (c, t.pc) }).selfInvalidate t.core t.part
    else s
  | _ => s

end Sys2Proof.Machine
end

