-- ==== Sys2Proof/Machine/Frame.lean ====
section
/-!
DEFINITION. A team at its start (R80, R98, R230), and the save frame: its layout (R181, R388), a team written into it and read
back (R182), and the frames of a SAVEF object (R180).
-/
namespace Sys2Proof.Machine

/-- Where a team is placed. -/
structure Place2 where
  uid : Nat
  part : Nat
  launch : Nat
  nb : Nat
  grid : Nat
  rank : Nat
  core : Nat
  slot : Nat
  deriving DecidableEq, Repr

/-- A team at its start (R80, R98, R230, R297): registers at the values of R98, every lane launched, PC at ENTRY. `seq` is the
arrival number that a handler's S63 holds (R69). -/
def teamStart (p : LaunchRec) (w : Place2) (seq : Option Word) (clk : Nat) : Team :=
  let consts := (List.range 32).map fun i => p.consts[i]?.getD 0
  let all := fullMask p.lanes
  { uid := w.uid, part := w.part, launch := w.launch, nb := w.nb, rank := w.rank, gx := w.grid % p.gridX,
    gy := w.grid / p.gridX, core := w.core, slot := w.slot, prm := p, status := .running, pc := p.entry, runLen := 0,
    port := none, runClk := 0, launched := all, active := all, helper := 0, rot := 0, forced := 0, bbc := 0, aw := false,
    limb := 0, flags := 0, trapCause := 0, trapInfo := 0, trapPc := 0, inTrap := false, async := none, due := none, dbg := 0,
    whnd := 0, woff := 0, wlen := 0,
    sreg := List.replicate 32 0 ++ match seq with
      | none => consts
      | some x => consts.take 31 ++ [x]
    qreg := 0, areg := List.replicate 32 (0, 0),
    creg := (List.range 8).map (fun i => p.caps[i]?.getD nullCap) ++ List.replicate 8 nullCap,
    vreg := List.replicate p.vregs (zeroRow p.lanes), freg := List.replicate 8 (zeroRow p.lanes), y0 := zeroRow p.lanes,
    y1 := zeroRow p.lanes, preg := List.replicate 7 0, lines := List.replicate 8 { entries := [], owed := [] }, stack := [],
    rng := (List.range p.lanes).map fun l => frandSeed p.seed ((w.grid * p.teams + w.rank) * p.lanes + l),
    tags := List.replicate 8 0, storeQ := [], loads := [], atomics := [], winStores := [], scratch := [], barrs := [],
    startClk := clk, runs := 0, sleepClk := 0, slept := 0, parkClk := 0, parkCause := 0, parkKey := 0, parkLane := 0, inLdb := false }

/-- Offsets of the sections of a save frame (R181). -/
structure FrameLayout where
  lines : Nat
  varying : Nat
  operand : Nat
  last : Nat
  preds : Nat
  rng : Nat
  pad : Nat
  weight : Nat
  size : Nat
  deriving DecidableEq, Repr

/-- Each section after the capabilities starts at a multiple of 64; FS is a multiple of 4 KiB (R181). -/
def frameLayout (p : LaunchRec) : FrameLayout :=
  let l := p.lanes
  let lines := alignUp (0x1600 + 8192 + 16 * entryBytes l) 64
  let varying := alignUp (lines + 4096) 64
  let operand := alignUp (varying + p.vregs * l * 4) 64
  let last := alignUp (operand + 8 * l * 4) 64
  let preds := alignUp (last + 2 * l * 4) 64
  let rng := alignUp (preds + l) 64
  let pad := alignUp (rng + 8 * l) 64
  let weight := alignUp (pad + p.scratch) 64
  { lines := lines, varying := varying, operand := operand, last := last, preds := preds, rng := rng, pad := pad,
    weight := weight, size := alignUp (if p.wbkeep then weight + 65664 else pad + p.scratch) 4096 }

/-- A mask as 32 words and its summary word (R92, R181). -/
def maskBytes (m : LaneMask) : List Byte :=
  ((List.range 32).flatMap fun i => leBytes 4 (maskWord m i).toNat) ++ leBytes 4 (maskSummary m).toNat

def rowBytes (r : List Word) : List Byte := r.flatMap fun x => leBytes 4 x.toNat

/-- A stack entry in its E bytes (R388). -/
def StackEntry.bytes (lanes : Nat) (e : StackEntry) : List Byte :=
  let mb := lanes / 8
  let isLoop := decide (e.kind = .loop)
  let body := leBytes 4 e.pc.toNat ++ leBytes 4 (if isLoop then e.head.toNat else 0) ++
    [BitVec.ofNat 8 e.kind.code, if e.trapCall then 1 else 0, BitVec.ofNat 8 (if e.kind = .defer then e.seg else 0)] ++
    List.replicate 5 0 ++ leBytes mb e.m.toNat ++ leBytes mb (if isLoop then e.k.toNat else 0)
  body ++ List.replicate (entryBytes lanes - body.length) 0

/-- What a save frame's header says beside the team. -/
structure FrameInfo where
  reason : Nat
  parked : Bool
  token : Nat
  pad : Bool
  heldReqs : Nat
  heldOps : Nat
  /-- the fresh number of what the Held section is filled with (log entry 80) -/
  held : Nat
  /-- the weight units saved with the frame (R124): none where FLAGS[3] is 0 -/
  weight : Option (List WbUnit)
  deriving DecidableEq, Repr

/-- Every position of an owed entry has been written (R192). -/
def Owed.written (o : Owed) : Bool := o.data.all (·.isSome)

/-- The header of a frame (R181). -/
def frameHeader (t : Team) (f : FrameInfo) : List Byte :=
  let b (x : Nat) : Byte := BitVec.ofNat 8 x
  let flags := b2n f.pad + 2 * b2n f.parked + 4 * b2n t.async.isSome + 8 * b2n f.weight.isSome
  let line (l : Line) : Byte := b (l.entries.length + l.owed.length + 8 * (l.owed.filter fun o => !o.written).length)
  leBytes 4 0x4B393653 ++ [1, b f.reason, b flags, b f.heldReqs] ++ leBytes 4 t.pc.toNat ++
    leBytes 4 (t.gy * t.prm.gridX + t.gx) ++ [b t.rank, b t.core, b f.heldOps, b t.qreg.toNat] ++
    leBytes 4 t.flags.toNat ++ leBytes 8 t.tstate ++ leBytes 8 (if f.parked then t.parkKey.toNat else 0) ++
    leBytes 4 (if f.parked then f.token else 0) ++ leBytes 4 (if f.parked then t.parkCause else 0) ++
    (t.tags.map b) ++ (t.lines.map line) ++ leBytes 8 t.trapCause.toNat ++ leBytes 8 t.trapInfo.toNat ++
    leBytes 4 t.trapPc.toNat ++ leBytes 4 (b2n t.inTrap) ++ List.replicate 168 0

/-- The Weight section (R181): the units at their numbers, and the map. -/
def weightChunks (y : FrameLayout) (us : List WbUnit) : List (Nat × List Byte) :=
  (us.map fun u => (y.weight + 64 * u.idx, u.bytes)) ++
    [(y.weight + 65536, leBytes 128 (us.foldl (fun n u => n ||| 2 ^ u.idx) 0))]

/-- The entries of a line that are there, each at its place from the head: complete ones behind one that is owed too (R181). -/
def Line.placed (l : Line) : List (Nat × List Word) :=
  mapAt (fun j e => (j, e)) 0 l.entries ++
    (mapAt (fun j (o : Owed) => (l.entries.length + j, o)) 0 l.owed).filterMap fun x =>
      if x.2.written then some (x.1, x.2.data.map fun w => w.getD 0) else none

/-- Bytes of the Held section from a word on, which the spec does not lay out (log entry 80). -/
def heldFill (held k n : Nat) : List Byte :=
  (List.range (n / 4)).flatMap fun i => leBytes 4 (Config.heldWord held (k + i)).toNat

/-- Copy descriptors of the Held section, 64 bytes each (R181). -/
def heldOpChunks (held n : Nat) : List (Nat × List Byte) :=
  (List.range n).map fun i => (0x600 + 0xC00 + 64 * i, heldFill held (768 + 16 * i) 64)

/-- The Held section (R181): a request of 1 KiB each, then copy descriptors. -/
def heldChunks (f : FrameInfo) : List (Nat × List Byte) :=
  ((List.range f.heldReqs).map fun i => (0x600 + 0x400 * i, heldFill f.held (256 * i) 1024)) ++ heldOpChunks f.held f.heldOps

/-- The pieces of a frame, each at its offset (R181). -/
def frameChunks (t : Team) (f : FrameInfo) : List (Nat × List Byte) :=
  let y := frameLayout t.prm
  let l := t.lanes
  let lines := (mapAt (fun i (x : Line) => x.placed.map fun e => (y.lines + 512 * i + 128 * e.1, rowBytes e.2)) 0
    t.lines).flatMap id
  [(0, frameHeader t f), (0x100, maskBytes t.launched), (0x190, maskBytes t.active), (0x220, maskBytes t.helper),
    (0x300, rowBytes t.sreg), (0x400, t.areg.flatMap fun p => leBytes 4 p.1.toNat ++ leBytes 4 p.2.toNat),
    (0x500, t.creg.flatMap fun c => leBytes 16 c.toNat),
    (0x1600, t.stack.reverse.flatMap (StackEntry.bytes l))] ++ heldChunks f ++ lines ++
  [(y.varying, t.vreg.flatMap rowBytes), (y.operand, t.freg.flatMap rowBytes), (y.last, rowBytes t.y0 ++ rowBytes t.y1),
    (y.preds, t.preg.flatMap fun m => leBytes (l / 8) m.toNat), (y.rng, t.rng.flatMap fun x => leBytes 8 x.toNat)] ++
  (if f.pad then [(y.pad, cellRead 0 t.scratch 0 t.prm.scratch)] else []) ++
  match f.weight with
  | none => []
  | some us => weightChunks y us

/-- Split a run of bytes at the multiples of 64 of its offset, so that no piece crosses a page. -/
def pieces64 : Nat → Nat → List Byte → List (Nat × List Byte)
  | 0, _, _ => []
  | fuel + 1, off, bs =>
    match bs with
    | [] => []
    | _ :: _ =>
      let n := 64 - off % 64
      (off, bs.take n) :: pieces64 fuel (off + n) (bs.drop n)

/-- The address of a byte of a SAVEF object for the gondola's access, which needs W as the record's SAVEF does (R63, R180). -/
def State.frameAddr (s : State) (part handle off n : Nat) : Option Nat :=
  match s.translate part handle off n [21] 0x30 with
  | .ok x => some x.pa
  | .error _ => none

/-- The bad block that the walk to a byte of a frame meets (R11). -/
def State.frameWalkBad (s : State) (part handle off : Nat) : Option Nat :=
  match s.translate part handle off 1 [21] 0x30 with
  | .ok _ => none
  | .error e => if e.cause = 0x39 then some e.info else none

/-- Write chunks at an object offset; nothing is written where any page faults (R180), which is an error without an address, or
where the walk meets a bad block. -/
def State.frameWrite (s : State) (part handle base : Nat) (cs : List (Nat × List Byte)) : Except (Option Nat) State :=
  let ps := cs.flatMap fun c => pieces64 (c.2.length + 1) (base + c.1) c.2
  if ps.all fun p => (s.frameAddr part handle p.1 p.2.length).isSome then
    .ok (ps.foldl (fun s p =>
      match s.frameAddr part handle p.1 p.2.length with
      | some pa => s.deviceWrite part handle p.1 pa p.2
      | none => s) s)
  else .error (ps.findSome? fun p => s.frameWalkBad part handle p.1)

/-- The first bad block that reading bytes of a frame would meet (R10, R11). -/
def State.frameBad (s : State) (part handle off n : Nat) : Option Nat :=
  if s.badBlocks.isEmpty then none
  else (List.range n).findSome? fun i =>
    match s.frameAddr part handle (off + i) 1 with
    | some pa => s.badIn pa 1
    | none => s.frameWalkBad part handle (off + i)

/-- Read bytes of a frame; a byte that does not translate reads as zero (the caller has checked the frame). -/
def State.frameRead (s : State) (part handle off n : Nat) : List Byte :=
  (List.range n).map fun i =>
    match s.frameAddr part handle (off + i) 1 with
    | some pa => s.homeByte pa
    | none => 0

/-- The lowest frame of a SAVEF object whose STATE is 0 (R180); an error without an address where none is free or a page faults on
the way, and one with the address of a bad block that the search reads (R10, R11). -/
def State.freeFrame (s : State) (part : Nat) (savef : Cap) (fs : Nat) : Except (Option Nat) Nat :=
  let n := Cap.length savef / fs
  let go (i : Nat) : Option (Except (Option Nat) Nat) :=
    match s.frameAddr part (Cap.handle savef) (i * fs + 4) 1 with
    | none => some (.error (s.frameWalkBad part (Cap.handle savef) (i * fs + 4)))
    | some pa =>
      match s.badIn pa 1 with
      | some a => some (.error (some a))
      | none => if s.homeByte pa = 0 then some (.ok i) else none
  ((List.range n).findSome? go).getD (.error none)

/-- A little-endian number of a byte image. -/
def imgNat (bs : List Byte) (off n : Nat) : Nat := leNat ((bs.drop off).take n)

def imgRow (bs : List Byte) (off lanes : Nat) : List Word :=
  (List.range lanes).map fun l => BitVec.ofNat 32 (imgNat bs (off + 4 * l) 4)

/-- A stack entry from its bytes (R388). -/
def stackEntryOf (lanes : Nat) (bs : List Byte) : StackEntry :=
  let mb := lanes / 8
  { kind := match imgNat bs 8 1 with | 1 => .defer | 2 => .join | 3 => .loop | _ => .call
    pc := BitVec.ofNat 32 (imgNat bs 0 4), head := BitVec.ofNat 32 (imgNat bs 4 4), seg := imgNat bs 10 1,
    trapCall := decide (imgNat bs 9 1 % 2 = 1), m := BitVec.ofNat 1024 (imgNat bs 16 mb),
    k := BitVec.ofNat 1024 (imgNat bs (16 + mb) mb) }

/-- A team rebuilt from the bytes of a frame over a team at its start (R182): `bs` is the frame's image, `pad` says that the
scratchpad was saved. -/
def teamOfFrame (t : Team) (bs : List Byte) : Team :=
  let y := frameLayout t.prm
  let l := t.lanes
  let ts := imgNat bs 0x18 8
  let depth := bits ts 8 0
  let e := entryBytes l
  let mask (off : Nat) : LaneMask := BitVec.ofNat 1024 (imgNat bs off 128)
  let line (i : Nat) : Line :=
    let n := imgNat bs (0x38 + i) 1
    { entries := (List.range (bits n 2 0 - bits n 5 3)).map fun j => imgRow bs (y.lines + 512 * i + 128 * j) 32, owed := [] }
  { t with
      pc := BitVec.ofNat 32 (imgNat bs 8 4)
      qreg := BitVec.ofNat 7 (imgNat bs 0x13 1)
      flags := BitVec.ofNat 6 (imgNat bs 0x14 4)
      rot := BitVec.ofNat 32 (bits ts 63 32), forced := bits ts 31 24, bbc := bits ts 23 18, aw := bit ts 17
      limb := bits ts 16 14
      tags := (List.range 8).map fun i => imgNat bs (0x30 + i) 1
      trapCause := BitVec.ofNat 64 (imgNat bs 0x40 8), trapInfo := BitVec.ofNat 64 (imgNat bs 0x48 8)
      trapPc := BitVec.ofNat 32 (imgNat bs 0x50 4), inTrap := decide (imgNat bs 0x54 4 % 2 = 1)
      launched := mask 0x100, active := mask 0x190, helper := mask 0x220
      sreg := imgRow bs 0x300 64
      areg := (List.range 32).map fun i =>
        (BitVec.ofNat 32 (imgNat bs (0x400 + 8 * i) 4), BitVec.ofNat 32 (imgNat bs (0x404 + 8 * i) 4))
      creg := (List.range 16).map fun i => BitVec.ofNat 128 (imgNat bs (0x500 + 16 * i) 16)
      stack := ((List.range depth).map fun i => stackEntryOf l ((bs.drop (0x1600 + e * i)).take e)).reverse
      lines := (List.range 8).map line
      vreg := (List.range t.prm.vregs).map fun n => imgRow bs (y.varying + n * l * 4) l
      freg := (List.range 8).map fun n => imgRow bs (y.operand + n * l * 4) l
      y0 := imgRow bs y.last l, y1 := imgRow bs (y.last + 4 * l) l
      preg := (List.range 7).map fun i => BitVec.ofNat 1024 (imgNat bs (y.preds + i * (l / 8)) (l / 8))
      rng := (List.range l).map fun i => BitVec.ofNat 64 (imgNat bs (y.rng + 8 * i) 8)
      scratch := if bit (imgNat bs 6 1) 0 then cellsOf 0 0 ((bs.drop y.pad).take t.prm.scratch) else t.scratch }

/-- The weight units of a frame (R124, R182): those whose map bit is 1, where FLAGS[3] is 1. -/
def unitsOfFrame (p : LaunchRec) (nb : Nat) (from_ : List (Nat × Nat)) (bs : List Byte) : List WbUnit :=
  let y := frameLayout p
  if bit (imgNat bs 6 1) 3 then
    let map := imgNat bs (y.weight + 65536) 128
    ((List.range 1024).filter fun u => bit map u).map fun u =>
      { idx := u, nb := nb, handle := ((from_.find? fun x => x.1 == u).map (·.2)).getD 0, bytes := (bs.drop (y.weight + 64 * u)).take 64 }
  else []

/-- Change one byte of the frame of a saved team, or the saved team itself where it lies in the ballast (R179). -/
def State.savedTag (s : State) (nb : Nb) (v : SavedTeam) (tag : Nat) : State :=
  match v.place with
  | .ballast t => s.mapSaved v.uid fun v => { v with place := .ballast { t with tags := modifyAt t.tags tag fun n => n - 1 } }
  | .frame i =>
    match s.launch? nb.launch with
    | none => s
    | some l =>
      let h := Cap.handle l.prm.savef
      let off := i * (frameLayout l.prm).size + 0x30 + tag
      match s.frameAddr nb.part h off 1 with
      | none => s
      | some pa =>
        match s.badIn pa 1 with
        | some a => s.uncorrectable a false
        | none => s.deviceWrite nb.part h off pa [s.homeByte pa - 1]

/-- An operation of a tag has ended (R339): the count of its team falls, resident or saved. -/
def State.tagDone (s : State) (uid tag : Nat) : State :=
  match s.team? uid with
  | some t =>
    let t1 : Team := { t with tags := modifyAt t.tags tag fun n => n - 1 }
    (s.setTeam t1).wakeTags t1
  | none =>
    match s.saved? uid with
    | some (n, v) => s.savedTag n v tag
    | none => s

end Sys2Proof.Machine
end

