-- ==== Sys2Proof/Machine/Load.lean ====
section
/-!
DEFINITION. A program loaded from outside: the setting in which a team or a gondola core fetches given bytes next. The spec's own
way from reset to a program's first instruction (partition set up through the table port, firmware, a LAUNCH, a placement, a start,
a run) takes many steps of many agents; the setting stands for what they leave (log entry 32).
-/
namespace Sys2Proof.Machine

/-- The launch record of the setting: one team of 32 lanes on one core, with every register it may have. -/
def loadRec : LaunchRec :=
  { code := Cap.make 0 0x09 0 0x10000, entry := 0, trapEnt := 0xFFFFFFFF, lanes := 32, w := 1, h := 1, t := 1, vregs := 240,
    aregs := 32, sregs := 32, gridX := 1, gridY := 1, scratch := 0, l1floor := 0, pclass := 0, fptrap := 0, enva := 0, envb := 0,
    seed := 0, savef := 0, wbkeep := false, caps := [], consts := [] }

/-- The handle-table entry, the object descriptor (R120: all rights but M, VALID, owner 1, one 64 KiB page) and the frame entry
(R121) of the code object of the setting. -/
def loadTables : List (Nat × List Byte) :=
  [(0x1000, leBytes 8 (2 ^ 63)),
   (0x2000, leBytes 32 (0x10000 * 2 ^ 32 + 0x3000 * 2 ^ 128 + 2 ^ 224 + 0x0F * 2 ^ 240 + 2 ^ 248)),
   (0x3000, leBytes 8 0x10001)]

/-- Where the code object of the setting lies. -/
def loadAddr : Nat := 0x10000

/-- Partition 1 of the setting: RUNNABLE, with one handle and one object. -/
def loadPart : Partition :=
  { Partition.reset with
      st := .runnable, gused := 1
      desc := { Desc.reset with htBase := 0x1000, htLen := 1, otBase := 0x2000, otLen := 1, fqBase := 0x4000, fqLen := 64, gQuota := 1
                                queues := 1, allot := [0x8000, 0, 0, 0] } }

/-- The launch, the neighbourhood and the team of the setting, numbered from `n`; the team holds port 0 of core 0. -/
def loadLaunch (n : Nat) : Launch :=
  { id := n, part := 1, queue := 0, mailbox := none, cls := 0, prm := loadRec, handlerSeq := none, rast := none, quads := [],
    finished := 0, started := true, startNo := n }

def loadNb (n clk : Nat) : Nb :=
  { id := n + 1, launch := n, part := 1, grid := 0, phase := .resident, x := 0, y := 0, advance := false, pinned := false,
    handlerSeq := none, startClk := clk, order := 0, reloads := [], barriers := [], saved := [], retired := [], pads := [] }

def loadTeam (n clk : Nat) : Team :=
  { teamStart loadRec { uid := n + 2, part := 1, launch := n, nb := n + 1, grid := 0, rank := 0, core := 0, slot := 0 } none clk with
      port := some 0, runs := 1, runClk := clk }

/-- The setting: a running device with partition 1 and its team, which moves next. -/
def State.loadTeamCode (s : State) (bs : List Byte) : State :=
  let s1 := ((loadTables ++ [(loadAddr, bs)]).foldl (fun (s : State) x => s.tableWrite x.1 x.2) s)
  let n := s.nextId
  { s1 with
      schedule := .team (n + 2) :: s1.schedule, nextId := n + 3, frozen := false
      parts := modifyAt s1.parts 1 fun _ => loadPart
      launches := [loadLaunch n], nbs := [loadNb n s1.clk], teams := [loadTeam n s1.clk]
      cores := modifyAt s1.cores 0 fun c => { c with clocked := true, resPart := some 1 } }

/-- A gondola core fetches the bytes next. -/
def State.loadGondolaCode (s : State) (bs : List Byte) : State :=
  let pc := ((s.gcores[0]?).getD GCore.reset).pc.toNat
  { s with schedule := .gondola 0 :: s.schedule, frozen := false, boot := { s.boot with stat := 0 }
           gmem := cellSet 0 s.gmem pc bs }

/-- The bytes of a table word: `nbits` bits, the words above them zero, up to the longest instruction (R232). -/
def tableBytes (nbits w : Nat) : List Byte := leBytes 12 (w % 2 ^ nbits)

end Sys2Proof.Machine
end

