-- ==== Sys2Proof/Machine/Fetch.lean ====
section
/-!
DEFINITION. Fetching the words of a team's instruction with the fetch causes (R232, R167), and the passing of time.
-/
namespace Sys2Proof.Machine

/-- What a fetch answers: the words of an instruction, or the team's next state. -/
inductive Fetched where
  | words (f : Fields)
  | next (s : State)
  deriving DecidableEq, Repr

/-- One code word through the CODE capability: its value, or the failure (R232, R167: FETCH_FAULT before residency). -/
def State.codeWord (s : State) (t : Team) (off : Nat) : Except XErr Word :=
  match s.translate t.part (Cap.handle t.prm.code) (Cap.base t.prm.code + off) 4 [23] 0x34 with
  | .error e => .error e
  | .ok x =>
    match s.badIn x.pa 4 with
    | some a => .error (XErr.bad a)
    | none => .ok (BitVec.ofNat 32 (s.homeNat x.pa 4))

/-- The fetch causes of the words from `k` on that an instruction of `n` words occupies (R167): the least failing cause in
the order FETCH_FAULT, which is every check but residency, then residency. -/
def State.codeWords (s : State) (t : Team) (n : Nat) : Except XErr (List Word) :=
  let rs := (List.range n).map fun k => s.codeWord t (t.pc.toNat + 4 * k)
  let bad (park : Bool) : Option XErr := rs.findSome? fun r =>
    match r with
    | .error e => if decide (e.cause = 0x34) = park then some e else none
    | .ok _ => none
  match bad false with
  | some e => .error e
  | none =>
    match bad true with
    | some e => .error e
    | none => .ok (rs.map fun r => match r with | .ok w => w | .error _ => 0)

/-- A failed fetch: FETCH_FAULT with the failing code, the park that names word 0, TRAP.PC with it (R166, R232), or the machine
check of a bad block (R10, R11). -/
def State.fetchFail (s : State) (t : Team) (e : XErr) : State :=
  if e.cause = 0x39 then s.uncorrectable e.info false
  else if e.cause = 0x34 then s.parkTeam { t with trapPc := t.pc } e.cause (Cap.handle t.prm.code) e.page 0
  else
    s.takeTrap t { code := 0x07, info := infoA (Cap.base t.prm.code + t.pc.toNat) e.cause, lane := 0,
                   handle := Cap.handle t.prm.code, next := false } false t.pc t.pc none

/-- Fetch of the instruction at a team's pc: FETCH_BOUNDS by LEN, then the words; LEN = 11 occupies word 0 alone (R167). A
team that holds no port fetches nothing. -/
def State.fetch (s : State) (t : Team) : Fetched :=
  if !t.canIssue then .next s
  else
    let bounds : State := s.takeTrap t (Cause.simple 0x08 t.pc.toNat) false t.pc t.pc none
    if Cap.length t.prm.code < t.pc.toNat + 4 then .next bounds
    else
      match s.codeWords t 1 with
      | .error e => .next (s.fetchFail t e)
      | .ok ws =>
        let w0 := ws.headD 0
        let n := if w0.extractLsb' 0 2 = 3 then 1 else (w0.extractLsb' 0 2).toNat + 1
        if Cap.length t.prm.code < t.pc.toNat + 4 * n then .next bounds
        else
          match s.codeWords t n with
          | .error e => .next (s.fetchFail t e)
          | .ok ws => .words (teamFields (ws.headD 0) (ws[1]?.getD 0) (ws[2]?.getD 0))

/-- The words of a team's instruction have been requested at their homes (R130). -/
def State.fetched (s : State) (t : Team) (words : Nat) : State :=
  s.touch t.part (Cap.handle t.prm.code) (Cap.base t.prm.code + t.pc.toNat) (4 * words) 0

/-- The word at a gondola core's pc (R53). -/
def State.gondolaWord (s : State) (c : Nat) : Word :=
  match s.gcores[c]? with
  | none => 0
  | some g => BitVec.ofNat 32 (cellNat 0 s.gmem g.pc.toNat 4)

/-- The standard machine-mode exception of a gondola core (R54, R55): the saved pc, cause and value are written and the core
continues at its trap vector. The trap registers are those of the RISC-V machine mode, PRESUMED (log entry 7). -/
def State.gondolaTrap (s : State) (c : Nat) (mcause : Word) (mtval : Word) : State :=
  { s with gcores := modifyAt s.gcores c fun g =>
      { g with mepc := g.pc, mcause := mcause, mtval := mtval, pc := g.mtvec &&& 0xFFFFFFFC } }

/-- Whether an agent can move. With the clocks stopped only resets and the passing of time happen (R28); in recovery no
gondola firmware runs (R46). -/
def State.canMove (s : State) : Actor → Bool
  | .team _ => !s.frozen
  | .gondola _ => !s.frozen && s.boot.stat == 0
  | .event .coldReset => true
  | .event (.warmReset _) => true
  | .event _ => !s.frozen
  | .tick _ _ => true

/-- Whether a step stands on its own: it has no word of a team or of the gondola. -/
def isEvent (i : Instr) : Bool :=
  match encodeFields i, encodeXgnd i, i with
  | none, none, .ill .. => false
  | none, none, _ => true
  | some _, _, _ => false
  | none, some _, _ => false

end Sys2Proof.Machine
end

