-- ==== Sys2Proof/Machine/Record.lean ====
section
/-!
DEFINITION. Locations as the gondola translates them (R34, R59), and launch records: their limits, the checks of a LAUNCH and
their order (R63, R64).
-/
namespace Sys2Proof.Machine

/-- Why a packet or a record fails (R65): the cause, its INFO, the byte offset that the fault record gives, the handle, and,
where a page is missing, the page of its key (R166, R173). -/
structure QFail where
  cause : Nat
  info : Nat
  fo : Nat
  handle : Nat
  key : Option (Nat × Nat)
  deriving DecidableEq, Repr

/-- A format error: ILL_FIELD at a byte offset (R65). -/
def QFail.ill (fo : Nat) : QFail := { cause := 0x03, info := fo, fo := fo, handle := 0, key := none }

/-- MISALIGNED at a location's offset (R65). -/
def QFail.misaligned (h off n fo : Nat) : QFail := { cause := 0x2A, info := infoA off n, fo := fo, handle := h, key := none }

/-- A failed translation of the location at byte `fo`. -/
def XErr.qfail (e : XErr) (h fo : Nat) : QFail :=
  { cause := e.cause, info := e.info, fo := fo, handle := h, key := if e.park then some (h, e.page) else none }

/-- The chunks of a range of an object, one per page: each an object offset and a length. -/
def pageChunks (sh off n : Nat) : List (Nat × Nat) :=
  if n = 0 then []
  else
    let p := 2 ^ sh
    (List.range ((off + n - 1) / p - off / p + 1)).map fun i =>
      let a := max off ((off / p + i) * p)
      (a, min (off + n) ((off / p + i + 1) * p) - a)

/-- A location of `n` bytes (R59): the checks of R34 and R119 over the whole range, then every page; its chunks as physical
address and length. The cause of an absent page is that of the gondola (R65). -/
def State.locate (s : State) (part h off n : Nat) (rights : List Nat) (fo : Nat) : Except QFail (List (Nat × Nat)) :=
  match s.translate part h off n rights 0x34 with
  | .error e => .error (e.qfail h fo)
  | .ok x =>
    let rs := (pageChunks (ODesc.pageShift x.desc) off n).map fun c => (c.2, s.translate part h c.1 c.2 rights 0x34)
    match rs.findSome? fun r =>
      match r.2 with
      | .error e => some e
      | .ok _ => none with
    | some e => .error (e.qfail h fo)
    | none => .ok (rs.filterMap fun r =>
        match r.2 with
        | .error _ => none
        | .ok y => some (y.pa, r.1))

/-- A location that the gondola reads is requested at its homes (R130). -/
def State.touchLoc (s : State) (part h off n : Nat) : State :=
  match s.locate part h off n [20] 4 with
  | .ok _ => s.touch part h off n 0
  | .error _ => s

/-- The handle, ceiling and bounds checks of a location whose pages are not yet asked for. -/
def State.locCheck (s : State) (part h off n : Nat) (rights : List Nat) (fo : Nat) : Except QFail Nat :=
  match s.lookupHandle part h with
  | .error c => .error { cause := c, info := (s.walkBad part h).getD (infoA off n), fo := fo, handle := h, key := none }
  | .ok (_, d) =>
    if !ODesc.ok d then .error { cause := 0x35, info := infoK h 0, fo := fo, handle := h, key := some (h, 0) }
    else
      match missingRight (ODesc.ceil d) rights with
      | some r => .error { cause := 0x29, info := infoA off r, fo := fo, handle := h, key := none }
      | none =>
        if ODesc.length d < off + n then .error { cause := 0x28, info := infoA off n, fo := fo, handle := h, key := none }
        else .ok d

/-- The bytes of a location's chunks, at the homes. -/
def State.chunkBytes (s : State) (cs : List (Nat × Nat)) : List Byte := cs.flatMap fun c => s.homeBytes c.1 c.2

/-- A block with an uncorrectable error among chunks (R10). -/
def State.chunksBad (s : State) (cs : List (Nat × Nat)) : Option Nat := cs.findSome? fun c => s.badIn c.1 c.2

/-- The placeable rectangles of an allotment word (R33): x0, y0, w, h. -/
def allotRect (a : Nat) : Option (Nat × Nat × Nat × Nat) :=
  if bit a 15 then some (bits a 14 11, bits a 10 8, bits a 7 4 + 1, bits a 3 1 + 1) else none

/-- The byte offset of the first field of a launch record that breaks a limit (R63, R64 step 2). -/
def recordLimit (b : List Byte) : Option Nat :=
  let f (o n : Nat) : Nat := field b o n
  let t := f 0x14 1
  let bad : List (Nat × Bool) :=
    [(0x00, decide (f 0 8 / 2 ^ 28 ≠ 0) || !bit (f 0 8) 23), (0x08, f 8 4 % 4 != 0),
     (0x0C, f 0xC 4 != 0xFFFFFFFF && f 0xC 4 % 4 != 0),
     (0x10, decide (f 0x10 2 < 32) || decide (1024 < f 0x10 2) || f 0x10 2 % 32 != 0),
     (0x12, decide (f 0x12 1 < 1) || decide (12 < f 0x12 1)), (0x13, decide (f 0x13 1 < 1) || decide (8 < f 0x13 1)),
     (0x14, decide (t < 1) || decide (16 < t) || decide (24 < f 0x12 1 * f 0x13 1 * t)),
     (0x15, decide (f 0x15 1 < 8) || decide (240 < f 0x15 1) || f 0x15 1 % 8 != 0),
     (0x16, decide (32 < f 0x16 1)), (0x17, decide (32 < f 0x17 1)), (0x18, f 0x18 2 == 0), (0x1A, f 0x1A 2 == 0),
     (0x1C, f 0x1C 4 % 1024 != 0),
     (0x20, f 0x20 4 % 16 != 0 || decide (320 * 1024 < t * (f 0x1C 4 + 8192) + f 0x20 4 * 1024)),
     (0x24, decide (3 < f 0x24 1)), (0x25, decide (31 < f 0x25 1)), (0x26, bits (f 0x26 1) 6 4 != 0),
     (0x27, bits (f 0x27 1) 6 4 != 0), (0x30, decide (f 0x30 8 / 2 ^ 28 ≠ 0) || !bit (f 0x30 8) 21),
     (0x38, decide (1 < f 0x38 1))] ++
    ((List.range 7).map fun i => (0x39 + i, f (0x39 + i) 1 != 0)) ++
    (List.range 8).map fun i => (0x40 + 8 * i, decide (f (0x40 + 8 * i) 8 / 2 ^ 28 ≠ 0))
  (bad.find? (·.2)).map (·.1)

/-- STATE of an envelope map entry (R188), and its digest. -/
def State.envState (s : State) (part e : Nat) : Nat := s.homeNat ((s.getPart part).desc.emBase + 128 * e) 1

def State.envDigest (s : State) (part e : Nat) : BitVec 512 :=
  BitVec.ofNat 512 (s.homeNat ((s.getPart part).desc.emBase + 128 * e + 0x40) 64)

/-- A bad block in the envelope map of a partition (R10, R11). -/
def State.mapBad (s : State) (part : Nat) : Option Nat := s.badIn (s.getPart part).desc.emBase 2048

/-- A bad block in some envelope map: each of the partitions that are not FREE. -/
def State.mapsBad (s : State) : Option Nat :=
  (List.range 129).findSome? fun p => if 0 < p ∧ (s.getPart p).st ≠ .free then s.mapBad p else none

/-- The map entries that a record requires, slot A then B, each with the offset of its field (R63). -/
def requiredEntries (enva envb : Byte) : List (Nat × Nat) :=
  (if enva.getLsbD 7 then [(0x26, enva.toNat % 16)] else []) ++ if envb.getLsbD 7 then [(0x27, envb.toNat % 16)] else []

/-- Step 3 of R64: the launch can be placed somewhere in the allotment, and its varying registers fit a core. -/
def placeLimit (d : Desc) (b : List Byte) : Option Nat :=
  let f (o n : Nat) : Nat := field b o n
  let fits := d.allot.any fun a =>
    match allotRect a with
    | none => false
    | some (_, _, w, h) => decide (f 0x12 1 ≤ w) && decide (f 0x13 1 ≤ h)
  if !fits then some 0x12
  else if 256 * 1024 < f 0x14 1 * f 0x15 1 * f 0x10 2 * 4 then some 0x15
  else none

/-- The rights that a rights field names, by bit number. -/
def namedRights (rights : Nat) : List Nat := (List.range 8).filterMap fun i => if bit rights i then some (20 + i) else none

/-- A compact capability translated (R63, R64 step 5): the rights asked for lie within the ceiling, all of its own for CAP0 to
CAP7, and it takes the object's LENGTH. There a handle of 0 with rights 0 gives a null capability. -/
def State.compactCap (s : State) (part x fo : Nat) (need : Option Nat) : Except QFail Cap :=
  let h := x % 2 ^ 20
  let rights := bits x 27 20
  if need.isNone && h == 0 && rights == 0 then .ok nullCap
  else
    match s.locCheck part h 0 0 (match need with | some r => [r] | none => namedRights rights) fo with
    | .error e => .error e
    | .ok d => .ok (Cap.make h rights 0 (ODesc.length d))

/-- The first failure of a list of capability fields, or all of them. -/
def State.compactCaps (s : State) (part : Nat) (b : List Byte) : List Nat → Except QFail (List Cap)
  | [] => .ok []
  | fo :: rest =>
    match s.compactCap part (field b fo 8) fo none with
    | .error e => .error e
    | .ok c =>
      match State.compactCaps s part b rest with
      | .error e => .error e
      | .ok cs => .ok (c :: cs)

/-- The launch record of its bytes, with its capabilities (R63). -/
def recordOf (b : List Byte) (code savef : Cap) (caps : List Cap) : LaunchRec :=
  let f (o n : Nat) : Nat := field b o n
  { code := code, entry := BitVec.ofNat 32 (f 8 4), trapEnt := BitVec.ofNat 32 (f 0xC 4), lanes := f 0x10 2, w := f 0x12 1,
    h := f 0x13 1, t := f 0x14 1, vregs := f 0x15 1, aregs := f 0x16 1, sregs := f 0x17 1, gridX := f 0x18 2,
    gridY := f 0x1A 2, scratch := f 0x1C 4, l1floor := f 0x20 4, pclass := f 0x24 1, fptrap := f 0x25 1,
    enva := BitVec.ofNat 8 (f 0x26 1), envb := BitVec.ofNat 8 (f 0x27 1), seed := BitVec.ofNat 64 (f 0x28 8), savef := savef,
    wbkeep := bit (f 0x38 1) 0, caps := caps, consts := (List.range 32).map fun i => BitVec.ofNat 32 (f (0x80 + 4 * i) 4) }

/-- A bad block that step 4 of R64 meets in the envelope map (R11). -/
def State.recordMapBad (s : State) (part : Nat) (b : List Byte) : Option Nat :=
  if (requiredEntries (BitVec.ofNat 8 (field b 0x26 1)) (BitVec.ofNat 8 (field b 0x27 1))).isEmpty ||
      (recordLimit b).isSome || (placeLimit (s.getPart part).desc b).isSome then none
  else s.mapBad part

/-- Step 4 of R64. -/
def State.envelopeLimit (s : State) (part : Nat) (b : List Byte) : Option QFail :=
  (requiredEntries (BitVec.ofNat 8 (field b 0x26 1)) (BitVec.ofNat 8 (field b 0x27 1))).findSome? fun p =>
    if s.envState part p.2 = 0 then some { cause := 0x51, info := p.2, fo := p.1, handle := 0, key := none } else none

/-- Step 5 of R64: CODE, then ENTRY and TRAPENT inside it, then SAVEF and CAP0 to CAP7. -/
def State.recordCaps (s : State) (part : Nat) (b : List Byte) : Except QFail LaunchRec :=
  match s.compactCap part (field b 0 8) 0 (some 23) with
  | .error e => .error e
  | .ok code =>
    if Cap.length code ≤ field b 8 4 then .error (.ill 0x08)
    else if field b 0xC 4 ≠ 0xFFFFFFFF ∧ Cap.length code ≤ field b 0xC 4 then .error (.ill 0x0C)
    else
      match s.compactCap part (field b 0x30 8) 0x30 (some 21) with
      | .error e => .error e
      | .ok savef =>
        match s.compactCaps part b ((List.range 8).map fun i => 0x40 + 8 * i) with
        | .error e => .error e
        | .ok caps => .ok (recordOf b code savef caps)

/-- Steps 2 to 5 of R64 on the bytes of a record. -/
def State.checkRecord (s : State) (part : Nat) (b : List Byte) : Except QFail LaunchRec :=
  match recordLimit b with
  | some o => .error (.ill o)
  | none =>
    match placeLimit (s.getPart part).desc b with
    | some o => .error (.ill o)
    | none =>
      match s.envelopeLimit part b with
      | some e => .error e
      | none => s.recordCaps part b

/-- What the checks of a record at a location answer: the record, the failure, or an uncorrectable error met on the way. -/
inductive RecordAnswer where
  | ok (r : LaunchRec)
  | fail (e : QFail)
  | ecc (pa : Nat)
  deriving DecidableEq, Repr

/-- VALIDATION OF A LAUNCH RECORD at a location whose handle field lies at byte 4 of its packet (R64). A LAUNCH asks that the
record be aligned (R60). -/
def State.validateRecord (s : State) (part h off : Nat) (aligned : Bool) : RecordAnswer :=
  if aligned && off % 256 != 0 then .fail (.misaligned h off 256 8)
  else
    match s.locate part h off 256 [20] 4 with
    | .error e => .fail e
    | .ok cs =>
      match (s.chunksBad cs).orElse fun _ => s.recordMapBad part (s.chunkBytes cs) with
      | some a => .ecc a
      | none =>
        match s.checkRecord part (s.chunkBytes cs) with
        | .ok r => .ok r
        | .error e => .fail e

/-- The class that a launch runs in (R63): the lower priority of the record's and the queue's. -/
def LaunchRec.classOn (r : LaunchRec) (q : Queue) : Nat := max r.pclass q.cls

end Sys2Proof.Machine
end

