-- ==== Sys2Proof/Machine/Engine.lean ====
section
/-!
DEFINITION. The engines of a core (R153-R155, R176, R339-R346, R356-R358): the order of their queues and QFENCE markers, copies
byte by byte from their cursor, tensor copies, multicasts, completion words, the weight buffer, and how an engine operation
parks or raises an asynchronous trap.
-/
namespace Sys2Proof.Machine

/-- What stops an engine operation or an island request: a failed check, an uncorrectable error (R176, R10), or a request that
does not end within its bound (R212). -/
inductive EngStop where
  | fail (f : Fail)
  | ecc (pa : Nat)
  | hang
  deriving DecidableEq, Repr

/-- A failed translation as an engine's failure. -/
def XErr.fail (e : XErr) (handle lane : Nat) : Fail :=
  { cause := e.cause, info := e.info, lane := lane, handle := handle, park := e.park, page := e.page }

/-- The image of a rank whose team has been saved with its scratchpad, and its launch (R179 step 5). -/
def State.padAway (s : State) (nb rank : Nat) : Option (Launch × Nb × SavedTeam) :=
  if (s.rankTeam? nb rank).isSome then none
  else
    match s.nb? nb with
    | none => none
    | some n =>
      if n.pads.any fun p => p.1 == rank then none
      else
        match s.launch? n.launch, n.saved.find? fun v => v.rank == rank with
        | some l, some v => some (l, n, v)
        | _, _ => none

/-- A byte of a scratchpad that a copy reads (R342): where its team has been saved with it, from the image, since an operation that
writes only memory stays in its queue (R179 step 4). -/
def State.padRead (s : State) (nb rank off : Nat) : Except EngStop Byte :=
  match s.padAway nb rank with
  | none => .ok (cellGet 0 (s.pad nb rank) off)
  | some (l, n, v) =>
    match v.place with
    | .ballast t => .ok (cellGet 0 t.scratch off)
    | .frame i =>
      let y := frameLayout l.prm
      let at_ := i * y.size + y.pad + off
      match s.frameBad n.part (Cap.handle l.prm.savef) at_ 1 with
      | some a => .error (.ecc a)
      | none => .ok ((s.frameRead n.part (Cap.handle l.prm.savef) at_ 1).headD 0)

/-- One source byte (R149, R342): the scratchpad copy or the home value, with right R. -/
def State.engineRead (s : State) (part nb lane : Nat) (e : CopyEnd) (off : Nat) : Except EngStop Byte :=
  match e with
  | .scratch rank => s.padRead nb rank off
  | .obj h =>
    match s.translate part h off 1 [20] 0x32 with
    | .error x => .error (.fail (x.fail h lane))
    | .ok x =>
      match s.badIn x.pa 1 with
      | some a => .error (.ecc a)
      | none => .ok (s.homeByte x.pa)

/-- The home checks of an engine's write, with the foreign-write check of R139. -/
def State.engineDest (s : State) (part lane h off n : Nat) (rights : List Nat) : Except Fail Xl :=
  match s.translate part h off n rights 0x32 with
  | .error x => .error (x.fail h lane)
  | .ok x =>
    if s.foreignWrite part x.obj x.desc off n none then
      .error { cause := 0x3E, info := infoA off n, lane := lane, handle := h, park := false, page := 0 }
    else .ok x

/-- Bytes that an engine of a core writes to an object (R149): DIRTY, then a .W store of that core, whose L1 holds the word up to
date or drops a round-n copy. -/
def State.engineStore (s : State) (core part h off pa hint : Nat) (bs : List Byte) : State :=
  (((s.noteHandle part h off bs.length).dirtyAt part h off).request part h off pa bs.length hint).drainThrough core part pa bs

/-- One destination byte, as a .W store or into a scratchpad (R342). -/
def State.engineWrite (s : State) (core part nb lane hint : Nat) (e : CopyEnd) (off : Nat) (b : Byte) : Except EngStop State :=
  match e with
  | .scratch rank => .ok (s.setPad nb rank off [b])
  | .obj h =>
    match s.engineDest part lane h off 1 [21] with
    | .error f => .error (.fail f)
    | .ok x => .ok (s.engineStore core part h off x.pa hint [b])

/-- A source byte of a copy is requested at its home (R130). -/
def State.touchEnd (s : State) (part hint : Nat) (e : CopyEnd) (off : Nat) : State :=
  match e with
  | .scratch _ => s
  | .obj h => s.touch part h off 1 hint

/-- A byte that a copy writes: its source, absent for a zero of the fill, its destination, and the lane. -/
structure CopyByte where
  src : Option (CopyEnd × Nat)
  dst : CopyEnd
  dstOff : Nat
  lane : Nat
  deriving DecidableEq, Repr

/-- The byte at a cursor of a list of pieces (R341, R342). -/
def pieceByte : List Piece → Nat → Option CopyByte
  | [], _ => none
  | p :: ps, c =>
    if c < p.len then
      some { src := if c < p.valid then some (p.src, p.srcOff + c) else none, dst := p.dst, dstOff := p.dstOff + c, lane := p.lane }
    else pieceByte ps (c - p.len)

/-- The byte at a cursor of a copy: pieces in order, or planes, rows and bytes ascending (R342, R344). -/
def Job.byteAt (j : Job) (c : Nat) : Option CopyByte :=
  match j with
  | .pieces l => pieceByte l c
  | .tensor src so dst d r y z srow drow splane dplane =>
    let row := c / r
    if r = 0 ∨ y = 0 ∨ z * y * r ≤ c then none
    else
      some { src := some (src, so + row / y * splane + row % y * srow + c % r), dst := dst,
             dstOff := d + row / y * dplane + row % y * drow + c % r, lane := 0 }
  | .multicast _ _ => none
  | .weightLoad _ _ _ _ _ => none
  | .weightGather _ _ _ _ _ _ _ _ => none
  | .fence _ _ => none

/-- How many bytes a copy writes. -/
def Job.total (j : Job) : Nat :=
  match j with
  | .pieces l => (l.map (·.len)).sum
  | .tensor _ _ _ _ r y z _ _ _ _ => r * y * z
  | .multicast _ _ => 0
  | .weightLoad _ _ _ _ _ => 0
  | .weightGather _ _ _ _ _ _ _ _ => 0
  | .fence _ _ => 0

/-- A copy from its cursor on: each source byte is read when its destination byte is written (R342, R344). The state, the
cursor reached, and what stopped it. -/
def State.copyBytes (core part nb hint : Nat) (j : Job) : Nat → State → Nat → State × Nat × Option EngStop
  | 0, s, c => (s, c, none)
  | n + 1, s, c =>
    match j.byteAt c with
    | none => (s, c, none)
    | some b =>
      let v : Except EngStop Byte := match b.src with
        | none => .ok 0
        | some p => s.engineRead part nb b.lane p.1 p.2
      match v with
      | .error e => (s, c, some e)
      | .ok x =>
        let s0 := match b.src with
          | none => s
          | some p => s.touchEnd part hint p.1 p.2
        match s0.engineWrite core part nb b.lane hint b.dst b.dstOff x with
        | .error e => (s0, c, some e)
        | .ok s1 => State.copyBytes core part nb hint j n s1 (c + 1)

/-- Of two failures that of the lower lane, and of two of one lane the earlier (R164, R167). -/
def lowerFail (a : Option Fail) (b : Fail) : Option Fail :=
  match a with
  | none => some b
  | some x => if b.lane < x.lane then some b else some x

/-- The failure of the home checks of a multicast, in the order of R34 and R119 over every destination (R346): of the earliest check
that any fails, the lowest lane's (R164). -/
def State.multicastFail (s : State) (part op : Nat) (l : List McWord) : Option Fail :=
  let rights := if op = 0 then [21] else [21, 22]
  let fails := l.filterMap fun w =>
    match w.dst with
    | .scratch _ => none
    | .obj h =>
      match s.engineDest part w.lane h w.off 4 rights with
      | .error f => some f
      | .ok _ => none
  (List.range 9).findSome? fun k => (fails.filter fun f => (if f.cause = 0x3E then 8 else homeStage f.cause) == k).foldl lowerFail none

/-- One word of a multicast (R346): written, or combined with the word at its home or in its scratchpad. -/
def State.multicastWord (s : State) (core part nb op hint : Nat) (w : McWord) : State :=
  let new (old : Nat) : Nat := if op = 0 then w.data.toNat else (atomicOp (op - 1) 4 old w.data.toNat 0).getD old
  match w.dst with
  | .scratch rank => s.setPad nb rank w.off (leBytes 4 (new (cellNat 0 (s.pad nb rank) w.off 4)))
  | .obj h =>
    match s.translate part h w.off 4 [] 0x32 with
    | .error _ => s
    | .ok x => s.engineStore core part h w.off x.pa hint (leBytes 4 (new (s.homeNat x.pa 4)))

/-- The first bad block among the words that a reducing multicast reads (R10). -/
def State.multicastBad (s : State) (part op : Nat) (l : List McWord) : Option Nat :=
  if op = 0 then none
  else l.findSome? fun w =>
    match w.dst with
    | .scratch _ => none
    | .obj h =>
      match s.translate part h w.off 4 [] 0x32 with
      | .error _ => none
      | .ok x => s.badIn x.pa 4

/-- A QFENCE marker (R154): its number, its set and its partition. -/
structure Mark where
  id : Nat
  set : Nat
  part : Nat
  deriving DecidableEq, Repr

/-- The head of queue `k` of a core (R154): 0 the copy queue, 1 and 2 the island slots, 3 the weight-buffer queue; the marker
that it is, if it is one. -/
def Core.headFence (c : Core) (k : Nat) : Option Mark :=
  let ofJob (l : List EngineOp) : Option Mark :=
    match l.head? with
    | none => none
    | some e =>
      match e.job with
      | .fence id set => some { id := id, set := set, part := e.part }
      | .pieces _ => none
      | .tensor _ _ _ _ _ _ _ _ _ _ _ => none
      | .multicast _ _ => none
      | .weightLoad _ _ _ _ _ => none
      | .weightGather _ _ _ _ _ _ _ _ => none
  let ofReq (l : List IslandReq) : Option Mark :=
    (l.head?).bind fun r => r.fence.map fun f => { id := f.1, set := f.2, part := r.part }
  match k with
  | 0 => ofJob c.copyQ
  | 1 => ofReq c.slotA.queue
  | 2 => ofReq c.slotB.queue
  | _ => ofJob c.wbQ

/-- Remove the head of queue `k`. -/
def Core.popQueue (c : Core) (k : Nat) : Core :=
  match k with
  | 0 => { c with copyQ := c.copyQ.drop 1 }
  | 1 => { c with slotA := { c.slotA with queue := c.slotA.queue.drop 1 } }
  | 2 => { c with slotB := { c.slotB with queue := c.slotB.queue.drop 1 } }
  | _ => { c with wbQ := c.wbQ.drop 1 }

/-- The queues of a set, by number. -/
def queuesOf (set : Nat) : List Nat := (List.range 4).filter fun k => bit set k

/-- An island request or engine operation that a save took out of a queue of a core and that is not back yet (R179). -/
structure HeldItem where
  part : Nat
  queue : Nat
  id : Nat
  deriving DecidableEq, Repr

/-- A job of the weight-buffer queue. -/
def Job.isWeight (j : Job) : Bool :=
  match j with
  | .weightLoad _ _ _ _ _ => true
  | .weightGather _ _ _ _ _ _ _ _ => true
  | .pieces _ => false
  | .tensor _ _ _ _ _ _ _ _ _ _ _ => false
  | .multicast _ _ => false
  | .fence _ _ => false

/-- What the saves of teams of a core hold of its queues (R179, R182). -/
def State.heldItems (s : State) (core : Nat) : List HeldItem :=
  s.nbs.flatMap fun n => n.saved.flatMap fun v =>
    if v.core = core then
      (v.heldReqs.map fun r => ({ part := r.part, queue := 1 + r.slot, id := r.id } : HeldItem)) ++
        v.heldOps.map fun e => { part := e.part, queue := if e.job.isWeight then 3 else 0, id := e.id }
    else []

/-- What is held was submitted to a queue of the marker's set before it: the QFENCE waits until it is back and has performed
(R154). -/
def Mark.waits (f : Mark) (held : List HeldItem) : Bool :=
  held.any fun h => h.part == f.part && (queuesOf f.set).contains h.queue && decide (h.id < f.id)

/-- A QFENCE goes once its markers head every queue of its set and nothing that was submitted before it is held (R154). -/
def Core.settleFences (held : List HeldItem) : Nat → Core → Core
  | 0, c => c
  | n + 1, c =>
    let ready := (List.range 4).findSome? fun k =>
      match c.headFence k with
      | none => none
      | some f => if ((queuesOf f.set).all fun j => c.headFence j == some f) && !f.waits held then some f else none
    match ready with
    | none => c
    | some f => Core.settleFences held n ((queuesOf f.set).foldl Core.popQueue c)

/-- Settle every marker of a core. -/
def Core.settled (held : List HeldItem) (c : Core) : Core :=
  Core.settleFences held (c.copyQ.length + c.wbQ.length + c.slotA.queue.length + c.slotB.queue.length) c

def State.settleCore (s : State) (core : Nat) : State := s.mapCore core (Core.settled (s.heldItems core))

/-- The queue of engine `wb`: the weight-buffer queue, or the copy queue. -/
def Core.engQ (c : Core) (wb : Bool) : List EngineOp := if wb then c.wbQ else c.copyQ

def Core.setEngQ (c : Core) (wb : Bool) (l : List EngineOp) : Core := if wb then { c with wbQ := l } else { c with copyQ := l }

/-- Replace the head of an engine queue. -/
def State.setEngHead (s : State) (core : Nat) (wb : Bool) (op : EngineOp) : State :=
  s.mapCore core fun c => c.setEngQ wb (op :: (c.engQ wb).drop 1)

/-- The head leaves its queue (R153). -/
def State.popEng (s : State) (core : Nat) (wb : Bool) : State :=
  (s.mapCore core fun c => c.setEngQ wb ((c.engQ wb).drop 1)).settleCore core

/-- Every store-queue entry of the issuing team older than the issue has drained, marks of FENCE.REL with them (R153, R150). -/
def State.submitted (s : State) (uid after : Nat) : Bool :=
  match s.team? uid with
  | none => true
  | some t => (t.storeQ.all fun e => decide (after ≤ e.seq)) && t.winStores.all fun w => decide (after ≤ w.seq)

/-- A QFENCE marker is no operation: it goes by `settleFences` (R154). -/
def Job.isFence (j : Job) : Bool :=
  match j with
  | .fence _ _ => true
  | .pieces _ => false
  | .tensor _ _ _ _ _ _ _ _ _ _ _ => false
  | .multicast _ _ => false
  | .weightLoad _ _ _ _ _ => false
  | .weightGather _ _ _ _ _ _ _ _ => false

/-- The ranks whose scratchpads a copy writes (R179 step 4). -/
def Job.padsWritten (j : Job) : List Nat :=
  let rank (e : CopyEnd) : Option Nat :=
    match e with
    | .scratch r => some r
    | .obj _ => none
  match j with
  | .pieces l => (l.filterMap fun p => rank p.dst).eraseDups
  | .tensor _ _ dst _ _ _ _ _ _ _ _ => (rank dst).toList
  | .multicast _ l => (l.filterMap fun w => rank w.dst).eraseDups
  | .weightLoad _ _ _ _ _ => []
  | .weightGather _ _ _ _ _ _ _ _ => []
  | .fence _ _ => []

/-- A copy would write a scratchpad that has been saved with its team, and waits for it. -/
def State.padGone (s : State) (op : EngineOp) : Bool := op.job.padsWritten.any fun r => (s.padAway op.nb r).isSome

/-- An operation at the head of its queue may perform. -/
def State.engReady (s : State) (op : EngineOp) : Bool :=
  !op.job.isFence && op.parked.isNone && op.asking.isNone && !op.done && s.submitted op.uid op.after && !s.padGone op

/-- The slot that a record names for a team, 0 where it holds none. -/
def State.slotOf (s : State) (uid : Nat) : Nat := ((s.team? uid).map (·.slot)).getD 0

/-- The cursor that a record names: the bytes written by a CPYT or CPYM, and 0 for any other operation (R173). -/
def EngineOp.recorded (op : EngineOp) : Nat :=
  match op.job with
  | .tensor _ _ _ _ _ _ _ _ _ _ _ => op.cursor
  | .multicast _ _ => op.cursor
  | .pieces _ => 0
  | .weightLoad _ _ _ _ _ => 0
  | .weightGather _ _ _ _ _ _ _ _ => 0
  | .fence _ _ => 0

/-- The agent number of an engine queue (R173). -/
def engAgent (wb : Bool) : Nat := if wb then 4 else 1

/-- Park an engine operation (R176): under the token of its key, or waiting for an entry. -/
def State.parkEng (s : State) (core : Nat) (wb : Bool) (op : EngineOp) (a : Asking) : State :=
  let mk (key : Option (Nat × Nat)) (tok : Nat) : WaitEntry :=
    { part := op.part, cause := a.cause, key := key, info := BitVec.ofNat 64 (parkInfo a.cause a.handle a.page), token := tok,
      waiters := 1, wake := false, agent := engAgent wb, slot := s.slotOf op.uid, pc := op.pc, handle := a.handle,
      lane := a.lane, cursor := op.recorded, posted := false }
  match s.parkIn core op.part a.cause a.handle a.page a.order mk with
  | some (tok, s1) => s1.setEngHead core wb { op with parked := some tok, asking := none }
  | none => s.setEngHead core wb { op with asking := some a }

/-- The end of an engine operation under a trap-class fault (R176): nothing further, its tag retires, the trap is delivered. -/
def State.trapEng (s : State) (core : Nat) (wb : Bool) (op : EngineOp) (f : Fail) : State :=
  let s1 := (s.popEng core wb).asyncTrap op.part op.uid core
    { cause := BitVec.ofNat 8 f.cause, info := BitVec.ofNat 64 f.info, handle := f.handle, lane := f.lane, pc := op.pc,
      agent := engAgent wb, cursor := op.recorded }
  if op.hasTag then s1.tagDone op.uid op.tag else s1

/-- What a stopped engine operation does (R176, R10). -/
def State.stopEng (s : State) (core : Nat) (wb : Bool) (op : EngineOp) : EngStop → State
  | .fail f =>
    if f.cause = 0x39 then (s.setEngHead core wb op).uncorrectable f.info false
    else if f.park then
      let (n, s1) := s.fresh
      s1.parkEng core wb op { cause := f.cause, handle := f.handle, page := f.page, lane := f.lane, order := n }
    else s.trapEng core wb op f
  | .ecc pa => (s.setEngHead core wb op).uncorrectable pa false
  | .hang => s

/-- The checks of a completion word when its operation starts to perform (R340). -/
def State.cwCheck (s : State) (part : Nat) (w : CompWord) : Except Fail CompWord :=
  match s.engineDest part 0 w.handle w.off 8 [21] with
  | .error f => .error f
  | .ok x =>
    let bad (cause info : Nat) : Except Fail CompWord :=
      .error { cause := cause, info := info, lane := 0, handle := w.handle, park := false, page := 0 }
    if !ODesc.mailbox x.desc then .ok { w with pa := some x.pa }
    else if !w.canNotify then bad 0x24 (infoA w.off 25)
    else if (s.getPart part).desc.mailboxes ≤ w.off / 8 then bad 0x4F (w.off / 8)
    else .ok { w with pa := some x.pa, mailbox := some (w.off / 8) }

/-- The operation with its completion word checked, once. -/
def State.startEng (s : State) (op : EngineOp) : Except Fail EngineOp :=
  match op.cw with
  | none => .ok op
  | some w =>
    if w.pa.isSome then .ok op
    else
      match s.cwCheck op.part w with
      | .error f => .error f
      | .ok w1 => .ok { op with cw := some w1 }

/-- The work of a copy-queue operation: the state, the operation as it stands, and what stopped it (R342, R344, R346). -/
def State.copyWork (s : State) (core : Nat) (op : EngineOp) : State × EngineOp × Option EngStop :=
  match op.job with
  | .multicast k l =>
    match s.multicastFail op.part k l with
    | some f => (s, op, some (.fail f))
    | none =>
      match s.multicastBad op.part k l with
      | some a => (s, op, some (.ecc a))
      | none => (l.foldl (fun s w => s.multicastWord core op.part op.nb k op.hint w) s, { op with cursor := 4 * l.length }, none)
  | j =>
    let r := State.copyBytes core op.part op.nb op.hint j (j.total - op.cursor) s op.cursor
    (r.1, { op with cursor := r.2.1 }, r.2.2)

/-- ENGINE_PERFORM (R153, R342-R346): the head of a core's copy queue performs, up to its end, a park or a trap. -/
def execEnginePerform (core : Nat) (s : State) : Out :=
  match (s.getCore core).copyQ.head? with
  | none => .next s
  | some op =>
    if !s.engReady op then .next s
    else
      match s.startEng op with
      | .error f => .next (s.stopEng core false op (.fail f))
      | .ok op1 =>
        let r := s.copyWork core op1
        match r.2.2 with
        | some e => .next (r.1.stopEng core false r.2.1 e)
        | none => .next (r.1.setEngHead core false { r.2.1 with done := true })

/-- The bad block that a completion would read with its word (R10). -/
def State.cwBad (s : State) (op : EngineOp) : Option Nat := (op.cw.bind (·.pa)).bind fun pa => s.badIn pa 8

/-- COPY_COMPLETION (R155, R339, R340): one release: the word, its arrival, the tag, and the next entry of the queue. -/
def execCopyCompletion (core : Nat) (s : State) : Out :=
  match (s.getCore core).copyQ.head? with
  | none => .next s
  | some op =>
    if !op.done then .next s
    else if let some a := s.cwBad op then .next (s.uncorrectable a false)
    else
      let s1 := s.popEng core false
      let s2 :=
        match op.cw with
        | none => s1
        | some w =>
          match w.pa with
          | none => s1
          | some pa =>
            let s2 := s1.deviceWrite op.part w.handle w.off pa (leBytes 8 (s1.homeNat pa 8 + 1))
            match w.mailbox with
            | none => s2
            | some m => s2.arrival op.part m
      .next (if op.hasTag then s2.tagDone op.uid op.tag else s2)

/-- Width in bits of an element code (R219, R356): FP19 takes a word. -/
def codeWidth (c : Nat) : Nat :=
  if c ≤ 4 then 4 else if c ≤ 6 then 6 else if c ≤ 11 then 8 else if c = 14 then 32 else 16

/-- Units of a tile of an element code (R356). -/
def tileUnits (c : Nat) : Nat := ceilDiv (64 + 128 * codeWidth c) 64

/-- A tile header's rules (R356): reserved bits zero, no scale bytes in an unscaled format. -/
def headerOk (h : Nat) : Bool := bits h 255 5 == 0 && (bit h 4 || bits h 511 256 == 0)

/-- A unit of the weight buffer; one that nothing has written reads as zero (log entry 9). -/
def Core.unit (c : Core) (u : Nat) : List Byte :=
  ((c.wb.find? fun x => x.idx == u).map (·.bytes)).getD (List.replicate 64 0)

/-- Write units from `u` on, 64 bytes each, for a neighbourhood, read through a handle (R124, R39). -/
def Core.putUnits (c : Core) (nb h u : Nat) (bs : List Byte) : Core :=
  let new : List WbUnit := (List.range (ceilDiv bs.length 64)).map fun i =>
    { idx := u + i, nb := nb, handle := h,
      bytes := (bs.drop (64 * i)).take 64 ++ List.replicate (64 - ((bs.drop (64 * i)).take 64).length) 0 }
  { c with wb := new ++ c.wb.filter fun x => !(new.any fun y => y.idx == x.idx) }

/-- Source bytes of a weight-buffer operation. -/
def State.engineBytes (s : State) (part h : Nat) : Nat → Nat → Except EngStop (List Byte)
  | 0, _ => .ok []
  | n + 1, off =>
    match s.engineRead part 0 0 (.obj h) off with
    | .error e => .error e
    | .ok b =>
      match State.engineBytes s part h n (off + 1) with
      | .error e => .error e
      | .ok bs => .ok (b :: bs)

/-- A trap of a weight-buffer operation. -/
def wbFail (cause info h : Nat) : EngStop :=
  .fail { cause := cause, info := info, lane := 0, handle := h, park := false, page := 0 }

/-- One tile of a WBLD at object offset `off` into unit `u`: the state and the units placed (R357). -/
def State.loadTile (s : State) (core part nb hint h off lim u : Nat) : Except EngStop (State × Nat) :=
  if lim < off + 64 then .error (wbFail 0x22 (infoA off 64) h)
  else
    match s.engineBytes part h 64 off with
    | .error e => .error e
    | .ok hb =>
      let hd := leNat hb
      let n := tileUnits (bits hd 3 0)
      if !headerOk hd || decide (1024 < u + n) then .error (wbFail 0x48 (hd % 2 ^ 32) h)
      else if lim < off + 64 * n then .error (wbFail 0x22 (infoA off (64 * n)) h)
      else
        match s.engineBytes part h (64 * n - 64) (off + 64) with
        | .error e => .error e
        | .ok bs => .ok ((s.touch part h off (64 * n) hint).mapCore core fun c => c.putUnits nb h u (hb ++ bs), n)

/-- The tiles of a WBLD from `off`, unit `u` on: the state, what remains as (offset, unit, tiles), and what stopped it. -/
def State.loadTiles (core part nb hint h lim : Nat) : Nat → State → Nat → Nat → State × (Nat × Nat × Nat) × Option EngStop
  | 0, s, off, u => (s, (off, u, 0), none)
  | n + 1, s, off, u =>
    match s.loadTile core part nb hint h off lim u with
    | .error e => (s, (off, u, n + 1), some e)
    | .ok (s1, k) => State.loadTiles core part nb hint h lim n s1 (off + 64 * k) (u + k)

/-- WBLD_PERFORM (R357). -/
def execWbldPerform (core : Nat) (s : State) : Out :=
  match (s.getCore core).wbQ.head? with
  | none => .next s
  | some op =>
    match op.job with
    | .weightLoad h off lim u n =>
      if !s.engReady op then .next s
      else
        let r := State.loadTiles core op.part op.nb op.hint h lim n s off u
        match r.2.2 with
        | none => .next (r.1.popEng core true)
        | some e => .next (r.1.stopEng core true { op with job := .weightLoad h r.2.1.1 lim r.2.1.2.1 r.2.1.2.2 } e)
    | .pieces _ => .next s
    | .tensor _ _ _ _ _ _ _ _ _ _ _ => .next s
    | .multicast _ _ => .next s
    | .weightGather _ _ _ _ _ _ _ _ => .next s
    | .fence _ _ => .next s

/-- Element (k, n) of a tile held as one number: its lowest bit (R356, R220). -/
def tileBit (w k n : Nat) : Nat := 512 + n * 32 * w + k * w

/-- A tile with one element's code replaced. -/
def tilePut (w tile k n v : Nat) : Nat :=
  let p := tileBit w k n
  tile - (tile >>> p % 2 ^ w) * 2 ^ p + (v % 2 ^ w) * 2 ^ p

/-- What a WBGTH reads of its descriptor (R358). -/
structure Gather where
  rows : Nat
  nnz : Nat
  cols : Nat
  rowp : Nat
  colx : Nat
  vals : Nat
  scales : Nat
  fmt : Nat
  deriving DecidableEq, Repr

def gatherOf (d : Nat) : Gather :=
  { rows := bits d 31 0, nnz := bits d 63 32, cols := bits d 95 64, rowp := bits d 191 128, colx := bits d 255 192,
    vals := bits d 319 256, scales := bits d 383 320, fmt := bits d 391 384 }

/-- Reserved fields of the descriptor: the word at 0x0C, bytes 0x31 to 0x3F, FMT above 31, and the scale offset of an
unscaled format (R358). -/
def gatherOk (d : Nat) : Bool :=
  bits d 127 96 == 0 && bits d 511 392 == 0 && bits d 391 389 == 0 && (bit d 388 || bits d 383 320 == 0)

/-- A number of `n` bytes that a WBGTH reads at a capability offset. -/
def State.gatherRead (s : State) (op : EngineOp) (h base lim off n : Nat) : Except EngStop (State × Nat) :=
  if lim < base + off + n then .error (wbFail 0x22 (infoA (base + off) n) h)
  else
    match s.engineBytes op.part h n (base + off) with
    | .error e => .error e
    | .ok bs => .ok (s.touch op.part h (base + off) n op.hint, leNat bs)

/-- The scale bytes of a tile from the cursor on, column by column. -/
def State.gatherScales (op : EngineOp) (h base lim : Nat) (g : Gather) (k0 n0 : Nat) :
    Nat → State → GatherCur → State × GatherCur × Option EngStop
  | 0, s, c => (s, c, none)
  | n + 1, s, c =>
    if g.cols ≤ n0 + c.scale then (s, { c with scale := 32 }, none)
    else
      match s.gatherRead op h base lim (g.scales + k0 / 32 * g.cols + n0 + c.scale) 1 with
      | .error e => (s, c, some e)
      | .ok (s1, v) =>
        State.gatherScales op h base lim g k0 n0 n s1 { c with scale := c.scale + 1, tile := c.tile + v * 2 ^ (256 + 8 * c.scale) }

/-- The entries `i` to `last` of the cursor's row of the matrix. -/
def State.gatherRow (op : EngineOp) (h base lim : Nat) (g : Gather) (n0 last : Nat) :
    Nat → State → GatherCur → Nat → State × GatherCur × Option EngStop
  | 0, s, c, _ => (s, { c with entry := none, row := c.row + 1 }, none)
  | n + 1, s, c, i =>
    let w := codeWidth (bits g.fmt 3 0)
    let vb := if w ≤ 8 then 1 else w / 8
    let at_ : GatherCur := { c with entry := some (i, last) }
    match s.gatherRead op h base lim (g.colx + 4 * i) 4 with
    | .error e => (s, at_, some e)
    | .ok (s1, j) =>
      if g.cols ≤ j then (s1, at_, some (wbFail 0x49 j h))
      else if n0 ≤ j ∧ j < n0 + 32 then
        match s1.gatherRead op h base lim (g.vals + vb * i) vb with
        | .error e => (s1, at_, some e)
        | .ok (s2, v) => State.gatherRow op h base lim g n0 last n s2 { c with tile := tilePut w c.tile c.row (j - n0) v } (i + 1)
      else State.gatherRow op h base lim g n0 last n s1 c (i + 1)

/-- The bounds of the cursor's row (R358): from the row pointers, or those in hand. -/
def State.gatherBounds (s : State) (op : EngineOp) (h base lim : Nat) (g : Gather) (k0 : Nat) (c : GatherCur) :
    Except EngStop (State × Nat × Nat) :=
  match c.entry with
  | some (i, last) => .ok (s, i, last)
  | none =>
    match s.gatherRead op h base lim (g.rowp + 4 * (k0 + c.row)) 4 with
    | .error e => .error e
    | .ok (s1, a) =>
      match s1.gatherRead op h base lim (g.rowp + 4 * (k0 + c.row + 1)) 4 with
      | .error e => .error e
      | .ok (s2, b) =>
        if g.nnz < a then .error (wbFail 0x49 a h)
        else if b < a ∨ g.nnz < b then .error (wbFail 0x49 b h)
        else .ok (s2, a, b)

/-- The rows of a tile from the cursor on (R358). -/
def State.gatherRows (op : EngineOp) (h base lim : Nat) (g : Gather) (k0 n0 : Nat) :
    Nat → State → GatherCur → State × GatherCur × Option EngStop
  | 0, s, c => (s, c, none)
  | n + 1, s, c =>
    if g.rows ≤ k0 + c.row then (s, c, none)
    else
      match s.gatherBounds op h base lim g k0 c with
      | .error e => (s, c, some e)
      | .ok (s1, a, b) =>
        match State.gatherRow op h base lim g n0 b (b - a) s1 c a with
        | (s2, c2, some e) => (s2, c2, some e)
        | (s2, c2, none) => State.gatherRows op h base lim g k0 n0 n s2 c2

/-- A WBGTH from its cursor on (R358, R176): scales, then rows. -/
def State.gatherWork (s : State) (op : EngineOp) (h base lim k0 n0 : Nat) (c : GatherCur) : State × GatherCur × Option EngStop :=
  let g := gatherOf c.desc
  let r := if bit g.fmt 4 then State.gatherScales op h base lim g k0 n0 (32 - c.scale) s c else (s, c, none)
  match r with
  | (s1, c1, some e) => (s1, c1, some e)
  | (s1, c1, none) => State.gatherRows op h base lim g k0 n0 (32 - c1.row) s1 c1

/-- The cursor at which a WBGTH starts: its descriptor read and judged (R358). -/
def State.gatherStart (s : State) (op : EngineOp) (h off lim u : Nat) (cur : Option GatherCur) : Except EngStop (State × GatherCur) :=
  match cur with
  | some c => .ok (s, c)
  | none =>
    match s.gatherRead op h 0 lim off 64 with
    | .error e => .error e
    | .ok (s1, d) =>
      let g := gatherOf d
      if !gatherOk d || decide (1024 < u + tileUnits (bits g.fmt 3 0)) then .error (wbFail 0x48 g.fmt h)
      else .ok (s1, { desc := d, tile := g.fmt, scale := 0, row := 0, entry := none })

/-- WBGTH_PERFORM (R358): what has been built of the tile is placed, whole or up to what stopped it. -/
def execWbgthPerform (core : Nat) (s : State) : Out :=
  match (s.getCore core).wbQ.head? with
  | none => .next s
  | some op =>
    match op.job with
    | .weightGather h off base lim u k0 n0 cur =>
      if !s.engReady op then .next s
      else
        match s.gatherStart op h off lim u cur with
        | .error e => .next (s.stopEng core true op e)
        | .ok (s0, c) =>
          let n := tileUnits (bits (gatherOf c.desc).fmt 3 0)
          let r := s0.gatherWork op h base lim k0 n0 c
          let s1 := r.1.mapCore core fun x => x.putUnits op.nb h u (leBytes (64 * n) r.2.1.tile)
          match r.2.2 with
          | some e => .next (s1.stopEng core true { op with job := .weightGather h off base lim u k0 n0 (some r.2.1) } e)
          | none => .next (s1.popEng core true)
    | .weightLoad _ _ _ _ _ => .next s
    | .pieces _ => .next s
    | .tensor _ _ _ _ _ _ _ _ _ _ _ => .next s
    | .multicast _ _ => .next s
    | .fence _ _ => .next s

end Sys2Proof.Machine
end

