-- ==== Sys2Proof/Machine/Island.lean ====
section
/-!
DEFINITION. Island slots (R153, R156, R184-R194, R212, R353, R387): request queues and what waits in them, the island cache,
accesses through bindings, parking and traps of single requests, BIND and REGW, line entries, and the hang of a slot.
-/
namespace Sys2Proof.Machine

/-- Slot 0 is A, 1 is B. -/
def Core.islSlot (c : Core) (k : Nat) : Slot := if k = 0 then c.slotA else c.slotB

def State.getSlot (s : State) (core k : Nat) : Slot := (s.getCore core).islSlot k

def State.mapSlot (s : State) (core k : Nat) (f : Slot → Slot) : State :=
  s.mapCore core fun c => if k = 0 then { c with slotA := f c.slotA } else { c with slotB := f c.slotB }

/-- A word of the register space at a byte offset (R185). -/
def Slot.reg (x : Slot) (o : Nat) : Word := x.regs[o / 4]?.getD 0

/-- Binding Bb (R185). -/
def Slot.binding (x : Slot) (b : Nat) : Cap :=
  BitVec.ofNat 128 (leNat ((List.range 4).flatMap fun i => leBytes 4 (x.reg (16 * b + 4 * i)).toNat))

/-- The words that a KIND returns under a class (R190, R196, R200, R204, R208, R210), or none where the contract lists no such
KIND. A title's KINDs are the title's own (R212). -/
def kindWords (cls : Nat) (w0 : Word) (k : Nat) : Option Nat :=
  let kind := bits w0.toNat 3 0
  if kind = 0xE ∨ kind = 0xF then some 0
  else
    match cls with
    | 1 => if 1 ≤ kind ∧ kind ≤ 3 then some 1 else none
    | 2 => if kind = 1 then some 0 else none
    | 3 => if 1 ≤ kind ∧ kind ≤ 3 then some (if w0.getLsbD 4 then 4 else 2) else none
    | 4 => if kind = 1 then some 2 else none
    | 5 => if kind = 1 ∨ kind = 2 then some 0 else none
    | _ => if kind = 0 then none else some k

/-- KIND of a lane. -/
def LaneReq.kind (l : LaneReq) : Nat := bits (l.words.headD 0).toNat 3 0

/-- BIND and REGW (R190). -/
def LaneReq.isCtl (l : LaneReq) : Bool := l.kind == 0xE || l.kind == 0xF

def IslandReq.isCtl (r : IslandReq) : Bool := r.lanes.any (·.isCtl)

/-- A request that writes memory through a binding: one of BLND, and one of a title's KINDs that write (R153, log entry 14). -/
def IslandReq.writes (r : IslandReq) : Bool :=
  r.lanes.any fun l => !l.isCtl && (r.cls == 5 || (r.cls == 6 && Config.titleKindWrites r.env l.kind))

/-- The request is stopped: parked, or waiting for an entry. -/
def IslandReq.out (r : IslandReq) : Bool := r.parked.isSome || r.asking.isSome

/-- Two requests owe entries to a common line of one team (R153). -/
def IslandReq.shares (r q : IslandReq) : Bool :=
  r.uid == q.uid && decide (r.line < q.line + q.k) && decide (q.line < r.line + r.k)

/-- A request waits for an earlier one that has parked (R153): its partition's, since the slot is one partition's at a time and is
saved with what it holds (R86, R179). -/
def IslandReq.waitsFor (r q : IslandReq) : Bool :=
  q.out && r.part == q.part && (q.writes || r.isCtl || (r.id != q.id && r.shares q))

/-- The position of the request that performs next (R153, R154): the first that is not stopped, if nothing before it holds
it. -/
def nextReq : List IslandReq → List IslandReq → Nat → Option Nat
  | _, [], _ => none
  | before, r :: rest, i =>
    if r.fence.isSome then none
    else if r.out then nextReq (before ++ [r]) rest (i + 1)
    else if before.any fun q => r.waitsFor q then none
    else some i

/-- Requests that a save took out of a slot of a core and that are not back yet (R179): what waits for a parked request waits
for them too (R153). -/
def State.heldOf (s : State) (core k : Nat) : List IslandReq :=
  s.nbs.flatMap fun n => n.saved.flatMap fun v =>
    if v.core = core then (v.heldReqs.filter fun r => r.slot == k).map fun r => { r with parked := some 0 } else []

/-- The request of a slot that performs next. What was queued before a reload performs first, with the slot as it was (R213). -/
def State.nextOf (s : State) (core k : Nat) : Option Nat := nextReq (s.heldOf core k) (s.getSlot core k).queue 0

/-- What a read of an island takes from its request: the start of its team's launch, and the class of HINT (R156, R130). -/
structure Reader where
  launch : Nat
  hint : Nat
  deriving DecidableEq, Repr

def IslandReq.reader (r : IslandReq) : Reader := { launch := r.launch, hint := r.hint }

/-- One byte through the island cache (R156, R184): a line held for the partition answers where it was fetched since the launch
of the reading team began; else the line is fetched from the homes. When a held line has been lost meanwhile, and which line
makes room, the spec leaves open (log entry 15). -/
def State.cacheByte (s : State) (core k part : Nat) (rd : Reader) (h off pa : Nat) : Except EngStop (State × Byte) :=
  let n := Config.freeNat s.freeCtr
  let s1 : State := { s with freeCtr := s.freeCtr + 1 }
  let line := pa / 128
  let fetch : Except EngStop (State × Byte) :=
    match (s.badIn (128 * line) 128).orElse fun _ => s.classBad part h off rd.hint with
    | some a => .error (.ecc a)
    | none =>
      let (stamp, s2) := (s1.request part h off pa 1 rd.hint).fresh
      let l : CacheLine := { part := part, line := line, stamp := stamp, bytes := s.homeBytes (128 * line) 128 }
      .ok (s2.mapSlot core k fun x =>
        let rest := x.cache.filter fun y => !(y.part == part && y.line == line)
        { x with cache := l :: if rest.length < 192 then rest else dropAt rest (n / 2 % rest.length) }, s.homeByte pa)
  match (s.getSlot core k).cache.find? fun y => y.part == part && y.line == line && decide (rd.launch < y.stamp) with
  | some y => if n % 2 = 0 then .ok (s1, y.bytes[pa % 128]?.getD 0) else fetch
  | none => fetch

/-- The checks of an access through a binding (R387): R or W in the binding and bounds, the descriptor, ISLRD and I, then the
checks of R119. `rights` are 20 for a read, 21 for a write. -/
def State.islCheck (s : State) (part lane : Nat) (cap : Cap) (off n : Nat) (rights : List Nat) : Except EngStop Nat :=
  let h := Cap.handle cap
  let o := Cap.base cap + off
  let bad (cause info : Nat) : Except EngStop Nat :=
    .error (.fail { cause := cause, info := info, lane := lane, handle := h, park := false, page := 0 })
  match missingRight (Cap.rights cap) rights with
  | some r => bad (rightCause r) (infoA o r)
  | none =>
    if Cap.length cap < off + n ∨ 2 ^ 48 ≤ o then bad 0x22 (infoA o n)
    else
      match s.lookupHandle part h with
      | .error c =>
        match s.walkBad part h with
        | some a => .error (.ecc a)
        | none => bad c (infoA o n)
      | .ok (_, d) =>
        if ODesc.ok d && (!ODesc.islrd d || !bit (ODesc.ceil d) 6) then bad 0x29 (infoA o 26)
        else
          match s.translate part h o n rights 0x33 with
          | .error e => .error (.fail (e.fail h lane))
          | .ok x => .ok x.pa

/-- The bytes of an island read through the cache, each translated. -/
def State.islBytes (core k part : Nat) (rd : Reader) (lane : Nat) (cap : Cap) : Nat → State → Nat → Except EngStop (State × List Byte)
  | 0, s, _ => .ok (s, [])
  | n + 1, s, off =>
    match s.islCheck part lane cap off 1 [20] with
    | .error e => .error e
    | .ok pa =>
      match s.cacheByte core k part rd (Cap.handle cap) (Cap.base cap + off) pa with
      | .error e => .error e
      | .ok (s1, b) =>
        match State.islBytes core k part rd lane cap n s1 (off + 1) with
        | .error e => .error e
        | .ok (s2, bs) => .ok (s2, b :: bs)

/-- An island read of `n` bytes at an offset of a binding (R185, R387). -/
def State.islRead (s : State) (core k part : Nat) (rd : Reader) (lane : Nat) (cap : Cap) (off n : Nat) : Except EngStop (State × Nat) :=
  match s.islCheck part lane cap off n [20] with
  | .error e => .error e
  | .ok _ =>
    match State.islBytes core k part rd lane cap n s off with
    | .error e => .error e
    | .ok (s1, bs) => .ok (s1, leNat bs)

/-- A format error of a lane (R189). -/
def formatError (lane : Nat) : EngStop :=
  .fail { cause := 0x52, info := lane, lane := lane, handle := 0, park := false, page := 0 }

/-- The complete entries at the front of what a line is owed are present (R192). -/
def Line.shift : Nat → Line → Line
  | 0, l => l
  | n + 1, l =>
    match l.owed with
    | [] => l
    | o :: rest =>
      if o.data.all (·.isSome) then
        Line.shift n { entries := l.entries ++ [o.data.map fun w => w.getD 0], owed := rest }
      else l

def Line.settled (l : Line) : Line := l.shift l.owed.length

/-- Results written into the entries that a pass owes (R192). -/
def Line.put (l : Line) (req pass word : Nat) (ws : List (Nat × Word)) : Line :=
  let owed := l.owed.map fun o =>
    if o.req = req ∧ o.pass = pass ∧ o.word = word then
      { o with data := ws.foldl (fun d p => modifyAt d (p.1 % 32) fun _ => some p.2) o.data }
    else o
  ({ l with owed := owed } : Line).settled

/-- The entries that a line of a team holds. -/
def Team.present (t : Team) (line : Nat) : Nat := ((t.lines[line]?).map (·.entries.length)).getD 0

/-- A sleeping reader whose entries have been written runs again (R194). -/
def Team.wakeLine (t : Team) : Team :=
  match t.status with
  | .waitLine need => if need.all fun p => decide (p.2 ≤ t.present p.1) then { t with status := .running } else t
  | _ => t

/-- The words of a request written into the lines of its team, in a slot or saved (R179). -/
def State.writeLines (s : State) (r : IslandReq) : State :=
  let put (i : Nat) (l : Line) : Line :=
    if r.line ≤ i ∧ i < r.line + r.k then
      l.put r.id r.pass (i - r.line) (r.result.map fun p => (p.1, p.2[i - r.line]?.getD 0))
    else l
  (s.mapTeam r.uid fun t => Team.wakeLine { t with lines := mapAt put 0 t.lines }).mapSaved r.uid fun v =>
    { v with lines := mapAt put 0 v.lines }

/-- The ISENDs that owe an entry to a line of a team, in a slot or saved, each with its tag (R191). -/
def State.owing (s : State) (uid : Nat) : List (Nat × Nat) :=
  let of (ls : List Line) : List (Nat × Nat) := ls.flatMap fun l => l.owed.map fun o => (o.req, o.tag)
  let out := s.nbs.flatMap fun n => n.saved.flatMap fun v => if v.uid = uid then of v.lines else []
  (((s.team? uid).map fun t => of t.lines).getD [] ++ out).eraseDups

/-- An ISEND has nothing left to do (R191, R203): every entry that it owes is written, and no request is in a slot or held, no
triangle, no pixel team. -/
def State.isendDone (s : State) (id uid : Nat) : Bool :=
  !((s.owing uid).any fun o => o.1 == id) &&
  let busy (x : Slot) : Bool := (x.queue.any fun r => r.id == id) || x.tris.any fun t => t.req == id
  !(s.cores.any fun c => busy c.slotA || busy c.slotB) &&
  !(s.parts.any fun p => p.ballast.any fun b => busy b.slotA || busy b.slotB) && !(s.launches.any fun l => (l.rast.map (·.1)) == some id) &&
  !(s.nbs.any fun n => n.saved.any fun v => v.heldReqs.any fun r => r.id == id)

/-- The completion of an ISEND's tag (R191). -/
def State.isendTag (s : State) (id uid tag : Nat) : State := if s.isendDone id uid then s.tagDone uid tag else s

/-- The completions of the ISENDs of some teams that have nothing left to do, each once (R191): (ISEND, team, tag). -/
def State.isendTags (s : State) (l : List (Nat × Nat × Nat)) : State :=
  l.eraseDups.foldl (fun (s : State) p => s.isendTag p.1 p.2.1 p.2.2) s

/-- Change the request at a position of a slot's queue. -/
def State.mapReq (s : State) (core k i : Nat) (f : IslandReq → IslandReq) : State :=
  s.mapSlot core k fun x => { x with queue := modifyAt x.queue i f }

/-- A trap joins those of its ISEND: of one cause, that of the lowest lane stays (R189). -/
def mergeTrap (l : List AsyncTrap) (x : AsyncTrap) : List AsyncTrap :=
  if l.any fun y => y.cause == x.cause then l.map fun y => if y.cause = x.cause ∧ x.lane < y.lane then x else y
  else l ++ [x]

/-- A trap-class failure of a lane (R176, R189): the null record, and the trap of its ISEND, once for each cause. -/
def State.trapReq (s : State) (core k i : Nat) (f : Fail) : State :=
  s.mapReq core k i fun r =>
    let x : AsyncTrap :=
      { cause := BitVec.ofNat 8 f.cause, info := BitVec.ofNat 64 f.info, handle := f.handle, lane := f.lane, pc := r.pc,
        agent := 2 + k, cursor := 0 }
    { r with lanes := r.lanes.drop 1, result := r.result ++ [(f.lane, List.replicate r.k 0)],
             traps := if r.noted.contains f.cause then r.traps else mergeTrap r.traps x }

/-- The traps of a request that leaves its slot (R189): they go on to a request of its ISEND that has still to perform and is
not stopped, or else they are delivered, and are then noted in those that are stopped. -/
def State.passTraps (s : State) (core k : Nat) (r : IslandReq) : State :=
  let q := (s.getSlot core k).queue
  match indexWhere (fun x : IslandReq => x.id == r.id && !x.out && x.fence.isNone) q with
  | some j => s.mapReq core k j fun x => { x with traps := r.traps.foldl mergeTrap x.traps }
  | none =>
    let s1 := s.mapSlot core k fun x => { x with queue := x.queue.map fun y =>
      if y.id = r.id then { y with noted := y.noted ++ r.traps.map fun t => t.cause.toNat } else y }
    r.traps.foldl (fun (s : State) t => s.asyncTrap r.part r.uid core t) s1

/-- A reader asleep on an entry that a request owes joins the wait-table entry that the request has (R176, R194). -/
def State.joinReader (s : State) (core : Nat) (r : IslandReq) (token : Nat) : State :=
  match s.team? r.uid with
  | none => s
  | some t =>
    match t.status with
    | .waitLine need =>
      let owes := need.any fun p =>
        let l := t.lines[p.1]?.getD { entries := [], owed := [] }
        match indexWhere (fun o : Owed => o.req == r.id && o.pass == r.pass) l.owed with
        | some j => decide (l.entries.length + j < p.2)
        | none => false
      match (s.getCore core).waits.find? fun e => e.part == r.part && e.token == token with
      | some e => if owes then s.parkWith t e else s
      | none => s
    | _ => s

/-- Park the request of one lane at a position of a slot's queue (R153, R176): under the token of its key, or waiting for an
entry of the table or for one of the team's three places. -/
def State.parkReq (s : State) (core k i : Nat) (r : IslandReq) (a : Asking) : State :=
  let mk (key : Option (Nat × Nat)) (tok : Nat) : WaitEntry :=
    { part := r.part, cause := a.cause, key := key, info := BitVec.ofNat 64 (parkInfo a.cause a.handle a.page), token := tok,
      waiters := 1, wake := false, agent := 2 + k, slot := s.slotOf r.uid, pc := r.pc, handle := a.handle, lane := a.lane,
      cursor := 0, posted := false }
  let wait := s.mapReq core k i fun r => { r with asking := some a }
  if 3 ≤ s.parkedReqs core r.uid then wait
  else
    match s.parkIn core r.part a.cause a.handle a.page a.order mk with
    | some (tok, s1) =>
      (s1.mapReq core k i fun r => { r with parked := some tok, asking := none, flagged := true }).joinReader core r tok
    | none => wait

/-- The lane at the head of a request steps out of it (R153). -/
def State.stepOut (s : State) (core k i : Nat) (r : IslandReq) (f : Fail) : State :=
  let one : IslandReq := { r with lanes := r.lanes.take 1, result := [], traps := [] }
  let rest : IslandReq := { r with lanes := r.lanes.drop 1 }
  let s1 := s.mapSlot core k fun x => { x with queue := x.queue.take i ++ one :: rest :: x.queue.drop (i + 1) }
  let (n, s2) := s1.fresh
  s2.parkReq core k i one { cause := f.cause, handle := f.handle, page := f.page, lane := f.lane, order := n }

/-- The older loads and atomics of a team, which an ISEND.SYNC waits for beside the stores (R156, R150). -/
def State.loadsBefore (s : State) (uid after : Nat) : Bool :=
  match s.team? uid with
  | none => true
  | some t => t.loads.all (fun p => decide (after ≤ p.seq)) && t.atomics.all fun p => decide (after ≤ p.seq)

/-- An ISEND.SYNC whose release has been made invalidates the partition's lines in the island cache of its slot (R156). -/
def State.syncReq (s : State) (core k : Nat) (r : IslandReq) : State :=
  if r.sync then
    s.mapSlot core k fun x =>
      { x with cache := x.cache.filter fun l => l.part != r.part
               queue := x.queue.map fun q => if q.id = r.id then { q with sync := false } else q }
  else s

/-- ONE REQUEST OF A SLOT (R153, R189): the next lane, if `mine` says that this step serves it. A lane with a format error is
served by every step of its slot. -/
def State.island (s : State) (core k : Nat) (mine : IslandReq → LaneReq → Bool)
    (body : State → IslandReq → LaneReq → Except EngStop (State × List Word)) : State :=
  let x := s.getSlot core k
  match s.nextOf core k with
  | none => s
  | some i =>
    match x.queue[i]? with
    | none => s
    | some r =>
      match r.lanes with
      | [] => s
      | l :: _ =>
        if !s.submitted r.uid r.after || (r.sync && !s.loadsBefore r.uid r.after) then s
        else
          let s := s.syncReq core k r
          let ans : Option (Except EngStop (State × List Word)) :=
            if r.bad || kindWords r.cls (l.words.headD 0) r.k != some r.k then some (.error (formatError l.lane))
            else if mine r l then some (body s r l)
            else none
          match ans with
          | none => s
          | some (.ok (s1, ws)) =>
            let missed := decide ((s1.getSlot core k).cache ≠ (s.getSlot core k).cache)
            s1.mapReq core k i fun r =>
              { r with lanes := r.lanes.drop 1, result := r.result ++ [(l.lane, ws)], missed := r.missed || missed }
          | some (.error (.ecc a)) => s.uncorrectable a false
          | some (.error .hang) => s
          | some (.error (.fail f)) =>
            if f.cause = 0x39 then s.uncorrectable f.info false
            else if f.park then s.stepOut core k i { r with sync := false } f
            else s.trapReq core k i f

def LaneReq.word (l : LaneReq) (i : Nat) : Nat := (l.words[i]?.getD 0).toNat

/-- BIND (R190). -/
def execBind (core slot : Nat) (s : State) : Out :=
  .next (s.island core slot (fun _ l => l.kind == 0xE) fun s r l =>
    let w0 := l.word 0
    if w0 / 2 ^ 7 ≠ 0 then .error (formatError l.lane)
    else
      let b := bits w0 6 4
      .ok (s.mapSlot core slot fun x => { x with regs := (List.range 4).foldl (fun rs i =>
        modifyAt rs (4 * b + i) fun _ => BitVec.ofNat 32 (r.cap.toNat / 2 ^ (32 * i))) x.regs }, []))

/-- The contract registers of a class (R195, R199, R204, R208, R210; a title's by REGBYTES, R186). -/
def regwListed (e : HeldEnvelope) (o : Nat) : Bool :=
  match e.cls with
  | 1 => decide (0x80 ≤ o ∧ o < 0x100)
  | 2 => [0x80, 0x84, 0x88, 0x90, 0x94, 0x98].contains o
  | 3 => [0x80, 0x84].contains o
  | 4 => [0x80, 0x84, 0x88].contains o
  | 5 => false
  | _ => decide (0x80 ≤ o ∧ o < 0x80 + e.regBytes)

/-- REGW (R190). -/
def execRegw (core slot : Nat) (s : State) : Out :=
  .next (s.island core slot (fun _ l => l.kind == 0xF) fun s _ l =>
    let w0 := l.word 0
    let o := bits w0 11 4
    let listed := match (s.getSlot core slot).env with
      | some e => regwListed e o
      | none => false
    if w0 / 2 ^ 12 ≠ 0 ∨ o % 4 ≠ 0 ∨ !listed then .error (formatError l.lane)
    else .ok (s.mapSlot core slot fun x => { x with regs := modifyAt x.regs (o / 4) fun _ => BitVec.ofNat 32 (l.word 1) }, []))

/-- ISLAND_ENTRY_WRITE (R191, R192, R194): the words of the first request of the slot that has performed go to their lines,
sleeping readers wake, the tags complete of its ISEND and of those whose entries stood behind, where nothing of them is left, and
QFENCE markers settle. -/
def execIslandEntryWrite (core slot : Nat) (s : State) : Out :=
  let x := s.getSlot core slot
  match indexWhere (fun r : IslandReq => r.lanes.isEmpty && !r.out && r.fence.isNone) x.queue with
  | none => .next s
  | some i =>
    match x.queue[i]? with
    | none => .next s
    | some r =>
      let s1 := (s.mapSlot core slot fun x => { x with queue := dropAt x.queue i }).settleCore core
      let was := (r.id, r.uid, r.tag) :: (s.owing r.uid).map fun o => (o.1, r.uid, o.2)
      .next (((s1.writeLines r).passTraps core slot r).isendTags was)

/-- A waiter leaves an entry of a wait table, which closes with its last one (R175); it stays until its record is posted. -/
def State.leaveWait (s : State) (core part token : Nat) : State :=
  let leave (e : WaitEntry) : WaitEntry :=
    if e.part = part ∧ e.token = token ∧ !e.wake then
      { e with waiters := e.waiters - 1, wake := decide (e.waiters ≤ 1) }
    else e
  s.mapCore core fun c => { c with waits := (c.waits.map leave).filter fun e => !(e.wake && e.posted) }

/-- The register space of a slot that holds an envelope of a class (R185, R195, R199, R208). -/
def resetRegs (cls : Nat) : List Word :=
  let z : List Word := List.replicate 64 0
  match cls with
  | 2 => modifyAt (modifyAt z 0x21 fun _ => 0x1FFF0000) 0x22 fun _ => 0x1FFF0000
  | 4 => modifyAt (modifyAt (modifyAt z 0x20 fun _ => 0x3F7FBE77) 0x21 fun _ => 0x3F7D70A4) 0x22 fun _ => 0x3B808081
  | _ => z

/-- A line with every entry that a request owes it written as the null record, whole (R212). -/
def Line.nulled (l : Line) (req pass : Nat) : Line :=
  ({ l with owed := l.owed.map fun o =>
      if o.req = req ∧ o.pass = pass then { o with data := List.replicate 32 (some 0) } else o } : Line).settled

/-- The entries that a request owes to the lines of its team, in a slot or saved, are null records (R212, R179). -/
def State.nullReq (s : State) (r : IslandReq) : State :=
  let all (ls : List Line) : List Line := ls.map fun l => l.nulled r.id r.pass
  (s.mapTeam r.uid fun t => Team.wakeLine { t with lines := all t.lines }).mapSaved r.uid fun v =>
    { v with lines := all v.lines }

/-- ISL_HANG (R212, R213): a request has taken HANGBOUND and 2^20 clk more. -/
def execIslHang (core slot : Nat) (s : State) : Out :=
  let x := s.getSlot core slot
  match x.env with
  | none => .next s
  | some e =>
    let due := match (s.nextOf core slot).bind fun i => x.queue[i]? with
      | some r => decide (r.since + e.hangBound + 2 ^ 20 ≤ s.clk)
      | none => false
    if !due then .next s
    else
      let rs := x.queue.filter fun r => r.fence.isNone
      let s1 := rs.foldl (fun (s : State) r =>
        match r.parked with
        | some tok => s.leaveWait core r.part tok
        | none => s) s
      let s2 := s1.mapSlot core slot fun x =>
        { x with queue := x.queue.filter (fun r => r.fence.isSome), tris := [], regs := resetRegs e.cls, reloading := true,
                 cache := [] }
      let s3 := rs.foldl (fun (s : State) r => s.nullReq r) (s2.settleCore core)
      let ids := (rs.map fun r => (r.id, r.uid, r.tag)) ++ x.tris.map fun t => (t.req, t.uid, t.tag)
      let behind := rs.flatMap fun r => (s.owing r.uid).map fun o => (o.1, r.uid, o.2)
      let s4 := s3.isendTags (ids ++ behind)
      let s5 := rs.foldl (fun (s : State) r => r.traps.foldl (fun (s : State) t => s.asyncTrap r.part r.uid core t) s) s4
      let teams := ((rs.map fun r => (r.uid, r.part, r.pc)) ++ x.tris.map fun t => (t.uid, t.part, t.pc)).foldl
        (fun (acc : List (Nat × Nat × Word)) r => if acc.any fun q => q.1 == r.1 then acc else acc ++ [r]) []
      .next (teams.foldl (fun (s : State) r => s.asyncTrap r.2.1 r.1 core
        { cause := 0x57, info := BitVec.ofNat 64 slot, handle := 0, lane := 0, pc := r.2.2, agent := 2 + slot, cursor := 0 }) s5)

/-- The one that asked first among those of a core that can have an entry: one with their key, or a free one (R176). -/
def State.nextAsker (s : State) (core : Nat) : Option Asker :=
  let c := s.getCore core
  let room := decide (c.openWaits.length < 64)
  ((s.askers core).filter fun a => room || (c.waitFor? a.part a.ask.key).isSome).foldl (fun (m : Option Asker) a =>
    match m with
    | none => some a
    | some b => if a.ask.order < b.ask.order then some a else some b) none

/-- ENGINE_PARK_ENTRY_GRANT (R176): the operation of a queue that asked first on its core parks. Queue 0 is the copy queue, 1
and 2 are the slots, 3 is the weight-buffer queue. -/
def execEngineParkEntryGrant (core queue : Nat) (s : State) : Out :=
  match s.nextAsker core with
  | none => .next s
  | some a =>
    let c := s.getCore core
    if a.queue ≠ queue then .next s
    else if queue = 1 ∨ queue = 2 then
      let k := queue - 1
      match indexWhere (fun r : IslandReq => r.asking == some a.ask) (c.islSlot k).queue with
      | none => .next s
      | some i =>
        match (c.islSlot k).queue[i]? with
        | none => .next s
        | some r => .next (s.parkReq core k i r a.ask)
    else
      match (c.engQ (queue == 3)).head? with
      | none => .next s
      | some op => .next (s.parkEng core (queue == 3) op a.ask)

end Sys2Proof.Machine
end

