-- ==== Sys2Proof/Machine/Save.lean ====
section
/-!
DEFINITION. Saving a team and restoring it (R161, R179-R182, R124): the steps of R179 in their order, the save frame or the
ballast, and what a restored team takes up again.
-/
namespace Sys2Proof.Machine

/-- The team stands at a run boundary or is parked (R96, R179 step 1), or waits in an LDB, which re-issues after the restore
(R338). A retiring team retires instead (R88). -/
def Team.atBoundary (t : Team) : Bool :=
  decide (t.status ≠ .retiring) && (t.port.isNone || t.runLen == 0 || t.inLdb)

/-- A fault that stands at a team's boundary is taken before the team is saved (R183, R231). -/
def State.takeFault (s : State) (t : Team) : State :=
  match t.due with
  | some (c, pc) => s.takeTrap { t with due := none } c false pc t.pc none
  | none => s

/-- Nothing that the team has issued to memory is outstanding (R110). -/
def Team.drained (t : Team) : Bool := t.storeQ.isEmpty && t.winStores.isEmpty && t.loads.isEmpty && t.atomics.isEmpty

/-- The stores of the team have drained and its atomics have performed (R179 step 2, R161; log entry 27 for atomics); pending loads
are reissued on restore. -/
def Team.storesDone (t : Team) : Bool := t.storeQ.isEmpty && t.winStores.isEmpty && t.atomics.isEmpty

/-- The requests of a team in a slot. -/
def Slot.reqsOf (x : Slot) (uid : Nat) : List IslandReq := x.queue.filter fun r => r.uid == uid && r.fence.isNone

/-- Nothing in queue `k` of a core can go on (R153, R154, R176): its head is parked or waits for an entry of the wait table, or
would write a scratchpad that is away; what is not stopped in a slot waits for what is; or the head is a marker that waits for what
is held, or for another queue of its set of which the same is true. -/
def State.queueStuck (s : State) (core : Nat) : Nat → Nat → Bool
  | 0, _ => false
  | n + 1, k =>
    let c := s.getCore core
    let eng (l : List EngineOp) : Bool := (l.head?).any fun e => e.parked.isSome || e.asking.isSome || s.padGone e
    match c.headFence k with
    | some f => f.waits (s.heldItems core) ||
        (queuesOf f.set).any fun j => c.headFence j != some f && s.queueStuck core n j
    | none =>
      match k with
      | 0 => eng c.copyQ
      | 1 => !c.slotA.queue.isEmpty && (s.nextOf core 0).isNone
      | 2 => !c.slotB.queue.isEmpty && (s.nextOf core 1).isNone
      | _ => eng c.wbQ

/-- Queue `k` of a core is empty of some entries, or nothing in it can go on. -/
def State.endedOrStuck (s : State) (core k : Nat) (l : List EngineOp) : Bool := l.isEmpty || s.queueStuck core 4 k

/-- Every request of the team in a slot has been delivered, or is stopped (R179 step 3). -/
def State.delivered (s : State) (core k uid : Nat) : Bool :=
  ((s.getSlot core k).reqsOf uid).all fun r => r.out || (s.queueStuck core 4 (k + 1) && !r.lanes.isEmpty)

/-- What a save of a team has to do with the engine queues of its core (R179 step 4): its neighbourhood, rank and number. -/
structure Saving where
  nb : Nat
  rank : Nat
  uid : Nat
  wbkeep : Bool
  reason : Nat
  deriving DecidableEq, Repr

/-- The entries of the copy queue that a save of the team completes or withdraws: those that write its scratchpad, and its own that
write another's. -/
def Saving.padOps (v : Saving) (c : Core) : List EngineOp :=
  c.copyQ.filter fun e => e.nb == v.nb && (e.job.padsWritten.contains v.rank || (e.uid == v.uid && !e.job.padsWritten.isEmpty))

/-- The entries of the weight-buffer queue that a save of the team completes or withdraws (R179 step 4). At a partition
switch too, since they would write the buffer of the partition that enters (R51; log entry 27). -/
def Saving.weightOps (v : Saving) (c : Core) : List EngineOp :=
  if v.reason = 2 ∨ (v.reason = 1 ∧ v.wbkeep) then c.wbQ.filter fun e => e.nb == v.nb && !e.job.isFence else []

def Saving.ops (v : Saving) (c : Core) : List EngineOp := if v.reason = 3 then [] else v.padOps c ++ v.weightOps c

/-- Step 4 of R179 has nothing left for a team but what is withdrawn, at most 16 operations of it. -/
def State.enginesDone (s : State) (core : Nat) (v : Saving) : Bool :=
  let c := s.getCore core
  v.reason == 3 || (decide ((v.ops c).length ≤ 16) && s.endedOrStuck core 0 (v.padOps c) && s.endedOrStuck core 3 (v.weightOps c))

def Team.saving (t : Team) (reason : Nat) : Saving :=
  { nb := t.nb, rank := t.rank, uid := t.uid, wbkeep := t.prm.wbkeep, reason := reason }

/-- A team may be saved now (R179): steps 1 to 4 have nothing left but what is withdrawn. -/
def State.saveReady (s : State) (t : Team) (reason : Nat) : Bool :=
  t.atBoundary && t.storesDone && s.delivered t.core 0 t.uid && s.delivered t.core 1 t.uid &&
    s.enginesDone t.core (t.saving reason)

/-- A withdrawn request or operation takes its wait-table entry along no more. -/
def State.leaveAll (s : State) (core part : Nat) (tokens : List (Option Nat)) : State :=
  tokens.foldl (fun (s : State) x =>
    match x with
    | some tok => s.leaveWait core part tok
    | none => s) s

/-- Operations leave the engine queues of a core. -/
def Core.dropOps (c : Core) (ops : List EngineOp) : Core :=
  let ids := ops.map (·.id)
  let keep (l : List EngineOp) : List EngineOp := l.filter fun e => e.job.isFence || !ids.contains e.id
  { c with copyQ := keep c.copyQ, wbQ := keep c.wbQ }

/-- An operation in a held area: it goes on at its cursor once it is back (R179, R182). -/
def EngineOp.held (e : EngineOp) : EngineOp := { e with parked := none, asking := none }

/-- What R179 withdraws for a team: its parked island requests, at most three, and the operations of step 4, in their order;
they leave their queues and their wait-table entries, the team's own entry with them. A fourth request that faults, and one that
waits for a parked one, stay in the island (log entry 81). -/
def State.withdraw (s : State) (t : Team) (reason : Nat) : State × List IslandReq × List EngineOp :=
  let c := s.getCore t.core
  let reqs := ((c.slotA.reqsOf t.uid ++ c.slotB.reqsOf t.uid).filter fun r => r.parked.isSome).take 3
  let ops := (t.saving reason).ops c
  let own := match t.status with
    | .parked tok => some tok
    | _ => none
  let s1 := s.leaveAll t.core t.part (own :: reqs.map (·.parked) ++ ops.map (·.parked))
  let keepReq (x : Slot) : Slot := { x with queue := x.queue.filter fun r => !(r.uid == t.uid && r.parked.isSome) }
  let s2 := s1.mapCore t.core fun c => { c.dropOps ops with slotA := keepReq c.slotA, slotB := keepReq c.slotB }
  (s2, reqs.map fun r => { r with parked := none, asking := none }, ops.map (·.held))

/-- A team that is parked, or is to be evicted, with its token (R181: FLAGS[1]). -/
def Team.parkToken (t : Team) : Option Nat :=
  match t.status with
  | .parked tok => some tok
  | .evictDue tok => some tok
  | _ => none

/-- What a saved team does once it is back (R161, R182): a wait starts again at its instruction, a barrier goes on. -/
def Team.savedStatus (t : Team) : TeamStatus :=
  match t.status with
  | .waitBarrier ox oy sw sh n d sub => .waitBarrier ox oy sw sh n d sub
  | _ => .running

/-- clk of sleep that a saved team takes along (R349). -/
def State.savedSleep (s : State) (t : Team) : Nat :=
  match t.status with
  | .waitTags _ _ => t.slept + (s.clk - t.sleepClk)
  | .waitWord _ _ _ _ => t.slept + (s.clk - t.sleepClk)
  | _ => t.slept

/-- The entry of the saved team in its neighbourhood. -/
def State.savedTeam (s : State) (t : Team) (reason : Nat) (place : SavedAt) (reqs : List IslandReq) (ops : List EngineOp)
    (units : List WbUnit) : SavedTeam :=
  { rank := t.rank, reason := reason, place := place, status := t.savedStatus, async := t.async, due := t.due,
    lanes := popMask t.lanes t.launched, uid := t.uid, barrs := t.barrs, lines := t.lines, slept := s.savedSleep t,
    heldReqs := reqs, heldOps := ops, loads := t.loads.filter fun p => p.bound.isNone, parkCause := t.parkCause,
    parkKey := t.parkKey, token := t.parkToken.getD 0, core := t.core,
    rounds := ((s.getCore t.core).rounds.filter fun e => e.part == t.part).map fun e => (e.handle, e.known),
    units := units.map fun u => (u.idx, u.handle) }

/-- The team leaves its slot with its image saved: its scratchpad goes along, or stays allocated on its core after an eviction
(R126, R175). Markers settle, but for those that what is held holds back (R154). -/
def State.leaveSaved (s : State) (t : Team) (v : SavedTeam) : State :=
  let pads := if v.reason = 3 then [(t.rank, t.scratch)] else []
  ((s.mapNb t.nb fun n => { n with saved := n.saved ++ [v], pads := n.pads ++ pads }).departTeam t false).settleCore t.core

/-- The search for a frame requests the STATE byte of each up to the one that it takes (R130, R180). -/
def State.touchStates (s : State) (part : Nat) (savef : Cap) (fs i : Nat) : State :=
  (List.range (i + 1)).foldl (fun (s : State) k => s.touch part (Cap.handle savef) (k * fs + 4) 1 0) s

/-- A save into the lowest free frame of SAVEF (R180): none where no frame is free or a write faults. A bad block that it reads
on the way is a machine check instead (R10, R11). `units` are the weight units of the neighbourhood's lowest team, found before
any of its teams left. -/
def State.saveFrame (s : State) (t : Team) (reason : Nat) (units : Option (List WbUnit)) : Option State :=
  let fs := (frameLayout t.prm).size
  match s.freeFrame t.part t.prm.savef fs with
  | .error none => none
  | .error (some a) => some (s.uncorrectable a false)
  | .ok i =>
    let (s1, reqs, ops) := (s.touchStates t.part t.prm.savef fs i).withdraw t reason
    let info : FrameInfo :=
      { reason := reason, parked := t.parkToken.isSome, token := t.parkToken.getD 0, pad := reason != 3,
        heldReqs := reqs.length, heldOps := ops.length, held := s1.freeCtr, weight := units }
    match s1.frameWrite t.part (Cap.handle t.prm.savef) (i * fs) (frameChunks t info) with
    | .error none => none
    | .error (some a) => some (s.uncorrectable a false)
    | .ok s2 =>
      some ({ s2 with freeCtr := s2.freeCtr + 1 }.leaveSaved t (s.savedTeam t reason (.frame i) reqs ops (units.getD [])))

/-- A save into the ballast area (R86 step 3): the layout is that of a frame, so what a frame does not hold is not kept. -/
def State.saveBallast (s : State) (t : Team) : State :=
  let (s1, reqs, ops) := s.withdraw t 2
  let image : Team := { t with dbg := 0, whnd := 0, woff := 0, wlen := 0 }
  s1.leaveSaved t (s.savedTeam t 2 (.ballast image) reqs ops [])

/-- INFO of SAVE_FRAME_FAULT (R166): rank and grid index. -/
def Team.saveFault (t : Team) : Nat := t.rank + (t.gy * t.prm.gridX + t.gx) * 2 ^ 8

/-- A SAVE_FRAME_FAULT notice (R180). -/
def State.postSaveFault (s : State) (t : Team) : State :=
  s.post t.part (FaultRec.of 0x3F 5 0 0 t.core t.slot 0 0 t.saveFault t.pc 0)

/-- The image of a saved team over a team at its start, and the weight units that it carries. -/
def State.savedImage (s : State) (l : Launch) (n : Nb) (v : SavedTeam) (base : Team) : Team × List WbUnit :=
  match v.place with
  | .ballast t => (t, [])
  | .frame i =>
    let y := frameLayout l.prm
    let bs := s.frameRead n.part (Cap.handle l.prm.savef) (i * y.size) y.size
    (teamOfFrame base bs, unitsOfFrame l.prm n.id v.units bs)

/-- The first bad block that reading the image of a saved team meets (R10). -/
def State.savedBad (s : State) (l : Launch) (n : Nb) (v : SavedTeam) : Option Nat :=
  match v.place with
  | .ballast _ => none
  | .frame i => s.frameBad n.part (Cap.handle l.prm.savef) (i * (frameLayout l.prm).size) (frameLayout l.prm).size

/-- STATE of a restored frame goes back to 0 (R180). -/
def State.freeSaved (s : State) (l : Launch) (n : Nb) (v : SavedTeam) : State :=
  match v.place with
  | .ballast _ => s
  | .frame i =>
    let h := Cap.handle l.prm.savef
    let off := i * (frameLayout l.prm).size + 4
    match s.frameAddr n.part h off 1 with
    | none => s
    | some pa => s.deviceWrite n.part h off pa [0]

/-- An entry goes into a queue ahead of the first that was submitted no earlier (R182). -/
def insertOld {α : Type} (id : α → Nat) (x : α) : List α → List α
  | [] => [x]
  | y :: ys => if id x ≤ id y then x :: y :: ys else y :: insertOld id x ys

/-- Entries go back into a queue in their original order, ahead of new ones (R182). -/
def mergeOld {α : Type} (id : α → Nat) (back queue : List α) : List α := back.foldr (insertOld id) queue

/-- Held requests and operations go back in their original order, ahead of new ones (R182). -/
def State.putBack (s : State) (core : Nat) (v : SavedTeam) : State :=
  let req := mergeOld fun r : IslandReq => r.id
  let op := mergeOld fun e : EngineOp => e.id
  s.mapCore core fun c =>
    { c with
        slotA := { c.slotA with queue := req (v.heldReqs.filter fun r => r.slot == 0) c.slotA.queue }
        slotB := { c.slotB with queue := req (v.heldReqs.filter fun r => r.slot != 0) c.slotB.queue }
        copyQ := op (v.heldOps.filter fun e => !e.job.isWeight) c.copyQ
        wbQ := op (v.heldOps.filter fun e => e.job.isWeight) c.wbQ }

/-- The gondola requests the image of a saved team at its home (R130). -/
def State.touchImage (s : State) (l : Launch) (n : Nb) (v : SavedTeam) : State :=
  match v.place with
  | .ballast _ => s
  | .frame i => s.touch n.part (Cap.handle l.prm.savef) (i * (frameLayout l.prm).size) (frameLayout l.prm).size 0

/-- RESTORING A TEAM (R182): its image onto a slot of a core, with its lines, its pending trap and its sleep; its pending loads are
reissued (R161); the partition's round-table entries of the core are push-lost (R142); the frame is free again. -/
def State.restoreImage (s : State) (l : Launch) (n : Nb) (v : SavedTeam) (core slot : Nat) : State :=
  let place : Place2 :=
    { uid := v.uid, part := n.part, launch := l.id, nb := n.id, grid := n.grid, rank := v.rank, core := core, slot := slot }
  let pad := ((n.pads.find? fun p => p.1 == v.rank).map (·.2)).getD []
  let base := { teamStart l.prm place none s.clk with scratch := pad }
  let r := s.savedImage l n v base
  let t : Team :=
    { r.1 with
        core := core, slot := slot, status := v.status, async := v.async, due := v.due, lines := v.lines, slept := v.slept
        loads := v.loads.map (s.reissue n.part), barrs := v.barrs, startClk := s.clk, runs := 0, port := none,
        runLen := 0, inLdb := false, parkCause := v.parkCause, parkKey := v.parkKey }
  let s1 := (s.touchImage l n v).freeSaved l n v
  let s2 : State := { s1 with teams := s1.teams ++ [t] }
  let s3 := s2.mapNb n.id fun n =>
    { n with saved := n.saved.filter fun x => x.uid != v.uid, pads := n.pads.filter fun p => p.1 != v.rank }
  let s4 := s3.putBack core v
  let s5 := s4.mapCore core fun c =>
    { c.loseRounds s.clk n.part v.rounds with
             wb := r.2 ++ c.wb.filter fun u => !(r.2.any fun x => x.idx == u.idx) }
  ((s5.mapPart n.part fun p => { p with deferred := p.deferred.filter fun d => !(d.nb == n.id && d.rank == v.rank) }).completeBarriers
    n.id).settleCore v.core |>.settleCore core

/-- RESTORING A TEAM whose image can be read (R182, R10). -/
def State.restoreTeam (s : State) (l : Launch) (n : Nb) (v : SavedTeam) (core slot : Nat) : State :=
  match s.savedBad l n v with
  | some a => s.uncorrectable a false
  | none => s.restoreImage l n v core slot

/-- The lowest free team slot of a core (R80). -/
def State.freeSlot (s : State) (core : Nat) : Option Nat :=
  (List.range 16).find? fun k => !(s.teams.any fun t => t.core == core && t.slot == k)

end Sys2Proof.Machine
end

