-- ==== Sys2Proof/Machine/Place.lean ====
section
/-!
DEFINITION. The dispatcher's choice of work and of cores (R73-R80, R83): ready slots, the return list, class timers, deficits and
rounds, the first-fit search, reservations, and starts that are cancelled.
-/
namespace Sys2Proof.Machine

/-- clk in a µs (R3: 2.6 GHz). -/
def clkPerUs : Nat := 2600

/-- A ready launch (R73): it holds its slot until its first neighbourhood starts, in a RUNNABLE partition. -/
def State.readyLaunch (s : State) (l : Launch) : Bool := !l.started && decide ((s.getPart l.part).st = .runnable)

/-- A ready launch whose first neighbourhood is still to be placed; one that waits for its start is placed already (R80). -/
def State.servable (s : State) (l : Launch) : Bool := s.readyLaunch l && !(s.nbs.any fun n => n.launch == l.id)

/-- The ready launches of a class, in the order in which they entered their slots. -/
def State.readyOf (s : State) (c : Nat) : List Launch := s.launches.filter fun l => l.cls == c && s.readyLaunch l

/-- A neighbourhood on the return list of a RUNNABLE partition, with its launch. -/
def State.returnsAll (s : State) : List (Nb × Launch) :=
  (mapAt (fun i (p : Partition) => (i, p)) 0 s.parts).flatMap fun e =>
    if e.2.st = .runnable then
      e.2.returns.filterMap fun id =>
        match s.nb? id with
        | none => none
        | some n => (s.launch? n.launch).map fun l => (n, l)
    else []

/-- Insert by a key, after equals. -/
def insertBy {α : Type} (key : α → Int) (x : α) : List α → List α
  | [] => [x]
  | y :: ys => if key x < key y then x :: y :: ys else y :: insertBy key x ys

/-- Sort by a key, stable. -/
def sortBy {α : Type} (key : α → Int) (l : List α) : List α := l.foldr (fun x acc => insertBy key x acc) []

/-- The return-list entries of a class, oldest first (R74). -/
def State.returnsOf (s : State) (c : Nat) : List (Nb × Launch) :=
  sortBy (fun e => e.1.order) (s.returnsAll.filter fun e => e.2.cls == c)

/-- Class c has a ready slot or a return-list entry (R75). -/
def State.classWork (s : State) (c : Nat) : Bool := !(s.readyOf c).isEmpty || !(s.returnsOf c).isEmpty

/-- The class timers run while their classes have work, and stand at 0 otherwise (R75). -/
def State.settleTimers (s : State) : State :=
  { s with starveFrom := mapAt (fun c x =>
      if c = 0 ∨ !s.classWork c then none
      else match x with
        | some k => some k
        | none => some s.clk) 0 s.starveFrom }

/-- The classes in the order of R74. -/
def State.classOrder (s : State) : List Nat :=
  let up (c : Nat) : Bool := s.promoted[c]?.getD false
  (List.range 4).filter up ++ (List.range 4).filter fun c => !up c

/-- The core at a mesh position (R4). -/
def coreAt (x y : Nat) : Nat := 12 * y + x

/-- The core of a rank of a neighbourhood at (x, y) (R80, R90). -/
def LaunchRec.coreOf (p : LaunchRec) (x y rank : Nat) : Nat := coreAt (x + p.cx rank) (y + p.cy rank)

/-- The ranks that hold no slot and no scratchpad on a core: those that a start brings in (R80, R83, R87). -/
def State.startRanks (s : State) (n : Nb) (p : LaunchRec) : List Nat :=
  (List.range p.teams).filter fun r =>
    !n.retired.contains r && (s.rankTeam? n.id r).isNone && !(n.pads.any fun x => x.1 == r)

/-- The ranks that a placed neighbourhood reserves slots for: all, or the missing ones of a pinned one (R80, R87). -/
def State.reserveRanks (s : State) (n : Nb) (p : LaunchRec) : List Nat :=
  if n.pinned then s.startRanks n p else List.range p.teams

/-- What a resident or reserved team takes of a core. -/
structure Claim where
  part : Nat
  prm : LaunchRec
  deriving DecidableEq, Repr

/-- What requested starts have reserved on a core (R80 step 1), but for the neighbourhoods that `gone` names. -/
def State.reserved (s : State) (gone : Nb → Bool) (core : Nat) : List Claim :=
  (s.nbs.filter fun n => decide (n.phase = .requested) && !gone n).flatMap fun n =>
    match s.launch? n.launch with
    | none => []
    | some l => ((s.reserveRanks n l.prm).filter fun r => l.prm.coreOf n.x n.y r == core).map fun _ =>
        ({ part := n.part, prm := l.prm } : Claim)

/-- The claims on a core (R78, R80) of all but the neighbourhoods that `gone` names. -/
def State.claims (s : State) (gone : Nb → Bool) (core : Nat) : List Claim :=
  let here (nb : Nat) : Bool := match s.nb? nb with
    | some n => !gone n
    | none => true
  ((s.teams.filter fun t => t.core == core && here t.nb).map fun t => ({ part := t.part, prm := t.prm } : Claim)) ++
    s.reserved gone core

/-- An evicted team that a REPLAY has woken returns to its own core while its neighbourhood is resident (R175). -/
def State.returnsHome (s : State) (gone : Nb → Bool) (d : Deferred) : Bool :=
  d.woken && match s.nb? d.nb with
    | none => false
    | some n => decide (n.phase = .resident) && !gone n

/-- The woken evicted teams of a core, which go ahead of new starts there (R175). -/
def State.wokenOn (s : State) (gone : Nb → Bool) (core : Nat) : Nat :=
  (s.parts.map fun p => (p.deferred.filter fun d => d.core == core && s.returnsHome gone d).length).sum

/-- The map entry that a launch requires of a slot (R63). -/
def LaunchRec.required (p : LaunchRec) (k : Nat) : Option Nat :=
  let e := if k = 0 then p.enva else p.envb
  if e.getLsbD 7 then some (e.toNat % 16) else none

/-- The envelope of a map entry as a slot would hold it (R186, R188). -/
def State.envOf (s : State) (part e : Nat) : HeldEnvelope :=
  let a := (s.getPart part).desc.emBase + 128 * e
  { entry := e, cls := s.homeNat (a + 1) 1, digest := s.envDigest part e, hangBound := s.homeNat (a + 4) 4,
    regBytes := s.homeNat (s.envBase + s.homeNat (a + 8) 8 + 0x0C) 2 }

/-- A slot holds the envelope of a required map entry (R78). -/
def State.slotHolds (s : State) (core k part e : Nat) : Bool :=
  let x := s.getSlot core k
  x.part == part && match x.env with
    | some v => v.entry == e && v.digest == s.envDigest part e
    | none => false

/-- A CORE QUALIFIES (R78) for `n` teams of a launch of a partition. `alone` looks past other partitions (R85). -/
def State.coreOk (s : State) (gone : Nb → Bool) (alone : Bool) (part : Nat) (p : LaunchRec) (n core : Nat) : Bool :=
  let skip (x : Nb) : Bool := gone x || (alone && x.part != part)
  let cs := s.claims skip core
  let foreign (k : Nat) : Bool := (s.getSlot core k).env.isSome && (s.getSlot core k).part != part
  let slotOk (k : Nat) : Bool :=
    match p.required k with
    | none => true
    | some e => s.slotHolds core k part e || cs.all fun c => decide (c.prm.required k = none) || decide (c.prm.required k = some e)
  (alone || (cs.all (fun c => c.part == part) && !foreign 0 && !foreign 1)) &&
  decide (cs.length + s.wokenOn skip core + n ≤ 16) &&
  decide ((cs.map fun c => c.prm.vregs * c.prm.lanes * 4).sum + n * (p.vregs * p.lanes * 4) ≤ 256 * 1024) &&
  decide ((cs.map fun c => c.prm.scratch + 8192).sum + n * (p.scratch + 8192) +
    1024 * (cs.map fun c => c.prm.l1floor).foldl max p.l1floor ≤ 320 * 1024) &&
  slotOk 0 && slotOk 1

/-- The origins that the search visits, in its order (R79). -/
def origins (d : Desc) (w h : Nat) : List (Nat × Nat) :=
  (d.allot.filterMap allotRect).flatMap fun r =>
    if w ≤ r.2.2.1 ∧ h ≤ r.2.2.2 then
      (List.range (r.2.2.2 - h + 1)).flatMap fun j => (List.range (r.2.2.1 - w + 1)).map fun i => (r.1 + i, r.2.1 + j)
    else []

/-- THE SEARCH (R79, R87): the first origin all of whose cores qualify. `have?` is the neighbourhood where there is one. -/
def State.findPlace (s : State) (gone : Nb → Bool) (alone : Bool) (part : Nat) (p : LaunchRec) (nb : Option Nb) :
    Option (Nat × Nat) :=
  let need (x y core : Nat) : Nat :=
    match nb with
    | none => p.t
    | some n => ((s.reserveRanks n p).filter fun r => p.coreOf x y r == core).length
  let fits (o : Nat × Nat) : Bool :=
    (List.range p.h).all fun j => (List.range p.w).all fun i =>
      let core := coreAt (o.1 + i) (o.2 + j)
      let k := need o.1 o.2 core
      k == 0 || s.coreOk gone alone part p k core
  match nb with
  | some n => if n.pinned then (if fits (n.x, n.y) then some (n.x, n.y) else none) else (origins (s.getPart part).desc p.w p.h).find? fits
  | none => (origins (s.getPart part).desc p.w p.h).find? fits

/-- The cores of a neighbourhood of a launch at (x, y). -/
def LaunchRec.coresAt (p : LaunchRec) (x y : Nat) : List Nat :=
  (List.range p.h).flatMap fun j => (List.range p.w).map fun i => coreAt (x + i) (y + j)

/-- A bad block in the envelope map of a partition that a launch requires an entry of (R11). -/
def State.neededMapBad (s : State) (part : Nat) (p : LaunchRec) : Option Nat :=
  if (p.required 0).isNone && (p.required 1).isNone then none else s.mapBad part

/-- The slots that a placement reloads (R80 step 2): core, slot and map entry. -/
def State.reloadsFor (s : State) (part : Nat) (p : LaunchRec) (cores : List Nat) : List (Nat × Nat × Nat) :=
  cores.flatMap fun c => (List.range 2).filterMap fun k =>
    match p.required k with
    | none => none
    | some e => if s.slotHolds c k part e && !(s.getSlot c k).reloading then none else some (c, k, e)

/-- Slots begin to reload. -/
def State.beginReloads (s : State) (l : List (Nat × Nat × Nat)) : State :=
  l.foldl (fun (s : State) r => s.mapSlot r.1 r.2.1 fun x => { x with reloading := true }) s

/-- A scratchpad of a neighbourhood lies on a core without its team (R126, R175). -/
def State.padOn (s : State) (core : Nat) (n : Nb) : Bool :=
  match s.launch? n.launch with
  | none => false
  | some l => n.pads.any fun p => l.prm.coreOf n.x n.y p.1 == core

/-- The partition whose state a core holds: that of its teams, of its slots, or of the scratchpads that lie on it. -/
def State.coreHolder (s : State) (core : Nat) : Option Nat :=
  let c := s.getCore core
  match s.teams.find? fun t => t.core == core with
  | some t => some t.part
  | none =>
    if c.slotA.env.isSome then some c.slotA.part
    else if c.slotB.env.isSome then some c.slotB.part
    else (s.nbs.find? (s.padOn core)).map (·.part)

/-- A core changes its resident partition (R51): the L1 is written back and dropped, island caches and the weight buffer are
cleared. -/
def State.changePart (s : State) (core part : Nat) : State :=
  let c := s.getCore core
  if c.resPart = some part then s
  else
    let s1 := c.lru.foldl (fun (s : State) x => s.dropLine core x) s
    let clear (x : Slot) : Slot := { x with cache := [] }
    s1.mapCore core fun c => { c with wb := [], slotA := clear c.slotA, slotB := clear c.slotB, resPart := some part }

/-- The bytes of an envelope class's register space after a reload (R187), or as saved where the map entry still names the
envelope that the slot held (R86 step 5, R383); a slot whose entry names none is idle. -/
def State.slotBack (s : State) (part : Nat) (x : Slot) : Slot :=
  match x.env with
  | none => { x with env := none }
  | some v =>
    if s.envState part v.entry = 0 then { x with env := none }
    else
      let w := s.envOf part v.entry
      { x with env := some w, regs := if w.digest = v.digest then x.regs else resetRegs w.cls }

/-- A partition takes a core (R51, R86 steps 4 and 5, R87): what it saved of the core's slots and weight buffer comes back, with
the entries that waited behind a QFENCE (R154). -/
def State.takeCore (s : State) (part core : Nat) : State :=
  let s1 := s.changePart core part
  let s2 := if s.coreHolder core = some part then s1 else s1.mapCore core fun c => { c with since := s.clk }
  match (s.getPart part).ballast.find? fun b => b.core == core with
  | none => s2
  | some b =>
    let s3 := s2.mapCore core fun c =>
      { c with slotA := s.slotBack part b.slotA, slotB := s.slotBack part b.slotB, wb := b.wb,
               copyQ := c.copyQ ++ b.copyQ, wbQ := c.wbQ ++ b.wbQ }
    (s3.mapPart part fun x => { x with ballast := x.ballast.filter fun y => y.core != core }).settleCore core

/-- The cores of a placement for which the partition's ballast area holds slots and weights receive them (R87). -/
def State.takeSaved (s : State) (part : Nat) (cores : List Nat) : State :=
  (cores.filter fun c => (s.getPart part).ballast.any fun b => b.core == c).foldl (fun s c => s.takeCore part c) s

/-- A neighbourhood placed at (x, y) (R80): slots reserved, reloads begun, the start requested. -/
def State.requestNb (s0 : State) (n : Nb) (p : LaunchRec) (o : Nat × Nat) : State :=
  let s := s0.takeSaved n.part (p.coresAt o.1 o.2)
  let rs := s.reloadsFor n.part p (p.coresAt o.1 o.2)
  let n1 : Nb := { n with phase := .requested, x := o.1, y := o.2, reloads := rs }
  let known := s.nbs.any fun x => x.id == n.id
  let s1 : State :=
    if known then s.mapNb n.id fun _ => n1 else { s with nbs := s.nbs ++ [n1] }
  (s1.mapPart n.part fun q => { q with returns := q.returns.filter fun i => i != n.id }).beginReloads rs

/-- A neighbourhood of a launch that nothing has been done for. -/
def freshNb (id : Nat) (l : Launch) (grid : Nat) (order : Int) (clk : Nat) (advance : Bool) : Nb :=
  { id := id, launch := l.id, part := l.part, grid := grid, phase := .waiting, x := 0, y := 0, advance := advance,
    pinned := false, handlerSeq := l.handlerSeq, startClk := clk, order := order, reloads := [], barriers := [],
    saved := [], retired := [], pads := [] }

/-- The first neighbourhood of a launch is placed from its slot (R76): the advance is charged, and the pointer moves. -/
def State.placeLaunch (s : State) (l : Launch) (o : Nat × Nat) : State :=
  let (id, s1) := s.fresh
  let s2 := s1.requestNb (freshNb id l 0 id s.clk true) l.prm o
  let s3 := s2.mapQueue l.part l.queue fun q => q.credit (-(l.prm.teams * s.advance))
  { s3 with rr := modifyAt s3.rr l.cls fun _ => l.part * 16 + l.queue }

/-- QCFG writes that wait take effect at a round of the queue's class (R72, R88). -/
def Queue.applyCfg (q : Queue) (c : Nat) : Queue :=
  match q.newCfg with
  | none => q
  | some (qu, k) => if q.cls = c then { q with quantum := qu, cls := k, newCfg := none } else q

/-- A round of a class (R76): what is written takes effect, and every ready queue of the class gains its quantum. -/
def State.round (s : State) (c : Nat) : State :=
  let ready := (s.readyOf c).map fun l => (l.part, l.queue)
  { s with parts := mapAt (fun p (x : Partition) => { x with queues := mapAt (fun i (q : Queue) =>
      let q1 := q.applyCfg c
      if ready.contains (p, i) then { q1 with deficit := q1.deficit + q1.quantumUsed } else q1) 0 x.queues }) 0 s.parts }

/-- The queue indexes with ready work of a class, from the pointer on, wrapping (R76). -/
def State.visitOrder (s : State) (c : Nat) : List Nat :=
  let qs := sortBy (fun q : Nat => q) ((s.readyOf c).map fun l => l.part * 16 + l.queue).eraseDups
  let from_ := s.rr[c]?.getD 0
  qs.filter (fun q => decide (from_ ≤ q)) ++ qs.filter fun q => decide (q < from_)

/-- A queue of a class with a positive deficit places one of its ready launches (R76). -/
def State.serveQueue (s : State) (c qi : Nat) : Option State :=
  if 0 < (s.getQueue (qi / 16) (qi % 16)).deficit then
    ((s.readyOf c).filter fun l => l.part * 16 + l.queue == qi && s.servable l).findSome? fun l =>
      (s.findPlace (fun _ => false) false l.part l.prm none).map fun o => s.placeLaunch l o
  else none

/-- One pass over the queues of a class (R76). -/
def State.serveOnce (s : State) (c : Nat) : Option State := (s.visitOrder c).findSome? fun q => s.serveQueue c q

/-- Serving a class (R76): a pass, and a round with one retry where no ready queue has a positive deficit. The state after
it, and whether something was placed. -/
def State.serveClass (s : State) (c : Nat) : State × Bool :=
  match s.serveOnce c with
  | some s1 => (s1, true)
  | none =>
    let qs := s.visitOrder c
    if qs.any fun q => decide (0 < (s.getQueue (q / 16) (q % 16)).deficit) then (s, false)
    else
      match (s.round c).serveOnce c with
      | some s1 => (s1, true)
      | none => (s.round c, false)

/-- The oldest return-list entry of a class that can be placed is placed (R74). -/
def State.placeReturn (s : State) (c : Nat) : Option State :=
  (s.returnsOf c).findSome? fun e =>
    (s.findPlace (fun _ => false) false e.1.part e.2.prm (some e.1)).map fun o => s.requestNb e.1 e.2.prm o

/-- The classes in order until one places something (R74). -/
def State.placeFrom (s : State) : List Nat → State
  | [] => s
  | c :: cs =>
    if !s.classWork c then s.placeFrom cs
    else
      match s.placeReturn c with
      | some s1 => s1
      | none =>
        let r := s.serveClass c
        if r.2 then r.1 else r.1.placeFrom cs

/-- A bad block in an envelope map that the dispatcher reads for the work that it may place (R11). -/
def State.workMapBad (s : State) : Option Nat :=
  ((s.launches.filter s.servable) ++ s.returnsAll.map (·.2)).findSome? fun l => s.neededMapBad l.part l.prm

/-- PLACE_NEIGHBOURHOOD (R74, R76, R79, R80): one dispatch decision. -/
def execPlaceNeighbourhood (s : State) : Out :=
  .next (s.unlessBad s.workMapBad (s.settleTimers.placeFrom s.classOrder).settleTimers)

/-- STARVATION_PROMOTE (R75). -/
def execStarvationPromote (c : Nat) (s : State) : Out :=
  let s1 := s.settleTimers
  if c = 0 ∨ 4 ≤ c then .next s
  else
    match s1.starveFrom[c]?.getD none with
    | none => .next s
    | some k =>
      if s1.starve * clkPerUs ≤ s1.clk - k then .next { s1 with promoted := modifyAt s1.promoted c fun _ => true } else .next s

/-- The order that goes before that of every neighbourhood. -/
def State.firstOrder (s : State) : Int := (s.nbs.map (·.order)).foldl min 0 - 1

/-- A requested start is cancelled before any team issues (R77, R83, R88): the advance returns, and the neighbourhood goes
back to the head of its slot or of the return list. -/
def State.cancelNb (s : State) (n : Nb) : State :=
  match s.launch? n.launch with
  | none => s
  | some l =>
    if l.started then
      (s.mapNb n.id fun n => { n with phase := .waiting, reloads := [], order := s.firstOrder }).mapPart n.part fun p =>
        { p with returns := n.id :: p.returns }
    else
      let s1 : State := { s with nbs := s.nbs.filter fun x => x.id != n.id }
      if n.advance then s1.mapQueue l.part l.queue fun q => q.credit (l.prm.teams * s.advance) else s1

/-- Requested neighbourhoods that would start on one of some cores. -/
def State.pendingOn (s : State) (cores : List Nat) : List Nb :=
  s.nbs.filter fun n => decide (n.phase = .requested) && match s.launch? n.launch with
    | none => false
    | some l => (l.prm.coresAt n.x n.y).any cores.contains

/-- Neighbourhoods join the tail of the return list (R73, R83). -/
def State.toTail (s : State) (part : Nat) (ids : List Nat) : State :=
  ids.foldl (fun (s : State) id =>
    let (k, s1) := s.fresh
    (s1.mapNb id fun n => { n with phase := .waiting, order := (k : Int), reloads := [] }).mapPart part fun p =>
      { p with returns := p.returns.filter (fun i => i != id) ++ [id] }) s

end Sys2Proof.Machine
end

