-- ==== Sys2Proof/Machine/Sched.lean ====
section
/-!
DEFINITION. Starts and restores of neighbourhoods (R73, R80, R82, R202), slot reloads (R187), the winch (R81, R82), slicing out
(R83, R179), the partition switch (R85-R87), evicted teams that return (R175), runs (R94-R96), retirement (R110) and the watchdog.
-/
namespace Sys2Proof.Machine

/-- ENVELOPE_RELOAD (R187, R185): the slot takes the envelope that its placement asked for, or its own again (R212), and its
register space is reset. -/
def execEnvelopeReload (core slot : Nat) (s : State) : Out :=
  let x := s.getSlot core slot
  if !x.reloading || !x.tris.isEmpty || x.queue.any (fun r => r.fence.isNone) then .next s
  else
    let want := s.nbs.findSome? fun n =>
      (n.reloads.find? fun r => r.1 == core && r.2.1 == slot).map fun r => (n.part, r.2.2)
    let s0 : State := { s with nbs := s.nbs.map fun n =>
      { n with reloads := n.reloads.filter fun r => !(r.1 == core && r.2.1 == slot) } }
    let load (v : HeldEnvelope) (part : Nat) : State := s0.mapSlot core slot fun x =>
      { x with env := some v, part := part, regs := resetRegs v.cls, cache := [], reloading := false }
    match want with
    | some (p, e) => .next (s.unlessBad (s.mapBad p) (load (s.envOf p e) p))
    | none =>
      match x.env with
      | some v => .next (load v x.part)
      | none => .next (s.mapSlot core slot fun x => { x with reloading := false })

/-- A word per lane as the entries of a line (R192, R202). -/
def startLine (lanes : Nat) (w : Nat → Word) : Line :=
  { entries := (List.range (lanes / 32)).map fun j => (List.range 32).map fun i => w (32 * j + i), owed := [] }

/-- A pixel team at its start (R202, R111): its lines, and its launched and helper masks. -/
def Team.pixelStart (t : Team) (qs : List Quad) : Team :=
  let at_ (l : Nat) (f : Quad → Nat → Word) : Word :=
    match qs[l / 4]? with
    | some q => f q (l % 4)
    | none => 0
  let pos (q : Quad) (i : Nat) : Word := BitVec.ofNat 32 ((q.x + i % 2) % 2 ^ 13 + (q.y + i / 2) % 2 ^ 13 * 2 ^ 13)
  let lines := [startLine t.lanes fun l => at_ l pos, startLine t.lanes fun l => at_ l fun q i => q.l1[i]?.getD 0,
    startLine t.lanes fun l => at_ l fun q i => q.l2[i]?.getD 0, startLine t.lanes fun l => at_ l fun q i => q.z[i]?.getD 0]
  let launched := mkMask ((List.range t.lanes).map fun l => decide (l < 4 * qs.length))
  let covered := mkMask ((List.range t.lanes).map fun l =>
    match qs[l / 4]? with
    | some q => q.cover[l % 4]?.getD false
    | none => false)
  { t with lines := lines ++ t.lines.drop 4, launched := launched, active := launched, helper := launched &&& ~~~covered }

/-- One team of a starting neighbourhood (R80): new, or restored. Either way the round-table entries of its partition on the
core are push-lost (R142). -/
def State.startTeam (s : State) (id rank : Nat) : State :=
  match s.nb? id with
  | none => s
  | some n =>
    match s.launch? n.launch with
    | none => s
    | some l =>
      let core := l.prm.coreOf n.x n.y rank
      let slot := (s.freeSlot core).getD 0
      match n.saved.find? fun v => v.rank == rank with
      | some v => s.restoreTeam l n v core slot
      | none =>
        let (uid, s1) := s.fresh
        let place : Place2 :=
          { uid := uid, part := n.part, launch := l.id, nb := id, grid := n.grid, rank := rank, core := core, slot := slot }
        let t := teamStart l.prm place n.handlerSeq s.clk
        let t1 := if l.rast.isSome then t.pixelStart l.quads else t
        ({ s1 with teams := s1.teams ++ [t1] } : State).mapCore core fun c => c.loseRounds s.clk n.part []

/-- The first start of a launch (R73): its other neighbourhoods go to the tail of the return list, in grid order, its slot
frees, and the gondola receives signal kind 3. -/
def State.firstStart (s : State) (l : Launch) : State :=
  if l.started then s
  else
    let own := (s.getQueue l.part l.queue).slot == some l.id
    let (no, s0) := s.fresh
    let s1 : State := { s0 with launches := s0.launches.map fun x =>
      if x.id = l.id then { x with started := true, startNo := no } else x }
    let s2 := s1.mapPart l.part fun p =>
      { p with
          queues := p.queues.map fun q => if q.slot = some l.id then { q with slot := none } else q
          mailboxes := p.mailboxes.map fun m => if m.slot = some l.id then { m with slot := none } else m
          offers := p.offers.filter fun i => i != l.id }
    let s3 := if own then s2.raiseSignal 3 (l.part * 16 + l.queue) else s2
    ((List.range (l.prm.gridX * l.prm.gridY)).drop 1).foldl (fun (s : State) g =>
      let (id, s1) := s.fresh
      ({ s1 with nbs := s1.nbs ++ [freshNb id l g id s.clk false] } : State).mapPart l.part fun p =>
        { p with returns := p.returns ++ [id] }) s3

/-- The ways of a core after a start: removed down to the number that fits. Ways are added only at an adjustment (R129). -/
def State.fitWays (s : State) (core : Nat) : State := State.shrinkWays (s.wayMax core) (s.getCore core).ways s core

/-- A core on which teams start is ungated, and its pending gate release is cancelled (R82). -/
def State.ungate (s : State) (core : Nat) : State := s.mapCore core fun c => { c with clocked := true, emptied := none }

/-- Teams of a start in a row (R81). -/
def startsInRow (p : LaunchRec) (y : Nat) (ranks : List Nat) (row : Nat) : Nat :=
  (ranks.filter fun r => y + p.cy r == row).length

/-- The rows of a start whose budget holds it back (R81). -/
def State.heldRows (s : State) (y h : Nat) : List Nat :=
  ((List.range h).map (y + ·)).filter fun r => decide (((s.winch[r]?).map (·.budget)).getD 0 ≤ 0)

/-- The rows note that a start was held back in the window. -/
def State.holdRows (s : State) (rows : List Nat) : State :=
  { s with winch := mapAt (fun y (w : Winch) => if rows.contains y then { w with held := true } else w) 0 s.winch }

/-- The window of every row of a start is the present one (R81): a start at an edge is charged to the window that begins
there (R88). -/
def State.windowed (s : State) (y h : Nat) : Bool :=
  ((List.range h).map (y + ·)).all fun r => ((s.winch[r]?).map fun w => decide (s.clk < w.window + 256)).getD false

/-- A slot of a core that no requested start has reserved. -/
def State.unreserved (s : State) (core : Nat) : Option Nat :=
  let free := (List.range 16).filter fun k => !(s.teams.any fun t => t.core == core && t.slot == k)
  if (s.reserved (fun _ => false) core).length < free.length then free.head? else none

/-- The reloads of a returning evicted team, where every slot that it needs holds its envelope or is idle (R175, R78). -/
def State.homeReloads (s : State) (part core : Nat) (p : LaunchRec) : Option (List (Nat × Nat × Nat)) :=
  let missing := s.reloadsFor part p [core]
  if missing.all fun r => (s.claims (fun _ => false) r.1).all fun c =>
      decide (c.prm.required r.2.1 = none) || decide (c.prm.required r.2.1 = some r.2.2) then some missing else none

/-- What a deferred-list entry needs to return now, but for the winch (R175): its neighbourhood, launch, image and slot, and the
reloads still to be made. -/
def State.comesHome (s : State) (part : Nat) (d : Deferred) : Option (Nb × Launch × SavedTeam × Nat × List (Nat × Nat × Nat)) :=
  if !s.returnsHome (fun _ => false) d then none
  else
    match s.nb? d.nb with
    | none => none
    | some n =>
      match s.launch? n.launch, n.saved.find? (fun v => v.rank == d.rank), s.unreserved d.core with
      | some l, some v, some k => (s.homeReloads part d.core l.prm).map fun m => (n, l, v, k, m)
      | _, _, _ => none

/-- An evicted team waits to return to one of some cores; it goes ahead of new starts there (R175). -/
def State.homeFirst (s : State) (cores : List Nat) : Bool :=
  (mapAt (fun i (p : Partition) => p.deferred.any fun d => cores.contains d.core && (s.comesHome i d).isSome) 0 s.parts).any id

/-- NEIGHBOURHOOD_START (R80, R81, R82, R73, R88): with the winch's grant and the slots loaded, every team starts or is
restored in one clk. -/
def execNeighbourhoodStart (id : Nat) (s : State) : Out :=
  match s.nb? id with
  | none => .next s
  | some n =>
    match s.launch? n.launch with
    | none => .next s
    | some l =>
      let cores := l.prm.coresAt n.x n.y
      let missing := s.reloadsFor n.part l.prm cores
      if n.phase ≠ .requested || s.homeFirst cores || !s.windowed n.y l.prm.h then .next s
      else if let some a := s.neededMapBad n.part l.prm then .next (s.uncorrectable a false)
      else if !missing.isEmpty then .next ((s.mapNb id fun n => { n with reloads := missing }).beginReloads missing)
      else
        match s.heldRows n.y l.prm.h with
        | [] =>
          let ranks := s.startRanks n l.prm
          let s1 : State := { s with winch := mapAt (fun y (w : Winch) =>
            { w with budget := w.budget - startsInRow l.prm n.y ranks y }) 0 s.winch }
          let s2 := cores.foldl (fun (s : State) c => (s.takeCore n.part c).ungate c) s1
          let s3 := ranks.foldl (fun (s : State) r => s.startTeam id r) s2
          let s4 := s3.mapNb id fun n => { n with phase := .resident, pinned := false, reloads := [], startClk := s.clk }
          let s5 := cores.foldl (fun (s : State) c => (s.fitWays c).selfInvalidate c n.part) (s4.firstStart l)
          .next ({ s5 with
            starveFrom := modifyAt s5.starveFrom l.cls fun _ => none
            promoted := modifyAt s5.promoted l.cls fun _ => false } : State).settleTimers
        | rows => .next (s.holdRows rows)

/-- CAP and its runs at the end of a window (R81). -/
def Winch.step (w : Winch) : Winch :=
  if w.held then
    if w.rise ≤ w.heldRun + 1 then { w with cap := min (w.cap + 1) w.stepUp, heldRun := 0, freeRun := 0 }
    else { w with heldRun := w.heldRun + 1, freeRun := 0 }
  else
    if w.fall ≤ w.freeRun + 1 then { w with cap := max (w.cap - 1) 1, freeRun := 0, heldRun := 0 }
    else { w with freeRun := w.freeRun + 1, heldRun := 0 }

/-- The next window of a row: the budget refilled, debt carried and credit not (R81). -/
def Winch.turn (w : Winch) : Winch :=
  let w1 := w.step
  { w1 with budget := w1.cap + min w1.budget 0, held := false, window := w.window + 256 }

/-- A start that waits for the winch alone, in a row that has no budget (R81): that of a placed neighbourhood, or of an evicted
team. -/
def State.heldIn (s : State) (y : Nat) : Bool :=
  (!(s.heldRows y 1).isEmpty) &&
  ((s.nbs.any fun n => decide (n.phase = .requested) && match s.launch? n.launch with
      | none => false
      | some l => decide (n.y ≤ y) && decide (y < n.y + l.prm.h) && (s.reloadsFor n.part l.prm (l.prm.coresAt n.x n.y)).isEmpty) ||
    (mapAt (fun i (p : Partition) => p.deferred.any fun d => decide (d.core / 12 = y) && match s.comesHome i d with
      | none => false
      | some (_, _, _, _, m) => m.isEmpty) 0 s.parts).any id)

/-- The cores of a row whose gates wait, in the order in which they emptied (R82). -/
def State.waitingGates (s : State) (y : Nat) : List Nat :=
  let cs := (List.range 12).filterMap fun x => ((s.getCore (coreAt x y)).emptied).map fun n => (n, coreAt x y)
  (sortBy (fun p => p.1) cs).map (·.2)

/-- WINCH_WINDOW (R81, R82): a window of 256 clk ends and the next begins. -/
def execWinchWindow (y : Nat) (s : State) : Out :=
  match s.winch[y]? with
  | none => .next s
  | some w =>
    if s.clk < w.window + 256 then .next s
    else
    let s1 : State := { s with winch := modifyAt s.winch y fun w => Winch.turn { w with held := w.held || s.heldIn y } }
    .next (((s.waitingGates y).take w.stepUp).foldl (fun (s : State) c =>
      s.mapCore c fun c => { c with clocked := false, emptied := none }) s1)

/-- WINCH_WRITE (R72, R81): a zero STEP, RISE or FALL makes the write ignored; a STEP below CAP sets CAP to it. -/
def execWinchWrite (y : Nat) (value : DWord) (s : State) : Out :=
  let v := value.toNat
  let step := bits v 5 0
  let rise := bits v 13 8
  let fall := bits v 21 16
  s.regWrite fun s =>
  if step = 0 ∨ rise = 0 ∨ fall = 0 then s
  else
    { s with winch := modifyAt s.winch y fun w => { w with stepUp := step, rise := rise, fall := fall, cap := min w.cap step } }

/-- The weight units that go into the frame of a rank (R124, R179): its neighbourhood's on its core, for the lowest rank there
that is resident, or evicted where none is. -/
def State.unitsFor (s : State) (l : Launch) (n : Nb) (rank : Nat) : Option (List WbUnit) :=
  let core := l.prm.coreOf n.x n.y rank
  let low (rs : List Nat) : Option Nat :=
    match rs with
    | [] => none
    | r :: rest => some (rest.foldl min r)
  let here := ((s.nbTeams n.id).filter fun t => t.core == core).map (·.rank)
  let out := (n.saved.filter fun v => (n.pads.any fun p => p.1 == v.rank) && l.prm.coreOf n.x n.y v.rank == core).map (·.rank)
  let holder : Option Nat := match low here with
    | some r => some r
    | none => low out
  if l.prm.wbkeep ∧ holder = some rank then some ((s.getCore core).wb.filter fun u => u.nb == n.id) else none

/-- What a slice-out or a switch has to do with the engine queues for an evicted team whose scratchpad is still on its core. -/
def SavedTeam.saving (v : SavedTeam) (l : Launch) (n : Nb) (reason : Nat) : Saving :=
  { nb := n.id, rank := v.rank, uid := v.uid, wbkeep := l.prm.wbkeep, reason := reason }

/-- Operations that were withdrawn for an evicted team are in its held area, behind those there (R179). -/
def SavedTeam.holdOps (v : SavedTeam) (ops : List EngineOp) (units : Option (List WbUnit)) : SavedTeam :=
  { v with heldOps := v.heldOps ++ ops.map (·.held), units := (units.getD []).map fun u => (u.idx, u.handle) }

/-- The scratchpad of an evicted team goes into its frame, which keeps REASON 3, and frees (R83), with the operations that step 4 of
R179 withdraws; none where the write faults. A bad block on the way is a machine check (R10, R11). -/
def State.flushPad (s : State) (l : Launch) (n : Nb) (reason : Nat) (units : Option (List WbUnit)) (v : SavedTeam) :
    Option State :=
  if (s.getPart n.part).st ≠ .runnable then some s
  else
  match v.place with
  | .ballast _ => some s
  | .frame i =>
    let y := frameLayout l.prm
    let h := Cap.handle l.prm.savef
    match s.frameAddr n.part h (i * y.size + 6) 1, s.frameBad n.part h (i * y.size + 6) 1 with
    | none, none => none
    | _, some a => some (s.uncorrectable a false)
    | some pa, none =>
      let ops := (v.saving l n reason).ops (s.getCore v.core)
      let flags := s.homeByte pa ||| 1 ||| if units.isSome then 8 else 0
      let pad := ((n.pads.find? fun p => p.1 == v.rank).map (·.2)).getD []
      let held := if ops.isEmpty then [] else
        (0x12, [BitVec.ofNat 8 (v.heldOps.length + ops.length)]) :: heldOpChunks s.freeCtr (v.heldOps.length + ops.length)
      let ws := match units with
        | none => []
        | some us => weightChunks y us
      match s.frameWrite n.part h (i * y.size) ([(6, [flags]), (y.pad, cellRead 0 pad 0 l.prm.scratch)] ++ held ++ ws) with
      | .error none => none
      | .error (some a) => some (s.uncorrectable a false)
      | .ok s1 =>
        let s2 := (s1.leaveAll v.core n.part (ops.map (·.parked))).mapCore v.core fun c => c.dropOps ops
        some ((({ s2 with freeCtr := s2.freeCtr + 1 } : State).mapNb n.id fun n =>
          { n with pads := n.pads.filter fun p => p.1 != v.rank
                   saved := n.saved.map fun x => if x.uid = v.uid then x.holdOps ops units else x }).settleCore v.core)

/-- Evicted teams of a neighbourhood whose scratchpads stay on some cores. -/
def Nb.evictedOn (n : Nb) (p : LaunchRec) (cores : List Nat) : List SavedTeam :=
  n.saved.filter fun v => (n.pads.any fun x => x.1 == v.rank) && cores.contains (p.coreOf n.x n.y v.rank)

/-- A neighbourhood sliced out (R83, R179): every resident team into a frame, the scratchpads of evicted ones into theirs; the
rank whose save fails, if one does. -/
def State.sliceNb (s : State) (l : Launch) (n : Nb) : Except Nat State :=
  let teams := sortBy (fun t : Team => t.rank) (s.nbTeams n.id)
  let saved := teams.foldl (fun (r : Except Nat State) t =>
    match r with
    | .error k => .error k
    | .ok s1 =>
      if (s1.getPart n.part).st ≠ .runnable then .ok s1
      else match s1.saveFrame t 1 (s.unitsFor l n t.rank) with
      | some s2 => .ok s2
      | none => .error t.rank) (.ok s)
  (n.evictedOn l.prm (l.prm.coresAt n.x n.y)).foldl (fun (r : Except Nat State) v =>
    match r with
    | .error k => .error k
    | .ok s1 =>
      match s1.flushPad l n 1 (s.unitsFor l n v.rank) v with
      | some s2 => .ok s2
      | none => .error v.rank) saved

/-- The notice of a slice-out whose save failed (R180). -/
def State.postSliceFault (s : State) (l : Launch) (n : Nb) (rank : Nat) : State :=
  let slot := ((s.rankTeam? n.id rank).map (·.slot)).getD 0
  let pc : Word := ((s.rankTeam? n.id rank).map (·.pc)).getD 0
  s.post n.part (FaultRec.of 0x3F 5 0 0 (l.prm.coreOf n.x n.y rank) slot 0 0 (rank + n.grid * 2 ^ 8) pc 0)

/-- A neighbourhood holds one of some cores: a team or a scratchpad lies there. -/
def State.holdsCores (s : State) (n : Nb) (l : Launch) (cores : List Nat) : Bool :=
  ((s.nbTeams n.id).any fun t => cores.contains t.core) || n.pads.any fun p => cores.contains (l.prm.coreOf n.x n.y p.1)

/-- Resident neighbourhoods of a partition that a slice-out may take (R83). -/
def State.sliceable (s : State) (p : Nat) (n : Nb) : Bool :=
  n.part == p && decide (n.phase = .resident) && decide (s.ts * clkPerUs ≤ s.clk - n.startClk)

/-- What a slice-out frees (R83): the cores of the rectangle that the head of the return list, which no rectangle takes, would
take, and the neighbourhoods that hold them. -/
def State.slicing (s : State) (p : Nat) : Option (List Nat × List (Nb × Launch)) :=
  let head := (((s.getPart p).returns.head?).bind s.nb?).bind fun n => (s.launch? n.launch).map fun l => (n, l)
  match head with
  | none => none
  | some (n, l) =>
    if (s.getPart p).st ≠ .runnable || (s.findPlace (fun _ => false) false p l.prm (some n)).isSome then none
    else
      (s.findPlace (s.sliceable p) false p l.prm (some n)).map fun o =>
        let cores := l.prm.coresAt o.1 o.2
        (cores, s.nbs.filterMap fun v =>
          match s.launch? v.launch with
          | none => none
          | some lv => if s.sliceable p v && s.holdsCores v lv cores then some (v, lv) else none)

/-- A neighbourhood is chosen to be sliced out (R83): its teams are saved by that and by no eviction (R183). -/
def State.sliceChosen (s : State) (p nb : Nat) : Bool :=
  match s.slicing p with
  | none => false
  | some (_, vs) => vs.any fun v => v.1.id == nb

/-- Faults that stand at the boundaries of some teams are taken (R183). -/
def State.takeFaults (s : State) (ts : List Team) : State := ts.foldl (fun (s : State) t => s.takeFault t) s

/-- Step 4 of R179 has nothing left but what is withdrawn for the evicted teams of a neighbourhood whose scratchpads lie on some
cores. -/
def State.evictedReady (s : State) (e : Nb × Launch) (cores : List Nat) (reason : Nat) : Bool :=
  (e.1.evictedOn e.2.prm cores).all fun v => s.enginesDone v.core (v.saving e.2 e.1 reason)

/-- SLICE_OUT (R83): the head of the return list, which no rectangle takes, gets one of those that slicing frees. A fault at a
boundary is taken first (R183). -/
def execSliceOut (p : Nat) (s : State) : Out :=
  match s.slicing p with
  | none => .next s
  | some (cores, victims) =>
    let teams := victims.flatMap fun v => s.nbTeams v.1.id
    if teams.any fun t => t.due.isSome && t.atBoundary then .next (s.takeFaults (teams.filter (·.atBoundary)))
    else if !(teams.all fun t => s.saveReady t 1) ||
        !(victims.all fun v => s.evictedReady v (v.2.prm.coresAt v.1.x v.1.y) 1) then .next s
    else
      let s1 := ((s.pendingOn cores).filter fun x => x.part == p).foldl (fun (s : State) x => s.cancelNb x) s
      .next (victims.foldl (fun (s : State) v =>
        if (s.getPart p).st ≠ .runnable then s
        else match s.sliceNb v.2 v.1 with
        | .ok s2 => if (s2.nb? v.1.id).isSome then s2.toTail p [v.1.id] else s2
        | .error rank => s.postSliceFault v.2 v.1 rank) s1).settleTimers

/-- The classes of a partition's work that R79 cannot place only because other partitions hold its cores (R85). -/
def State.blockedClasses (s : State) (p : Nat) : List Nat :=
  let held (l : Launch) (n : Option Nb) : Bool :=
    (s.findPlace (fun _ => false) false p l.prm n).isNone && (s.findPlace (fun _ => false) true p l.prm n).isSome
  ((s.launches.filter fun l => l.part == p && s.servable l && held l none).map (·.cls)) ++
    (s.returnsAll.filter fun e => e.1.part == p && held e.2 (some e.1)).map fun e => e.2.cls

/-- The rank of a partition that waits for cores (R85): the class, then round-robin after the one switched in last. -/
def State.switchRank (s : State) (p : Nat) : Option Nat :=
  match s.blockedClasses p with
  | [] => none
  | c :: cs => some (cs.foldl min c * 128 + (p + 255 - s.lastSwitch) % 128)

/-- The cores of a partition's allotment: the scope of its switch (R85). -/
def Desc.cores (d : Desc) : List Nat :=
  (List.range 96).filter fun c => (d.allot.filterMap allotRect).any fun r =>
    decide (r.1 ≤ c % 12) && decide (c % 12 < r.1 + r.2.2.1) && decide (r.2.1 ≤ c / 12) && decide (c / 12 < r.2.1 + r.2.2.2)

/-- Partitions other than p that hold cores of a scope. -/
def State.outgoing (s : State) (p : Nat) (cores : List Nat) : List Nat :=
  ((cores.filterMap s.coreHolder).filter fun q => q != p).eraseDups

/-- A partition may be switched out of some cores (R85, R87). One that is not RUNNABLE has no work left there (R40). -/
def State.mayLeave (s : State) (cores : List Nat) (q : Nat) : Bool :=
  let x := s.getPart q
  let there := cores.filter fun c => s.coreHolder c == some q
  decide (x.st ≠ .runnable) || decide (x.balLen ≠ 0) &&
  ((there.all fun c => decide (s.pslice * clkPerUs ≤ s.clk - (s.getCore c).since)) ||
    (x.returns.isEmpty && !(s.launches.any fun l => l.part == q && s.readyLaunch l) &&
      (s.teams.filter fun t => t.part == q).all fun t => t.parkToken.isSome))

/-- Bytes that a core's slots and weight buffer take in the ballast area (R87). -/
def coreBallast : Nat := 65536 + 512

/-- Bytes of a partition's ballast area in use. -/
def State.ballastUsed (s : State) (q : Nat) : Nat :=
  let frames := (s.nbs.filter fun n => n.part == q).map fun n =>
    match s.launch? n.launch with
    | none => 0
    | some l => ((n.saved.filter fun v =>
        match v.place with
        | .ballast _ => true
        | .frame _ => false).length) * (frameLayout l.prm).size
  frames.sum + coreBallast * (s.getPart q).ballast.length

/-- Bytes that a switch will take of a partition's ballast area for the cores that it holds, besides those of cores that are there
already (R87). -/
def State.coresToSave (s : State) (held : List (Nat × Option Nat)) (q : Nat) : Nat :=
  coreBallast * (held.filter fun c => c.2 == some q && !((s.getPart q).ballast.any fun b => b.core == c.1)).length

/-- One team of an outgoing partition is saved (R86 step 3, R87, R180): in the ballast area, beside the state of the cores of the
scope, in its SAVEF object where that is full, or the partition takes a kill-class SAVE_FRAME_FAULT. -/
def State.switchOutTeam (s : State) (held : List (Nat × Option Nat)) (t : Team) : State :=
  if (s.getPart t.part).st ≠ .runnable then s
  else if s.ballastUsed t.part + s.coresToSave held t.part + (frameLayout t.prm).size ≤ (s.getPart t.part).balLen * 2 ^ 20 then
    s.saveBallast t
  else
    match s.saveFrame t 2 none with
    | some s1 => s1
    | none => (s.flight 0x06 0x10 t.part 0x3F).killClass t.part 0x3F t.saveFault t.core t.slot 0

/-- The entries of an engine queue from a partition's first QFENCE marker on, which leave with the slots that hold the marker's
others (R154); the rest stays. -/
def splitAtMark (q : Nat) (l : List EngineOp) : List EngineOp × List EngineOp :=
  let before := l.takeWhile fun e => !(e.part == q && e.job.isFence)
  let after := l.drop before.length
  (before ++ after.filter (fun e => e.part != q), after.filter fun e => e.part == q)

/-- The partition whose state a core holds when a switch saves it: one that has only left units in the weight buffer counts too
(R124). -/
def State.saveHolder (s : State) (core : Nat) : Option Nat :=
  let c := s.getCore core
  (s.coreHolder core).orElse fun _ => if c.wb.isEmpty then none else c.resPart

/-- The per-core state of a core of the scope goes into the ballast area of the partition that holds it (R86 step 3). -/
def State.saveCore (s : State) (p core : Nat) (holder : Option Nat) : State :=
  let c := s.getCore core
  match holder with
  | none => s
  | some q =>
    if q = p ∨ (s.getPart q).st ≠ .runnable then s
    else
      let b : CoreSave :=
        { core := core, slotA := { c.slotA with cache := [], reloading := false }
          slotB := { c.slotB with cache := [], reloading := false }, wb := c.wb
          copyQ := (splitAtMark q c.copyQ).2, wbQ := (splitAtMark q c.wbQ).2 }
      let s1 := s.mapCore core fun c => { c with copyQ := (splitAtMark q c.copyQ).1, wbQ := (splitAtMark q c.wbQ).1 }
      s1.mapPart q fun x => { x with ballast := b :: x.ballast.filter (fun y => y.core != core) }

/-- A core of the scope receives the incoming partition's state; both its slots are idle where nothing was saved of it (R86 steps
4 and 5, R51). A core that the partition already holds stays. -/
def State.loadCore (s : State) (p core : Nat) (holder : Option Nat) : State :=
  if holder = some p then s
  else (s.mapCore core fun c => { c with slotA := Slot.reset, slotB := Slot.reset }).takeCore p core

/-- The neighbourhoods of outgoing partitions that hold cores of the scope. -/
def State.leavingNbs (s : State) (p : Nat) (cores : List Nat) : List (Nb × Launch) :=
  s.nbs.filterMap fun n =>
    match s.launch? n.launch with
    | none => none
    | some l => if n.part ≠ p ∧ s.holdsCores n l cores then some (n, l) else none

/-- The work of the islands of a scope has ended, apart from what is stopped (R86 step 2). -/
def State.islandsQuiet (s : State) (p : Nat) (cores : List Nat) : Bool :=
  let quiet (c k : Nat) : Bool :=
    let x := s.getSlot c k
    (x.tris.all fun t => t.part == p) && x.queue.all fun r =>
      r.part == p || r.out || (s.queueStuck c 4 (k + 1) && (r.fence.isSome || !r.lanes.isEmpty))
  cores.all fun c => quiet c 0 && quiet c 1

/-- The copies that write a scratchpad that leaves have been completed, on every core, apart from what is stopped (R86 step 2). -/
def State.padsQuiet (s : State) (e : Nb × Launch) (cores : List Nat) : Bool :=
  let leaves (r : Nat) : Bool := cores.contains (e.2.prm.coreOf e.1.x e.1.y r)
  (List.range 96).all fun c => s.endedOrStuck c 0
    ((s.getCore c).copyQ.filter fun x => x.nb == e.1.id && x.job.padsWritten.any leaves)

/-- A neighbourhood of which something left with its partition: it comes back only where it was (R87). -/
def State.pinNb (s : State) (n : Nb) : State :=
  if (s.getPart n.part).st ≠ .runnable then s
  else (s.mapNb n.id fun n => { n with pinned := true }).toTail n.part [n.id]

/-- The neighbourhoods of a partition that are held for their cores are placed there again, as far as they fit, oldest first (R86
step 4, R87); they start through the winch (step 6). -/
def State.bringBack (s : State) (p : Nat) : State :=
  (sortBy (fun e : Nb × Launch => e.1.order) (s.returnsAll.filter fun e => e.1.part == p && e.1.pinned)).foldl
    (fun (s : State) e =>
      match s.findPlace (fun _ => false) false p e.2.prm (some e.1) with
      | none => s
      | some o => s.requestNb e.1 e.2.prm o) s

/-- The switch itself (R86), once every team of the scope stands at a boundary and is drained. -/
def State.switchIn (s : State) (p : Nat) (cores : List Nat) : State :=
  let outs := s.outgoing p cores
  let held := cores.map fun c => (c, s.saveHolder c)
  let s1 := (s.pendingOn cores).foldl (fun (s : State) x => s.cancelNb x) s
  let nbs := s1.leavingNbs p cores
  let teams := s1.teams.filter fun t => t.part != p && cores.contains t.core
  let s3 := teams.foldl (fun (s : State) t => s.switchOutTeam held t) s1
  let s4 := nbs.foldl (fun (s : State) e => (e.1.evictedOn e.2.prm cores).foldl (fun (s : State) v =>
    if (s.getPart e.1.part).st ≠ .runnable then s
    else match s.flushPad e.2 e.1 2 none v with
    | some s1 => s1
    | none => (s.flight 0x06 0x10 e.1.part 0x3F).killClass e.1.part 0x3F (v.rank + e.1.grid * 2 ^ 8)
        (e.2.prm.coreOf e.1.x e.1.y v.rank) 0 0) s) s3
  let s5 := held.foldl (fun (s : State) c => s.saveCore p c.1 c.2) (nbs.foldl (fun (s : State) e => s.pinNb e.1) s4)
  let s6 := (held.foldl (fun (s : State) c => s.loadCore p c.1 c.2) s5).bringBack p
  let out := match outs with
    | [q] => q
    | _ => 0xFF
  let low := cores.headD 0
  ({ s6 with lastSwitch := p, freeCtr := s6.freeCtr + 1 } : State).flight 0x06 0x01 p
    (out + low * 2 ^ 8 + Config.freeSpan s6.freeCtr % 2 ^ 40 * 2 ^ 16)

/-- PARTITION_SWITCH (R85, R86): `scope` is the set of cores of p's allotment. Teams outside it of a neighbourhood that leaves in
part stand still too, since no team issues while a scratchpad of its neighbourhood is away (R126). The duration that the
flight-log entry names is a free value (log entry 2). In the clk of a start that would leave the halt comes first, so that it cancels
the start (R88). -/
def execPartitionSwitch (p : Nat) (scope : List Nat) (s : State) : Out :=
  let cores := (s.getPart p).desc.cores
  let outs := s.outgoing p cores
  let first := match s.switchRank p with
    | none => false
    | some r => (List.range 129).all fun q =>
        match s.switchRank q with
        | none => true
        | some k => decide (r ≤ k)
  let leaving := s.teams.filter fun t => t.part != p && cores.contains t.core
  let nbs := s.leavingNbs p cores
  let beside := (nbs.flatMap fun e => s.nbTeams e.1.id).filter fun t => !cores.contains t.core
  if (s.getPart p).st ≠ .runnable || !(scope.all cores.contains && cores.all scope.contains) || !first || outs.isEmpty ||
      !outs.all (s.mayLeave cores) then .next s
  else if leaving.any fun t => t.due.isSome && t.atBoundary then .next (s.takeFaults (leaving.filter (·.atBoundary)))
  else if let some a := (s.mapBad p) then .next (s.uncorrectable a false)
  else if nbs.any fun e => decide (e.1.phase = .resident) && e.1.startClk == s.clk then .next s
  else if !s.islandsQuiet p cores || !(leaving.all fun t => s.saveReady t 2) || beside.any (·.port.isSome) ||
      !(nbs.all fun e => s.padsQuiet e cores && s.evictedReady e cores 2) then .next s
  else .next (s.switchIn p cores).settleTimers

/-- EVICTED_TEAM_RETURN (R175): the first woken team of the deferred list whose own core has a slot that no start has reserved
returns through the winch, ahead of new starts. -/
def execEvictedTeamReturn (p : Nat) (s : State) : Out :=
  match (s.getPart p).deferred.find? fun d => (s.comesHome p d).isSome with
  | none => .next s
  | some d =>
    match s.comesHome p d with
    | none => .next s
    | some (n, l, v, k, missing) =>
      let y := d.core / 12
      if (s.getPart p).st ≠ .runnable || !s.windowed y 1 then .next s
      else if let some a := s.neededMapBad p l.prm then .next (s.uncorrectable a false)
      else if !missing.isEmpty then .next ((s.mapNb n.id fun n => { n with reloads := missing }).beginReloads missing)
      else if s.heldRows y 1 ≠ [] then .next (s.holdRows [y])
      else
        let s1 : State := { s with winch := modifyAt s.winch y fun w => { w with budget := w.budget - 1 } }
        let s2 := ((s1.takeCore p d.core).ungate d.core).restoreTeam l n v d.core k
        .next (s2.fitWays d.core)

/-- Ports of a core in use. -/
def State.portFree (s : State) (core k : Nat) : Bool := !(s.teams.any fun t => t.core == core && t.port == some k)

/-- The class of a team's launch. -/
def State.classOf (s : State) (t : Team) : Nat := ((s.launch? t.launch).map (·.cls)).getD 3

/-- A team precedes another at a port (R95). -/
def State.precedes (s : State) (a b : Team) : Bool :=
  decide (s.classOf a < s.classOf b) ||
  (s.classOf a == s.classOf b &&
    (decide (a.startClk < b.startClk) || (a.startClk == b.startClk && decide (a.slot < b.slot))))

/-- A team may take a port (R95, R126): it is running, and every scratchpad of its neighbourhood is on its core. -/
def State.mayRun (s : State) (t : Team) : Bool :=
  decide (t.status = .running) && t.port.isNone && (s.getCore t.core).clocked &&
  ((s.nb? t.nb).map fun n => decide (n.phase = .resident)).getD false

/-- The traps that a team takes at the start of a run (R176, R302): one that its last instruction left, then an asynchronous
one. -/
def State.takeDue (s : State) (t : Team) : State :=
  match t.due with
  | some (c, pc) => s.takeTrap { t with due := none } c false pc t.pc none
  | none =>
    match t.async with
    | some x =>
      s.takeTrap { t with async := none }
        { code := x.cause.toNat, info := x.info.toNat, lane := x.lane, handle := x.handle, next := false, agent := x.agent,
          cursor := x.cursor } true x.pc t.pc none
    | none => s.setTeam t

/-- FORCED_BOUNDARY (R94, R97): the 24th instruction ends the run, and FORCED counts it. -/
def execForcedBoundary (team : Nat) (s : State) : Out :=
  match s.team? team with
  | none => .next s
  | some t =>
    if t.runLen < 24 then .next s
    else .next (s.setTeam { t with runLen := 0, port := none, forced := min (t.forced + 1) 255 })

/-- A team has copies or island requests that have not performed or been delivered (R110). -/
def State.hasWork (s : State) (uid : Nat) : Bool :=
  s.cores.any fun c =>
    ((c.copyQ ++ c.wbQ).any fun e => e.uid == uid) || ((c.slotA.queue ++ c.slotB.queue).any fun r => r.uid == uid) ||
      (c.slotA.tris ++ c.slotB.tris).any fun t => t.uid == uid

/-- TEAM_RETIRE (R110, R126, R176): the slot frees; the scratchpad stays while other teams of the neighbourhood remain; with
the last one the neighbourhood ends. -/
def execTeamRetire (team : Nat) (s : State) : Out :=
  match s.team? team with
  | none => .next s
  | some t =>
    if t.status ≠ .retiring || !t.drained || s.hasWork team then .next s
    else
      let s1 := match t.async with
        | some x => s.postAsync t.part t.core t.slot x
        | none => s
      let s2 := s1.mapNb t.nb fun n => { n with retired := t.rank :: n.retired, pads := n.pads ++ [(t.rank, t.scratch)] }
      let s3 := s2.departTeam t true
      match s3.nb? t.nb with
      | none => .next s3
      | some n => if t.prm.teams ≤ n.retired.length then .next (s3.endNb n) else .next s3

/-- TEAM_WATCHDOG (R166): a run has lasted 2^24 clk. -/
def execTeamWatchdog (team : Nat) (s : State) : Out :=
  match s.team? team with
  | none => .next s
  | some t =>
    if t.port.isNone ∨ s.clk < t.runClk + 2 ^ 24 then .next s
    else
      let t1 := { t with inLdb := false, loads := t.loads.filter fun p => p.bound.isNone }
      .next (s.takeTrap t1 (Cause.simple 0x5F t.pc.toNat) false t.pc t.pc none)

end Sys2Proof.Machine
end

