-- ==== Sys2Proof/Machine/Faults.lean ====
section
/-!
DEFINITION. The fault batcher and the fault queue (R171-R173), REPLAY's wakes (R174, R66), eviction (R175), and the parking of a
queue (R65).
-/
namespace Sys2Proof.Machine

/-- The KIND 1 record of an entry (R172, R173). -/
def WaitEntry.record (e : WaitEntry) (core : Nat) : FaultRec :=
  { FaultRec.of e.cause 1 e.token e.handle core e.slot e.agent e.info.toNat e.info.toNat e.pc e.lane with
      cursor := BitVec.ofNat 64 e.cursor, count := e.waiters }

/-- The KIND 2 header of a batch of `n` entries (R172, R173). -/
def batchHeader (core n : Nat) : FaultRec := { FaultRec.of 0 2 0 0 core 0 0 0 0 0 0 with count := n }

/-- The entries of a batch go to each partition concerned (R172). -/
def State.postBatch (s : State) (core : Nat) (es : List WaitEntry) : State :=
  ((es.map (·.part)).eraseDups).foldl (fun (s : State) p =>
    let mine := es.filter fun e => e.part == p
    (mine.foldl (fun (s : State) e => s.post p (e.record core)) (s.post p (batchHeader core mine.length)))) s

/-- FAULT_BATCH_CLOSE (R172, R183): 2 µs after it opened, or with 32 entries, a batch closes and is posted; an entry that was
woken or left meanwhile is posted too, and then goes. -/
def execFaultBatchClose (core : Nat) (s : State) : Out :=
  let c := s.getCore core
  match c.batchClk with
  | none => .next s
  | some k =>
    if s.clk < k + 2 * clkPerUs ∧ c.batch.length < 32 then .next s
    else
      let es := (c.waits.filter fun e => !e.posted).take 32
      let mine (e : WaitEntry) : Bool := es.any fun x => x.part == e.part && x.token == e.token
      let rest := c.batch.drop es.length
      let s1 := s.postBatch core es
      .next (s1.mapCore core fun c =>
        { c with
            waits := (c.waits.map fun e => if mine e then { e with posted := true } else e).filter fun e => !(e.wake && e.posted)
            batch := rest
            batchClk := if rest.isEmpty then none else some s.clk })

/-- The bytes of a fault record (R173). -/
def FaultRec.bytes (r : FaultRec) (part : Nat) (phase : Bool) : List Byte :=
  leBytes 4 (r.cause % 2 ^ 8 + r.kind % 16 * 2 ^ 8 + part % 2 ^ 8 * 2 ^ 16 + b2n phase * 2 ^ 31) ++
    leBytes 4 (r.token % 2 ^ 32) ++ leBytes 4 (r.handle % 2 ^ 20) ++
    leBytes 4 (r.core % 2 ^ 7 + r.slot % 2 ^ 4 * 2 ^ 8 + r.agent % 2 ^ 3 * 2 ^ 12) ++ leBytes 8 r.key.toNat ++
    leBytes 8 r.info.toNat ++ leBytes 4 r.pc.toNat ++ leBytes 4 r.qword.toNat ++ leBytes 8 r.cursor.toNat ++
    leBytes 4 (r.lane % 2 ^ 32) ++ leBytes 4 (r.count % 2 ^ 32) ++ leBytes 8 r.time.toNat

/-- Records that the fault queue has room for (R171). -/
def Partition.fqRoom (p : Partition) : Nat :=
  if p.desc.fqLen = 0 then 0 else p.desc.fqLen - 1 - (p.fqWr + p.desc.fqLen - p.fqRd) % p.desc.fqLen

/-- One record is written at FQ.WR, which moves on; PHASE inverts when it wraps to 0 (R171, R173). -/
def State.writeRecord (s : State) (p : Nat) (r : FaultRec) : State :=
  let x := s.getPart p
  let next := (x.fqWr + 1) % x.desc.fqLen
  (s.tableWrite (x.desc.fqBase + 64 * x.fqWr) (r.bytes p x.phase)).mapPart p fun x =>
    { x with fqWr := next, phase := if next = 0 then !x.phase else x.phase }

/-- FAULT_RECORD_POST (R172): the oldest record that waits, or the batch that it heads, is written where it fits whole. -/
def execFaultRecordPost (p : Nat) (s : State) : Out :=
  let x := s.getPart p
  match x.records with
  | [] => .next s
  | r :: _ =>
    let n := if r.kind = 2 then r.count + 1 else 1
    if x.fqRoom < n then .next s
    else
      let s1 := (x.records.take n).foldl (fun (s : State) r => s.writeRecord p r) s
      .next (s1.mapPart p fun x => { x with records := x.records.drop n })

/-- The KIND 6 record of an eviction (R175). -/
def evictRecord (t : Team) (tok : Nat) : FaultRec :=
  let full := match t.status with
    | .evictDue _ => true
    | _ => false
  FaultRec.of (if full then 0x37 else t.parkCause) 6 tok (bits t.parkKey.toNat 63 44) t.core t.slot 0 t.parkKey.toNat t.parkCause
    t.pc t.parkLane

/-- PARK_LIMIT_EVICT (R175, R180): a team parked for PARKLIM, or whose park found the table full, leaves its slot; where the
save fails it stays parked, and a notice is posted. It is evicted once the clk of the limit is over, so that a REPLAY in that clk
wakes it, and not where a slice-out has chosen its neighbourhood (R183). -/
def execParkLimitEvict (team : Nat) (s : State) : Out :=
  match s.team? team with
  | none => .next s
  | some t =>
    let due := match t.status with
      | .parked _ => decide (t.parkClk + s.parkLim * clkPerUs < s.clk)
      | .evictDue _ => true
      | _ => false
    if !due || !s.saveReady t 3 || s.sliceChosen t.part t.nb then .next s
    else
      let tok := t.parkToken.getD 0
      match s.saveFrame t 3 none with
      | none => .next ((s.setTeam { t with parkClk := s.clk }).postSaveFault t)
      | some s1 =>
        let d : Deferred :=
          { nb := t.nb, rank := t.rank, core := t.core, cause := t.parkCause, key := t.parkKey, token := tok, woken := false }
        if (s1.saved? team).isNone then .next s1
        else .next ((s1.mapPart t.part fun p => { p with deferred := p.deferred ++ [d] }).post t.part (evictRecord t tok))

/-- What a REPLAY names (R174): a page, or a token. -/
inductive Replay where
  | page (handle page : Nat)
  | token (n : Nat)
  deriving DecidableEq, Repr

/-- A REPLAY names something parked under a cause, a form K key and a token; cause 0x35 is keyed by its token alone (R170). -/
def Replay.names (r : Replay) (cause : Nat) (key : DWord) (tok : Nat) : Bool :=
  match r with
  | .page h p => cause != 0x35 && key == BitVec.ofNat 64 (infoK h p)
  | .token n => tok == n

/-- The entries of a core that a REPLAY wakes. -/
def Core.wakeWaits (c : Core) (part : Nat) (r : Replay) : List Nat :=
  (c.waits.filter fun e => e.part == part && !e.wake && r.names e.cause e.info e.token).map (·.token)

/-- Every waiter of the woken entries of a core goes on: operations at their cursors, requests as they are (R174, R176). -/
def Core.wake (c : Core) (part : Nat) (toks : List Nat) : Core :=
  let hit (p : Nat) (x : Option Nat) : Bool := p == part && match x with
    | some n => toks.contains n
    | none => false
  let op (e : EngineOp) : EngineOp := if hit e.part e.parked then { e with parked := none } else e
  let rq (q : IslandReq) : IslandReq := if hit q.part q.parked then { q with parked := none, flagged := false } else q
  { c with
      copyQ := c.copyQ.map op
      wbQ := c.wbQ.map op
      slotA := { c.slotA with queue := c.slotA.queue.map rq }
      slotB := { c.slotB with queue := c.slotB.queue.map rq }
      waits := (c.waits.map fun e => if e.part = part ∧ toks.contains e.token then { e with wake := true } else e).filter fun e =>
        !(e.wake && e.posted) }

/-- A woken team re-executes its faulting instruction (R174). -/
def Team.wake (t : Team) (part : Nat) (r : Replay) (toks : List Nat) : Team :=
  if t.part ≠ part then t
  else
    match t.status with
    | .parked n => if toks.contains n then { t with status := .running } else t
    | .evictDue n => if r.names t.parkCause t.parkKey n then { t with status := .running } else t
    | _ => t

/-- A parked queue is named: signal kind 2, and the gondola will resume it (R55, R66). -/
def State.retryQueue (s : State) (p q : Nat) : State :=
  (s.mapQueue p q fun x => { x with retry := true }).raiseSignal 2 (p * 16 + q)

/-- A parked queue is named by a REPLAY. -/
def Queue.named (q : Queue) (r : Replay) : Bool :=
  decide (q.st = .parked) && match r with
    | .page h p => q.parkKey == some (h, p)
    | .token n => q.parkToken == n

/-- REPLAY'S WAKES (R174): entries on every core, evicted teams and parked queues of the partition. -/
def State.replay (s : State) (part : Nat) (r : Replay) : State :=
  let toks (c : Core) : List Nat := c.wakeWaits part r
  let s1 : State := { s with
    teams := s.teams.map fun t => t.wake part r (toks (s.getCore t.core))
    cores := s.cores.map fun c => c.wake part (toks c) }
  let wakeOne (d : Deferred) : Deferred := if r.names d.cause d.key d.token then { d with woken := true } else d
  let s2 := s1.mapPart part fun p => { p with deferred := p.deferred.map wakeOne }
  ((List.range 16).filter fun q => (s.getQueue part q).named r).foldl (fun (s : State) q => s.retryQueue part q) s2

/-- PARKING A QUEUE at QRD (R65, R55 QPARK, R173): its STATE and CAUSE, a token, and a KIND 3 record with the byte offset of the
failure and the cursor of a COPY. -/
def State.parkQueue (s : State) (p q : Nat) (f : QFail) (cursor : Nat) : State :=
  let (tok, s1) := s.token p
  let s2 := s1.mapQueue p q fun x =>
    { x with st := .parked, unmet := none, cause := BitVec.ofNat 8 f.cause, parkKey := if f.cause = 0x35 then none else f.key, parkToken := tok,
             retry := false }
  s2.post p { FaultRec.of f.cause 3 tok f.handle 0 0 0 (keyOf f.cause f.info) f.info 0 0 with
    qword := BitVec.ofNat 32 ((p * 16 + q) % 2 ^ 12 + f.fo % 2 ^ 16 * 2 ^ 16), cursor := BitVec.ofNat 64 cursor }

end Sys2Proof.Machine
end

