-- ==== Sys2Proof/Machine/Front.lean ====
section
/-!
DEFINITION. The command front end (R56-R70, R132, R174, R186-R188): wake words, the ring and its packets, how a packet starts and
completes, and every packet type. The gondola's firmware is not modelled instruction by instruction: an event is what the spec
says that the gondola does (log entry 29).
-/
namespace Sys2Proof.Machine

/-- Why the gondola stops at a packet: a failure that parks its queue (R65), or an uncorrectable error (R10). -/
inductive QStop where
  | fail (f : QFail)
  | ecc (pa : Nat)
  deriving DecidableEq, Repr

/-- A failure as the gondola meets it: one for a bad block is a machine check (R10, R11). -/
def QFail.halt (f : QFail) : QStop := if f.cause = 0x39 then .ecc f.info else .fail f

/-- The queue parks, or the machine check is taken. -/
def State.stopQueue (s : State) (p q : Nat) (e : QStop) (cursor : Nat) : State :=
  match e with
  | .fail f => s.parkQueue p q f cursor
  | .ecc pa => s.uncorrectable pa false

/-- A packet fails (R65). -/
def State.failQueue (s : State) (p q : Nat) (f : QFail) : State := s.stopQueue p q f.halt 0

/-- The bytes of a location (R59). -/
def State.locBytes (s : State) (part h off n : Nat) (rights : List Nat) (fo : Nat) : Except QStop (List Byte) :=
  match s.locate part h off n rights fo with
  | .error f => .error f.halt
  | .ok cs =>
    match s.chunksBad cs with
    | some a => .error (.ecc a)
    | none => .ok (s.chunkBytes cs)

/-- Ring size in bytes (R56). -/
def Queue.ringSize (q : Queue) : Nat := 4096 * 2 ^ q.size

/-- The byte offset of the first violation of R59 in a header, of R65 in its TYPE, or of R60 in its LEN. -/
def headerFail (w0 : Nat) : Option Nat :=
  let len := bits w0 28 24
  let typ := bits w0 7 0
  if bits w0 15 9 ≠ 0 then some 1
  else if bits w0 23 16 ≠ 0 then some 2
  else if bits w0 31 29 ≠ 0 ∨ len = 0 ∨ 16 < len then some 3
  else if 0x0A < typ then some 0
  else if typ ≠ 0 ∧ len ≠ (if typ = 4 then 2 else 1) then some 3
  else none

/-- The bits of a packet's bytes 4 and on that its fields use (R60); `kind` is KIND of a REPLAY. -/
def packetFields (typ kind : Nat) : Nat :=
  let loc := 0xFFFFF * 2 ^ 32 + 0xFFFFFFFFFFFF * 2 ^ 64
  let v := 0xFFFFFFFFFFFFFFFF * 2 ^ 128
  match typ with
  | 0 => 2 ^ 4096 - 1
  | 1 => loc
  | 2 => loc + v + 0x3F07 * 2 ^ 192
  | 3 => loc + v + 3 * 2 ^ 192
  | 4 => loc + 0xFFFFF * 2 ^ 128 + 0xFFFFFFFFFFFF * 2 ^ 192 + 0xFFFFFFFFFFFFFFFF * 2 ^ 256
  | 5 => 2 ^ 192 + if kind = 0 then loc else 0xFFFFFFFF * 2 ^ 128
  | 6 => loc + 0xF01 * 2 ^ 192
  | 7 => loc + v + 2 ^ 192
  | 8 => 0xFFFF * 2 ^ 192
  | 9 => loc
  | _ => loc + 0x3F01 * 2 ^ 192

/-- The first byte of a packet that must be zero and is not (R60). -/
def reservedByte (typ : Nat) (b : List Byte) : Option Nat :=
  let n := leNat b
  let allow := packetFields typ (field b 0x18 1 % 2) ||| 0xFFFFFFFF
  let bad := n - (n &&& allow)
  (List.range b.length).find? fun i => bits bad (8 * i + 7) (8 * i) != 0

/-- What the gondola finds at QRD (R57, R59, R65). -/
inductive Ring where
  /-- nothing, or a packet that is not yet published -/
  | empty
  | stop (e : QStop)
  /-- ORD, or a FENCE, and an earlier packet has not completed -/
  | held
  | packet (typ : Nat) (b : List Byte)
  deriving DecidableEq, Repr

/-- Reading the ring at QRD (R57, R59). -/
def State.ringAt (s : State) (p q : Nat) : Ring :=
  let x := s.getQueue p q
  if x.qrd = x.qwr then .empty
  else
    match s.locBytes p x.hnd (x.base + x.qrd) 4 [20] 0 with
    | .error e => .stop e
    | .ok h =>
      let w0 := leNat h
      let len := bits w0 28 24
      match headerFail w0 with
      | some fo => .stop (.fail (.ill fo))
      | none =>
        if x.ringSize < x.qrd + 32 * len then .stop (.fail (.ill 3))
        else if (x.qwr + x.ringSize - x.qrd) % x.ringSize < 32 * len then .empty
        else if (bit w0 8 || bits w0 7 0 == 8) && !x.started.isEmpty then .held
        else
          match s.locBytes p x.hnd (x.base + x.qrd) (32 * len) [20] 0 with
          | .error e => .stop e
          | .ok b =>
            match reservedByte (bits w0 7 0) b with
            | some fo => .stop (.fail (.ill fo))
            | none => .packet (bits w0 7 0) b

/-- What the gondola has read of the ring at QRD: a header, or the packet whole (R130). -/
def State.touchRing (s : State) (p q n : Nat) : State :=
  let x := s.getQueue p q
  s.touchLoc p x.hnd (x.base + x.qrd) n

/-- The gondola works for a queue (R53, R40, R43). -/
def State.works (s : State) (p q : Nat) : Bool :=
  s.boot.stat == 0 && decide (0 < p) && decide ((s.getPart p).st = .runnable) && decide (q < (s.getPart p).desc.queues) &&
    decide (q < 16)

/-- The gondola fetches a queue (R56). -/
def State.fetches (s : State) (p q : Nat) : Bool := s.works p q && (s.getQueue p q).en

/-- A parked queue that has been named resumes at its QRD (R66). -/
def State.resumeQueue (s : State) (p q : Nat) : State :=
  s.mapQueue p q fun x =>
    if x.st = .parked ∧ x.retry then
      { x with st := .running, retry := false, started := x.started.map fun k => { k with stuck := false } }
    else x

/-- QRD passes a packet that has started (R57). -/
def State.passPacket (s : State) (p q len : Nat) : State :=
  s.mapQueue p q fun x => { x with qrd := (x.qrd + 32 * len) % x.ringSize, st := .running }

/-- Fences whose waits have ended complete, one after another (R61). -/
def State.completeAll (part : Nat) : Nat → State → List Nat → State
  | 0, s, _ => s
  | n + 1, s, ids =>
    let s1 := s.mapPart part fun x => { x with queues := x.queues.map fun q =>
      { q with started := (q.started.filter fun k => !ids.contains k.id).map fun k =>
          { k with waitsFor := k.waitsFor.filter fun i => !ids.contains i } } }
    let done := (s1.getPart part).queues.flatMap fun q =>
      (q.started.filter fun k => k.typ == 8 && k.waitsFor.isEmpty).map (·.id)
    if done.isEmpty then s1 else State.completeAll part n s1 done

/-- A packet completes (R60). -/
def State.completePacket (s : State) (part id : Nat) : State := State.completeAll part 17 s [id]

/-- A packet that starts and has not completed. -/
def State.openPacket (s : State) (p q : Nat) (b : List Byte) (launch : Option Nat) (waitsFor : List Nat) : State :=
  let (id, s1) := s.fresh
  let x := s.getQueue p q
  let k : OpenPacket :=
    { id := id, typ := field b 0 1, rd := x.qrd, body := b, launch := launch, waitsFor := waitsFor, cursor := 0, stuck := false }
  (s1.mapQueue p q fun x => { x with started := x.started ++ [k] }).passPacket p q (b.length / 32)

/-- A PACKET OF TYPE `typ` AT THE HEAD OF A QUEUE (R57, R59, R65, R66): what stops the queue stops it whatever the type. Behind
an unmet WAIT nothing is fetched (R61). -/
def State.packet (s : State) (p q typ : Nat) (body : State → List Byte → State) : Out :=
  if !s.fetches p q || (decide ((s.getQueue p q).st = .parked) && !(s.getQueue p q).retry) || (s.getQueue p q).unmet.isSome then
    .next s
  else
    let s1 := s.resumeQueue p q
    match s1.ringAt p q with
    | .empty => .next (s1.mapQueue p q fun x => { x with st := .idle })
    | .held => .next (s1.touchRing p q 4)
    | .stop e => .next ((s1.touchRing p q 4).stopQueue p q e 0)
    | .packet t b => if t = typ then .next (body (s1.touchRing p q b.length) b) else .next s1

/-- The location of a packet. -/
def pktHandle (b : List Byte) : Nat := field b 4 4
def pktOff (b : List Byte) : Nat := field b 8 8
def pktValue (b : List Byte) : Nat := field b 0x10 8
def pktOp (b : List Byte) : Nat := field b 0x18 8

/-- NOP_PACKET (R60). -/
def execNopPacket (p q : Nat) (s : State) : Out := s.packet p q 0 fun s b => s.passPacket p q (b.length / 32)

/-- A word that the gondola writes (R61, R139): aligned, translated with its rights, and not another's tile. -/
def State.wordDest (s : State) (p h off : Nat) (rights : List Nat) : Except QStop Nat :=
  if off % 8 ≠ 0 then .error (.fail (.misaligned h off 8 8))
  else
    match s.locate p h off 8 rights 4 with
    | .error f => .error f.halt
    | .ok cs =>
      let foreign := match s.lookupHandle p h with
        | .ok (o, d) => s.foreignWrite p o d off 8 none
        | .error _ => false
      if foreign then .error (.fail { cause := 0x3E, info := infoA off 8, fo := 4, handle := h, key := none })
      else .ok ((cs.headD (0, 0)).1)

/-- SIGNAL (R60, R61): a release, the word, and an arrival where NTFY asks for one. `add` is OP 1. An add asks W and A of the
ceiling, the mailbox field is judged only where NTFY is 1, and the fields of the body are judged before the location (DESIGN CHOICE,
log entry 93). -/
def State.signal (s : State) (p q : Nat) (add : Bool) : Out :=
  s.packet p q 2 fun s b =>
    let w := pktOp b
    let h := pktHandle b
    let off := pktOff b
    let mbx := bits w 13 8
    if 1 < bits w 1 0 then s.failQueue p q (.ill 0x18)
    else if (bits w 1 0 == 1) != add then s
    else if bit w 2 && decide ((s.getPart p).desc.mailboxes ≤ mbx) then
      s.failQueue p q { cause := 0x4F, info := mbx, fo := 0x19, handle := 0, key := none }
    else
      match s.wordDest p h off (if add then [21, 22] else [21]) with
      | .error e => s.stopQueue p q e 0
      | .ok pa =>
        match if add then s.badIn pa 8 else none with
        | some a => s.uncorrectable a false
        | none =>
          let v := if add then s.homeNat pa 8 + pktValue b else pktValue b
          let s1 := (s.deviceWrite p h off pa (leBytes 8 v)).passPacket p q 1
          if bit w 2 then s1.arrival p mbx else s1

/-- SIGNAL_STORE (R61). -/
def execSignalStore (p q : Nat) (s : State) : Out := s.signal p q false

/-- SIGNAL_ADD (R61). -/
def execSignalAdd (p q : Nat) (s : State) : Out := s.signal p q true

/-- TIMESTAMP (R60, R61). -/
def execTimestamp (p q : Nat) (s : State) : Out :=
  s.packet p q 9 fun s b =>
    match s.wordDest p (pktHandle b) (pktOff b) [21] with
    | .error e => s.stopQueue p q e 0
    | .ok pa => (s.deviceWrite p (pktHandle b) (pktOff b) pa (leBytes 8 s.devTime.toNat)).passPacket p q 1

/-- The condition of a WAIT on its word (R60). -/
def waitMet (b : List Byte) (w : Nat) : Bool :=
  match bits (pktOp b) 1 0 with
  | 0 => decide (pktValue b ≤ w)
  | 1 => w == pktValue b
  | _ => w != pktValue b

/-- The word of a WAIT, translated afresh (R61). -/
def State.waitWord (s : State) (p : Nat) (b : List Byte) : Except QStop Nat :=
  match s.locBytes p (pktHandle b) (pktOff b) 8 [20] 4 with
  | .error e => .error e
  | .ok bs => .ok (leNat bs)

/-- The word of a WAIT has been requested at its home (R130). -/
def State.touchWait (s : State) (p : Nat) (b : List Byte) : State := s.touchLoc p (pktHandle b) (pktOff b) 8

/-- WAIT (R61): it starts where its word meets COND; else its queue waits at it, and QRD stays (R57). -/
def execWait (p q : Nat) (s : State) : Out :=
  s.packet p q 3 fun s b =>
    if bits (pktOp b) 1 0 = 3 then s.failQueue p q (.ill 0x18)
    else if pktOff b % 8 ≠ 0 then s.failQueue p q (.misaligned (pktHandle b) (pktOff b) 8 8)
    else
      let s1 := s.touchWait p b
      match s.waitWord p b with
      | .error e => s1.stopQueue p q e 0
      | .ok w => if waitMet b w then s1.passPacket p q 1 else s1.mapQueue p q fun x => { x with st := .waiting, unmet := some b }

/-- Change a packet that has started. -/
def State.mapOpen (s : State) (p q id : Nat) (f : OpenPacket → OpenPacket) : State :=
  s.mapQueue p q fun x => { x with started := x.started.map fun k => if k.id = id then f k else k }

/-- WAIT_REREAD (R61): the word of an unmet WAIT is read again, translated afresh. A failure parks the queue at the WAIT, which
is fetched again on resumption (R66). -/
def execWaitReread (p q : Nat) (s : State) : Out :=
  match (s.getQueue p q).unmet with
  | none => .next s
  | some b =>
    if !s.works p q then .next s
    else
      let s1 := s.touchWait p b
      match s.waitWord p b with
      | .error e => .next (s1.stopQueue p q e 0)
      | .ok w =>
        if waitMet b w then .next ((s1.mapQueue p q fun x => { x with unmet := none }).passPacket p q 1) else .next s1

/-- COPY_PACKET (R60): the copy starts once both ranges lie in their objects under the rights that they need. -/
def execCopyPacket (p q : Nat) (s : State) : Out :=
  s.packet p q 4 fun s b =>
    let n := field b 0x20 8
    if n = 0 ∨ 2 ^ 40 < n then s.failQueue p q (.ill 0x20)
    else
      match s.locCheck p (pktHandle b) (pktOff b) n [20] 4 with
      | .error f => s.failQueue p q f
      | .ok _ =>
        match s.locCheck p (field b 0x10 4) (field b 0x18 8) n [21] 0x10 with
        | .error f => s.failQueue p q f
        | .ok _ => s.openPacket p q b none []

/-- One byte of a COPY packet (R60, R65, R139). -/
def State.copyByte (s : State) (p : Nat) (b : List Byte) (c : Nat) : Except QStop State :=
  match s.locBytes p (pktHandle b) (pktOff b + c) 1 [20] 4 with
  | .error e => .error e
  | .ok bs =>
    let h := field b 0x10 4
    let off := field b 0x18 8 + c
    let foreign := match s.lookupHandle p h with
      | .ok (o, d) => s.foreignWrite p o d off 1 none
      | .error _ => false
    match s.locate p h off 1 [21] 0x10 with
    | .error f => .error f.halt
    | .ok cs =>
      if foreign then .error (.fail { cause := 0x3E, info := infoA off 1, fo := 0x10, handle := h, key := none })
      else .ok ((s.touchLoc p (pktHandle b) (pktOff b + c) 1).deviceWrite p h off (cs.headD (0, 0)).1 bs)

/-- A COPY from its cursor on: the state, the cursor, and what stopped it. -/
def State.copyOn (p : Nat) (b : List Byte) : Nat → State → Nat → State × Nat × Option QStop
  | 0, s, c => (s, c, none)
  | n + 1, s, c =>
    match s.copyByte p b c with
    | .error e => (s, c, some e)
    | .ok s1 => State.copyOn p b n s1 (c + 1)

/-- COPY_PACKET_COMPLETE (R60, R61, R65): the oldest COPY under way writes its bytes, and completes with a release; one that
faults stops at its cursor and parks its queue. Clearing EN does not stop one that has started (R56). -/
def execCopyPacketComplete (p q : Nat) (s : State) : Out :=
  if !s.works p q then .next s
  else
    let s1 := s.resumeQueue p q
    match (s1.getQueue p q).started.find? fun k => k.typ == 4 && !k.stuck with
    | none => .next s1
    | some k =>
      let r := State.copyOn p k.body (field k.body 0x20 8 - k.cursor) s1 k.cursor
      match r.2.2 with
      | none => .next (r.1.completePacket p k.id)
      | some (.ecc a) => .next ((r.1.mapOpen p q k.id fun k => { k with cursor := r.2.1 }).uncorrectable a false)
      | some (.fail f) =>
        .next ((r.1.mapOpen p q k.id fun k => { k with cursor := r.2.1, stuck := true }).parkQueue p q f r.2.1)

/-- A launch enters a dispatch slot (R73). -/
def State.enterSlot (s : State) (p q : Nat) (mailbox : Option Nat) (r : LaunchRec) (seq : Option Word) : Nat × State :=
  let (id, s1) := s.fresh
  let l : Launch :=
    { id := id, part := p, queue := q, mailbox := mailbox, cls := r.classOn (s.getQueue p q), prm := r, handlerSeq := seq,
      rast := none, quads := [], finished := 0, started := false, startNo := 0 }
  let s2 : State := { s1 with launches := s1.launches ++ [l] }
  match mailbox with
  | none => (id, s2.mapQueue p q fun x => { x with slot := some id })
  | some m => (id, s2.mapMailbox p m fun x => { x with slot := some id })

/-- The record that a packet names has been requested at its homes (R130). -/
def State.touchRecord (s : State) (p : Nat) (b : List Byte) (aligned : Bool) : State :=
  if aligned && pktOff b % 256 != 0 then s else s.touchLoc p (pktHandle b) (pktOff b) 256

/-- The LAUNCH of packet bytes offered for a queue whose slot is free (R64, R73, R55): it is accepted, or its record fails. -/
def State.acceptLaunch (s : State) (p q : Nat) (b : List Byte) : Except QStop State :=
  match s.validateRecord p (pktHandle b) (pktOff b) true with
  | .fail f => .error f.halt
  | .ecc a => .error (.ecc a)
  | .ok r =>
    let (id, s1) := s.enterSlot p q none r none
    .ok (s1.openPacket p q b (some id) []).settleTimers

/-- LAUNCH (R64, R55, R73): while the slot is occupied the packet waits. -/
def execLaunch (p q : Nat) (s : State) : Out :=
  s.packet p q 1 fun s b =>
    if (s.getQueue p q).slot.isSome then s
    else
      let s0 := s.touchRecord p b true
      match s0.acceptLaunch p q b with
      | .error e => s0.stopQueue p q e 0
      | .ok s1 => s1

/-- LAUNCH_COMPLETE (R60, R202, R203): every neighbourhood of the launch has ended, and with it every team and its stores. -/
def execLaunchComplete (id : Nat) (s : State) : Out :=
  match s.launch? id with
  | none => .next s
  | some l =>
    if l.finished < l.prm.gridX * l.prm.gridY then .next s
    else
      let s1 : State := { s with launches := s.launches.filter fun x => x.id != id }
      let pk := (s1.getQueue l.part l.queue).started.find? fun k => k.launch == some id
      let s2 := match pk with
        | some k => s1.completePacket l.part k.id
        | none => s1
      match l.rast with
      | some (req, uid, tag) => .next (s2.isendTag req uid tag)
      | none => .next s2

/-- REPLAY_BY_PAGE (R174): a handle that does not translate names nothing. -/
def execReplayByPage (p q : Nat) (s : State) : Out :=
  s.packet p q 5 fun s b =>
    if bit (pktOp b) 0 then s
    else
      let s1 := match s.lookupHandle p (pktHandle b) with
        | .error _ => s
        | .ok (_, d) => if ODesc.ok d then s.replay p (.page (pktHandle b) (pktOff b / 2 ^ ODesc.pageShift d)) else s
      s.unlessBad (s.walkBad p (pktHandle b)) (s1.passPacket p q 1)

/-- REPLAY_BY_TOKEN (R174). -/
def execReplayByToken (p q : Nat) (s : State) : Out :=
  s.packet p q 5 fun s b => if bit (pktOp b) 0 then (s.replay p (.token (field b 0x10 4))).passPacket p q 1 else s

/-- A rule of R186 fails in a header of 192 bytes. -/
def envelopeBad (h : List Byte) : Bool :=
  let cls := field h 4 1
  field h 0 4 != 0x4B393645 || decide (cls < 1) || decide (6 < cls) || field h 5 1 != 1 ||
    (decide (cls ≤ 5) && field h 7 1 != 1) || decide (field h 8 4 < 4) || decide (98304 < field h 8 4) || field h 8 4 % 4 != 0 ||
    decide (128 < field h 0xC 2) || field h 0xC 2 % 4 != 0 || decide (24 < field h 0xE 1) || field h 0xF 1 != 0 ||
    field h 0x10 4 == 0 || decide (2 ^ 24 < field h 0x10 4) || field h 0x14 12 != 0

/-- The signer, the digest and the signature of an image (R49, R187). -/
def envelopeSigned (hkh : BitVec 512) (img : List Byte) : Bool :=
  let key := (img.drop 0x20).take 32
  let keyOk :=
    if field img 4 1 = 6 then hkh != 0 && packBytes 512 (sha512 key) == hkh else packBytes 256 key == Config.envelopeKey
  keyOk && sha512 (img.take 0x40 ++ img.drop 0xC0) == (img.drop 0x40).take 64 &&
    edVerify key (img.take 0x80) ((img.drop 0x80).take 64)

/-- A digest is named by some envelope map (R50). -/
def State.digestNamed (s : State) (dg : BitVec 512) : Bool :=
  (List.range 129).any fun p => decide (0 < p) && decide ((s.getPart p).st ≠ .free) && (List.range 16).any fun e =>
    s.envState p e != 0 && s.envDigest p e == dg

/-- The free pages of the envelope store, in ascending order (R50). -/
def State.freePages (s : State) : List Nat := (List.range s.envLen).filter fun i => !(s.kept.any fun k => k.pages.contains i)

/-- The image in the store, kept once (R50): its first page, or none where too few pages are free. Which free pages are taken is
log entry 13. -/
def State.keepImage (s : State) (dg : BitVec 512) (img : List Byte) : Option (Nat × State) :=
  match s.kept.find? fun k => k.digest == dg with
  | some k => some (k.pages.headD 0, s)
  | none =>
    let n := ceilDiv img.length 4096
    let ps := s.freePages.take n
    if ps.length < n then none
    else
      let put (s : State) (x : Nat × Nat) : State := s.tableWrite (s.envBase + 4096 * x.2) ((img.drop (4096 * x.1)).take 4096)
      some (ps.headD 0, { (mapAt (fun i p => (i, p)) 0 ps).foldl put s with kept := s.kept ++ [{ digest := dg, pages := ps }] })

/-- Entry e of a partition's envelope map is written for a verified image (R62, R188), with its flight-log entry (R31). -/
def State.mapEnvelope (s : State) (p e page : Nat) (img : List Byte) : State :=
  let dg := (img.drop 0x40).take 64
  let entry : List Byte :=
    [1, BitVec.ofNat 8 (field img 4 1)] ++ (img.drop 6).take 2 ++ (img.drop 0x10).take 4 ++ leBytes 8 (4096 * page) ++
      List.replicate 48 0 ++ dg
  (s.tableWrite ((s.getPart p).desc.emBase + 128 * e) entry).flight 0x06 0x02 p (e + field img 4 1 * 2 ^ 4 + leNat (dg.take 6) * 2 ^ 8)

/-- A verified image of a load (R62, R50): the same digest changes nothing, another one or a full store is refused. -/
def State.loadEnvelope (s : State) (p e : Nat) (img : List Byte) : Except QFail State :=
  let dg := packBytes 512 ((img.drop 0x40).take 64)
  let refuse (limit : Nat) : QFail := { cause := 0x53, info := limit, fo := 0x18, handle := 0, key := none }
  if s.envState p e ≠ 0 then if s.envDigest p e = dg then .ok s else .error (refuse 16)
  else
    match s.keepImage dg img with
    | none => .error (refuse s.envLen)
    | some (page, s1) => .ok (s1.mapEnvelope p e page img)

/-- ENVELOPE_LOAD (R62, R187, R49, R50). -/
def execEnvelopeLoad (p q : Nat) (s : State) : Out :=
  s.packet p q 6 fun s b =>
    let h := pktHandle b
    let off := pktOff b
    let e := bits (pktOp b) 11 8
    let sig : QFail := { cause := 0x56, info := e, fo := 0x18, handle := 0, key := none }
    if bit (pktOp b) 0 then s
    else if off % 4096 ≠ 0 then s.failQueue p q (.misaligned h off 4096 8)
    else
      let s0 := s.touchLoc p h off 192
      match s0.locBytes p h off 192 [20] 4 with
      | .error x => s0.stopQueue p q x 0
      | .ok hd =>
        if envelopeBad hd then s0.failQueue p q sig
        else
          let s1 := s0.touchLoc p h off (192 + field hd 8 4)
          match s1.locBytes p h off (192 + field hd 8 4) [20] 4 with
          | .error x => s1.stopQueue p q x 0
          | .ok img =>
            if !envelopeSigned s.fuses.hkh img then s1.failQueue p q sig
            else if let some a := s1.mapBad p then s1.uncorrectable a false
            else
              match s1.loadEnvelope p e img with
              | .error f => s1.failQueue p q f
              | .ok s2 => s2.passPacket p q 1

/-- ENVELOPE_DROP (R62, R188): the entry is drop pending; an empty one has nothing to wait for. Its location names nothing and is not
checked (DESIGN CHOICE, log entry 93). -/
def execEnvelopeDrop (p q : Nat) (s : State) : Out :=
  s.packet p q 6 fun s b =>
    let e := bits (pktOp b) 11 8
    if !bit (pktOp b) 0 then s
    else if let some a := s.mapBad p then s.uncorrectable a false
    else if s.envState p e = 0 then s.passPacket p q 1
    else (s.tableWrite ((s.getPart p).desc.emBase + 128 * e) [2]).openPacket p q b none []

/-- Images that no map names are freed (R50). -/
def State.freeImages (s : State) : State := { s with kept := s.kept.filter fun k => s.digestNamed k.digest }

/-- An envelope map entry is emptied (R62). -/
def State.emptyEntry (s : State) (p e : Nat) : State :=
  (s.tableWrite ((s.getPart p).desc.emBase + 128 * e) (List.replicate 128 0)).freeImages

/-- A launch of the partition that has not completed requires a map entry (R62). -/
def State.entryRequired (s : State) (p e : Nat) : Bool :=
  s.launches.any fun l => l.part == p && (l.prm.required 0 == some e || l.prm.required 1 == some e)

/-- ENVELOPE_DROP_COMPLETE (R62). -/
def execEnvelopeDropComplete (p q : Nat) (s : State) : Out :=
  match (s.getQueue p q).started.find? fun k => k.typ == 6 && !s.entryRequired p (bits (pktOp k.body) 11 8) with
  | none => .next s
  | some k => .next (s.unlessBad s.mapsBad ((s.emptyEntry p (bits (pktOp k.body) 11 8)).completePacket p k.id))

/-- The pinned pages of a partition, in 64 KiB units (R131). -/
def Partition.pinUsed (p : Partition) : Nat := (p.pinned.map (·.n)).sum

/-- The checks that PIN and unpin share (R60, R132): the object and its range. -/
def State.pinRange (s : State) (p : Nat) (b : List Byte) : Except QFail (List PinRange) :=
  let h := pktHandle b
  let off := pktOff b
  let n := pktValue b
  if off % 2 ^ 16 ≠ 0 then .error (.misaligned h off (2 ^ 16) 8)
  else if n % 2 ^ 16 ≠ 0 then .error (.ill 0x10)
  else
    match s.locCheck p h off n [20] 4 with
    | .error f => .error f
    | .ok d =>
      if !ODesc.pinok d then
        .error { cause := 0x29, info := infoA off (Config.openWord 0x29 [h]).toNat, fo := 4, handle := h, key := none }
      else
        match s.lookupHandle p h with
        | .error c => .error { cause := c, info := infoA off n, fo := 4, handle := h, key := none }
        | .ok (o, _) => .ok ((List.range (n / 2 ^ 16)).map fun i => { obj := o, page := off / 2 ^ 16 + i, n := 1 })

/-- The lines of a range of 64 KiB pages of an object: those of its present pages, each with the SCLASS of its frame entry. -/
def State.pinLines (s : State) (p h off n : Nat) : List (Nat × Nat) :=
  (List.range (n / 2 ^ 16)).flatMap fun i =>
    match s.translate p h (off + 2 ^ 16 * i) (2 ^ 16) [20] 0x34 with
    | .error _ => []
    | .ok x => (List.range 512).map fun j => (x.pa / 128 + j, s.sclass p h (off + 2 ^ 16 * i))

/-- PIN (R132): every line of the range is resident in the partition's shelves, and pinned. -/
def execPin (p q : Nat) (s : State) : Out :=
  s.packet p q 7 fun s b =>
    if bit (pktOp b) 0 then s
    else
      match s.pinRange p b with
      | .error f => s.failQueue p q f
      | .ok rs =>
        let present := if pktValue b = 0 then .ok [] else s.locate p (pktHandle b) (pktOff b) (pktValue b) [20] 4
        match present with
        | .error f => s.failQueue p q f
        | .ok cs =>
          let x := s.getPart p
          let new := rs.filter fun r => !x.pinned.contains r
          if x.desc.pinq * 16 < x.pinUsed + new.length then
            s.failQueue p q { cause := 0x3B, info := pktValue b / 2 ^ 16, fo := 0x10, handle := pktHandle b, key := none }
          else
            match s.chunksBad cs with
            | some a => s.uncorrectable a false
            | none =>
              let s1 := (s.pinLines p (pktHandle b) (pktOff b) (pktValue b)).foldl (fun s l => s.stackAlloc p l.1 l.2 true) s
              (s1.mapPart p fun x => { x with pinned := x.pinned ++ new }).passPacket p q 1

/-- UNPIN (R132): pinned lines of the range are written back, and return to their class. -/
def execUnpin (p q : Nat) (s : State) : Out :=
  s.packet p q 7 fun s b =>
    if !bit (pktOp b) 0 then s
    else
      match s.pinRange p b with
      | .error f => s.failQueue p q f
      | .ok rs =>
        let s1 := (s.pinLines p (pktHandle b) (pktOff b) (pktValue b)).foldl (fun s l => s.unpinLine p l.1) s
        (s1.mapPart p fun x => { x with pinned := x.pinned.filter fun r => !rs.contains r }).passPacket p q 1

/-- FENCE (R61): it starts once every earlier packet of its queue has completed, and waits for those that the masked queues
had started. -/
def execFencePacket (p q : Nat) (s : State) : Out :=
  s.packet p q 8 fun s b =>
    let ids := ((List.range 16).filter fun i => bit (pktOp b) i).flatMap fun i => (s.getQueue p i).started.map (·.id)
    if ids.isEmpty then s.passPacket p q 1 else s.openPacket p q b none ids

/-- The mailbox table entry of a binding (R67). -/
def tetherEntry (q h off : Nat) : List Byte := leBytes 32 (1 + h % 2 ^ 20 * 2 ^ 24 + off % 2 ^ 48 * 2 ^ 64 + q % 16 * 2 ^ 128)

/-- A TETHER names its mailbox (R65). -/
def State.tetherMailbox (s : State) (p : Nat) (b : List Byte) : Except QFail Nat :=
  let m := bits (pktOp b) 13 8
  if (s.getPart p).desc.mailboxes ≤ m then .error { cause := 0x4F, info := m, fo := 0x19, handle := 0, key := none } else .ok m

/-- TETHER_BIND (R68, R67): the record as a LAUNCH's, with one neighbourhood; it is copied. No alignment is asked of its
location (R60). The mailbox is judged before the location (DESIGN CHOICE, log entry 93). -/
def execTetherBind (p q : Nat) (s : State) : Out :=
  s.packet p q 10 fun s b =>
    if bit (pktOp b) 0 then s
    else
      match s.tetherMailbox p b with
      | .error f => s.failQueue p q f
      | .ok m =>
        let s := s.touchRecord p b false
        match s.validateRecord p (pktHandle b) (pktOff b) false with
        | .fail f => s.failQueue p q f
        | .ecc a => s.uncorrectable a false
        | .ok r =>
          if r.gridX ≠ 1 then s.failQueue p q (.ill 0x18)
          else if r.gridY ≠ 1 then s.failQueue p q (.ill 0x1A)
          else
            ((s.tableWrite ((s.getPart p).desc.mbxBase + 32 * m) (tetherEntry q (pktHandle b) (pktOff b))).mapMailbox p m
              fun x => { x with binding := some (r, q), seq := 0 }).passPacket p q 1

/-- TETHER_UNBIND (R68). Its location names nothing and is not checked (DESIGN CHOICE, log entry 93). -/
def execTetherUnbind (p q : Nat) (s : State) : Out :=
  s.packet p q 10 fun s b =>
    if !bit (pktOp b) 0 then s
    else
      match s.tetherMailbox p b with
      | .error f => s.failQueue p q f
      | .ok m =>
        let a := (s.getPart p).desc.mbxBase + 32 * m
        s.unlessBad (s.badIn a 32)
          (((s.tableWrite a [s.homeByte a &&& 0xFE]).mapMailbox p m fun x => { x with binding := none }).passPacket p q 1)

/-- MAILBOX_HANDLER_LAUNCH (R69): a bound mailbox with arrivals and a free slot; the accepted launch takes one arrival and the
next sequence number. -/
def execMailboxHandlerLaunch (p m : Nat) (s : State) : Out :=
  match (s.getPart p).mailboxes[m]? with
  | none => .next s
  | some x =>
    match x.binding with
    | none => .next s
    | some (r, q) =>
      if s.boot.stat ≠ 0 ∨ (s.getPart p).st ≠ .runnable ∨ x.count = 0 ∨ x.slot.isSome then .next s
      else
        let (_, s1) := s.enterSlot p q (some m) r (some x.seq)
        .next (s1.mapMailbox p m fun x => { x with count := x.count - 1, seq := x.seq + 1 }).settleTimers

end Sys2Proof.Machine
end

