-- ==== Sys2Proof/Machine/Gondola.lean ====
section
/-!
DEFINITION. The Xgnd instructions (R53-R55), the wake words of the notify page (R56, R57, R66, R69, R70), and the gondola's timer.
-/
namespace Sys2Proof.Machine

/-- What an Xgnd instruction does: it completes with a value for rd, raises an exception with mcause and mtval, or waits. -/
inductive GRes where
  | ok (s : State) (v : Word)
  | trap (s : State) (mcause : Nat) (mtval : Word)
  | stay (s : State)
  deriving DecidableEq, Repr

/-- A gondola register; x0 reads as zero (R54). -/
def GCore.reg (g : GCore) (r : BitVec 5) : Word := if r = 0 then 0 else g.x[r.toNat]?.getD 0

/-- A write to a gondola register; one to x0 is discarded (R54). -/
def GCore.setReg (g : GCore) (r : BitVec 5) (v : Word) : GCore :=
  if r = 0 then g else { g with x := modifyAt g.x r.toNat fun _ => v }

/-- THE FRAME OF AN XGND INSTRUCTION (R54, R55): the core's registers in, rd and the next pc out. -/
def State.xgnd (s : State) (rd : BitVec 5) (body : GCore → GRes) : Out :=
  match s.gcores[s.gcur]? with
  | none => .fault .noGondolaCore
  | some g =>
    match body g with
    | .ok s1 v => .next { s1 with gcores := modifyAt s1.gcores s.gcur fun g => { g.setReg rd v with pc := g.pc + 4 } }
    | .trap s1 c v => .next (s1.gondolaTrap s.gcur (BitVec.ofNat 32 c) v)
    | .stay s1 => .next s1

/-- A queue index: partition and queue (R55). -/
def qiPart (x : Word) : Nat := bits x.toNat 11 0 / 16
def qiQueue (x : Word) : Nat := bits x.toNat 11 0 % 16
def qiWord (x : Word) : Word := BitVec.ofNat 32 (bits x.toNat 11 0)

/-- A queue of a client partition that its page has (R33, R56). -/
def State.queueExists (s : State) (p q : Nat) : Bool :=
  decide (0 < p) && decide (p ≤ 128) && decide (q < (s.getPart p).desc.queues) && decide (q < 16)

/-- A queue that a gondola core serves (R53) and that is enabled. -/
def State.served (s : State) (core p q : Nat) : Bool := s.queueExists p q && p % 4 == core && (s.getQueue p q).en

/-- The packet at QRD as RFETCH reads it (R55, R57): none where there is none, or it is not published to its end. -/
def State.fetchPacket (s : State) (p q : Nat) : Except QStop (Option (List Byte)) :=
  let x := s.getQueue p q
  if x.qrd = x.qwr then .ok none
  else
    match s.locBytes p x.hnd (x.base + x.qrd) 4 [20] 0 with
    | .error e => .error e
    | .ok h =>
      let n := 32 * min 16 (bits (leNat h) 28 24)
      if (x.qwr + x.ringSize - x.qrd) % x.ringSize < n then .ok none
      else
        match s.locBytes p x.hnd (x.base + x.qrd) (max 4 n) [20] 0 with
        | .error e => .error e
        | .ok b => .ok (some b)

/-- RFETCH (R55). -/
def execRfetch (rd rs : BitVec 5) (s : State) : Out :=
  s.xgnd rd fun g =>
    let x := g.reg rs
    let p := qiPart x
    let q := qiQueue x
    if !s.served s.gcur p q then .trap s 28 (qiWord x)
    else
      let seen (n : Nat) : State := if (s.getQueue p q).qrd = (s.getQueue p q).qwr then s else s.touchRing p q n
      match s.fetchPacket p q with
      | .error (.fail f) => .trap (seen 4) 24 (BitVec.ofNat 32 (f.cause % 2 ^ 8 * 2 ^ 16) ||| qiWord x)
      | .error (.ecc a) => .stay (s.uncorrectable a false)
      | .ok none => .ok (seen 4) 0
      | .ok (some b) =>
        let s := seen b.length
        let n := 32 * min 16 (bits (leNat (b.take 4)) 28 24)
        let put (c : GCore) : GCore := { c with buf := b.take n ++ c.buf.drop n }
        .ok { s with gcores := modifyAt s.gcores s.gcur put } (BitVec.ofNat 32 (leNat (b.take 4)))

/-- BFX (R55). -/
def execBfx (rd rs pos len1 : BitVec 5) (s : State) : Out :=
  s.xgnd rd fun g =>
    let len := len1.toNat + 1
    if 32 < pos.toNat + len then .trap s 25 ((encodeXgnd (.bfx rd rs pos len1)).getD 0)
    else .ok s (BitVec.ofNat 32 ((g.reg rs).toNat / 2 ^ pos.toNat % 2 ^ len))

/-- A signal source that a gondola core takes: those of the partitions that it serves, and its own timer (R53, R55). -/
def signalOf (core : Nat) (x : Nat × Nat) : Bool :=
  if x.1 = 4 then x.2 == core else if x.1 = 1 then x.2 / 64 % 4 == core else x.2 / 16 % 4 == core

/-- The lowest pending source of the selected kinds (R55). -/
def State.lowestSignal (s : State) (core mask : Nat) : Option (Nat × Nat) :=
  (s.signals.filter fun x => bit mask x.1 && signalOf core x).foldl (fun m x =>
    match m with
    | none => some x
    | some y => if x.1 * 2 ^ 16 + x.2 < y.1 * 2 ^ 16 + y.2 then some x else some y) none

/-- SIGW (R55): it waits where no source of its kinds is pending. -/
def execSigw (rd rs : BitVec 5) (s : State) : Out :=
  s.xgnd rd fun g =>
    let mask := bits (g.reg rs).toNat 4 0
    if mask = 0 then .trap s 26 (Config.openWord 26 [])
    else
      match s.lowestSignal s.gcur mask with
      | none => .stay s
      | some x => .ok { s with signals := s.signals.filter fun y => y != x } (BitVec.ofNat 32 (x.1 * 2 ^ 16 + x.2 % 2 ^ 16))

/-- DSPT (R55, R64, R73): the LAUNCH in the packet buffer is accepted, or the slot is occupied. Where the record fails R64 the
queue parks as R65 says, and the value of rd is not stated (log entry 29). -/
def execDspt (rd rs : BitVec 5) (s : State) : Out :=
  s.xgnd rd fun g =>
    let x := g.reg rs
    let p := qiPart x
    let q := qiQueue x
    let typ := field g.buf 0 1
    if typ ≠ 1 then .trap s 27 (BitVec.ofNat 32 typ)
    else if !s.queueExists p q then .trap s 28 (qiWord x)
    else if (s.getQueue p q).slot.isSome then .ok s 1
    else
      let s0 := s.touchRecord p (g.buf.take 32) true
      match s0.acceptLaunch p q (g.buf.take 32) with
      | .ok s1 => .ok s1 0
      | .error e => .ok (s0.stopQueue p q e 0) (Config.openWord 27 [x.toNat])

/-- QPARK (R55). -/
def execQpark (rs rt : BitVec 5) (s : State) : Out :=
  s.xgnd 0 fun g =>
    let x := g.reg rs
    let p := qiPart x
    let q := qiQueue x
    if !s.queueExists p q then .trap s 28 (qiWord x)
    else .ok (s.parkQueue p q { cause := bits (g.reg rt).toNat 7 0, info := 0, fo := 0, handle := 0, key := none } 0) 0

/-- QWAKE (R55). -/
def execQwake (rs : BitVec 5) (s : State) : Out :=
  s.xgnd 0 fun g =>
    let x := g.reg rs
    let p := qiPart x
    let q := qiQueue x
    if !s.queueExists p q || decide ((s.getQueue p q).st ≠ .parked) then .trap s 29 (Config.openWord 29 [x.toNat])
    else
      .ok ((s.mapQueue p q fun y =>
        { y with st := .running, retry := false, started := y.started.map fun k => { k with stuck := false } }).raiseSignal 0
          (p * 16 + q)) 0

/-- A wake that the page delivers only for a RUNNABLE partition (R40). -/
def State.pageWake (s : State) (p q : Nat) : State := if (s.getPart p).st = .runnable then s.wakeQueue p q else s

/-- A write to QWR (R57, R70). -/
def State.writeQwr (s : State) (p q : Nat) (v : Nat) : State :=
  let x := s.getQueue p q
  if v % 32 ≠ 0 ∨ x.ringSize ≤ v ∨ !x.en then s.mapQueue p q fun x => { x with badwr := true }
  else (s.mapQueue p q fun x => { x with qwr := v }).pageWake p q

/-- QWR_WRITE (R56, R57). The index is bits [19:0]; what lies above them is not written. -/
def execQwrWrite (p q : Nat) (value : DWord) (s : State) : Out :=
  if s.queueExists p q then .next (s.writeQwr p q (bits value.toNat 19 0)) else .next s

/-- A write to QRETRY (R56, R66), which wakes a parked queue; while the aperture is gated it sets the pending bit whatever the
queue's state (R70). -/
def State.writeQretry (s : State) (p q : Nat) : State :=
  let parked : Bool := decide ((s.getQueue p q).st = .parked)
  if (s.getPart p).st ≠ .runnable ∨ !(parked || s.apertureGated) then s
  else (if parked then s.mapQueue p q fun x => { x with retry := true } else s).wakeQueue p q

/-- QRETRY_WRITE (R66). -/
def execQretryWrite (p q : Nat) (s : State) : Out := if s.queueExists p q then .next (s.writeQretry p q) else .next s

/-- A write to QCTL (R56, R66): EN, SIZE and HND of the word. Clearing EN lets a WAIT in progress go on until it starts; setting
it empties the queue. A stopped COPY that clearing EN discards never completes, so that a FENCE which waits for it waits on (DESIGN
CHOICE, log entry 94). -/
def State.writeQctl (s : State) (p q : Nat) (en : Bool) (size hnd : Nat) : State :=
  if 8 < size then s
  else
    s.mapQueue p q fun x =>
      if x.en then
        if en then x
        else
          { x with en := false, retry := false, st := if x.st = .parked then .idle else x.st,
                   started := x.started.filter fun k => !k.stuck }
      else
        let y := { x with size := size, hnd := hnd }
        if en then
          { y with en := true, qrd := 0, qwr := 0, badwr := false, unmet := none, st := if y.unmet.isSome then .idle else y.st }
        else y

/-- QCTL_WRITE (R56). -/
def execQctlWrite (p q : Nat) (value : DWord) (s : State) : Out :=
  if s.queueExists p q then
    .next (s.writeQctl p q (value.getLsbD 63) (bits value.toNat 55 52) (bits value.toNat 19 0))
  else .next s

/-- A write to QBASE (R56). -/
def State.writeQbase (s : State) (p q : Nat) (v : Nat) : State :=
  if (s.getQueue p q).en ∨ v % 4096 ≠ 0 ∨ v / 2 ^ 48 ≠ 0 then s else s.mapQueue p q fun x => { x with base := v }

/-- MBOX_WRITE (R69). -/
def execMboxWrite (p m : Nat) (s : State) : Out := .next (s.arrival p m)

/-- STATE as QSTAT shows it (R56, R61). -/
def Queue.state (q : Queue) : Nat :=
  if q.st = .parked then 3
  else if q.unmet.isSome then 2
  else if q.st = .running ∨ q.st = .waiting ∨ (q.en ∧ (q.qrd ≠ q.qwr ∨ !q.started.isEmpty)) then 1
  else 0

/-- QSTAT (R56). -/
def Queue.stat (q : Queue) : Nat := q.state + q.cause.toNat * 2 ^ 8 + b2n q.pend * 2 ^ 16 + b2n q.badwr * 2 ^ 17

/-- QCTL (R56). -/
def Queue.ctl (q : Queue) : Nat := q.hnd % 2 ^ 20 + q.size * 2 ^ 52 + b2n q.en * 2 ^ 63

/-- APERTURE_WAKE (R70): each set pending bit becomes a signal and clears. -/
def execApertureWake (s : State) : Out :=
  if !s.apertureGated then .next s
  else
    let s1 : State := { s with apertureGated := false }
    .next ((List.range 129).foldl (fun (s : State) p =>
      let x := s.getPart p
      let s1 := ((List.range 16).filter fun q => (s.getQueue p q).pend).foldl (fun (s : State) q =>
        (s.mapQueue p q fun y => { y with pend := false }).raiseSignal 0 (p * 16 + q)) s
      ((List.range x.mailboxes.length).filter fun m => ((x.mailboxes[m]?).map (·.pend)).getD false).foldl (fun (s : State) m =>
        (s.mapMailbox p m fun y => { y with pend := false }).raiseSignal 1 (p * 64 + m)) s1) s1)

/-- GONDOLA_TIMER (R55). -/
def execGondolaTimer (core : Nat) (s : State) : Out := if core < 4 then .next (s.raiseSignal 4 core) else .next s

end Sys2Proof.Machine
end

