-- ==== Sys2Proof/Machine/Tables.lean ====
section
/-!
DEFINITION. Partition descriptors and the table port (R33, R36-R40): the order of its checks, every command, the clean-up of a
partition, and the attestation report (R47, R48).
-/
namespace Sys2Proof.Machine

/-- STATE of a descriptor (R33). -/
def PState.code : PState → Nat
  | .free => 0 | .configured => 1 | .runnable => 2 | .stopped => 3 | .resetting => 4

/-- A descriptor as its 1,024 bits (R33), with the values of STATE and GUSED that it shows. -/
def Desc.nat (d : Desc) (st gused : Nat) : Nat :=
  let a (i : Nat) : Nat := (d.allot[i]?.getD 0) % 2 ^ 16
  st + d.mailboxes * 2 ^ 8 + d.queues * 2 ^ 16 + d.streams * 2 ^ 21 + d.pinq * 2 ^ 24 + d.gQuota * 2 ^ 32 + d.htBase * 2 ^ 64 +
    d.htLen * 2 ^ 104 + d.otBase * 2 ^ 128 + d.otLen * 2 ^ 168 + d.fqBase * 2 ^ 192 + d.fqLen * 2 ^ 232 + a 0 * 2 ^ 256 +
    a 1 * 2 ^ 272 + a 2 * 2 ^ 288 + a 3 * 2 ^ 304 + d.emBase * 2 ^ 320 + d.shelf.toNat * 2 ^ 384 + d.mbxBase * 2 ^ 576 +
    gused * 2 ^ 640

/-- A descriptor of its bits: the writable fields. Bit 0 of an ALLOTk is kept as written and no check of ACTIVATE tests it (DESIGN
CHOICE, log entry 91). -/
def descOf (n : Nat) : Desc :=
  { mailboxes := bits n 14 8, queues := bits n 20 16, streams := bits n 23 21, pinq := bits n 31 24, gQuota := bits n 63 32,
    htBase := bits n 103 64, htLen := bits n 123 104, otBase := bits n 167 128, otLen := bits n 187 168,
    fqBase := bits n 231 192, fqLen := bits n 247 232,
    allot := [bits n 271 256, bits n 287 272, bits n 303 288, bits n 319 304], emBase := bits n 359 320,
    shelf := BitVec.ofNat 192 (bits n 575 384), mbxBase := bits n 615 576 }

/-- A 64-bit word of a descriptor as it reads (R33). -/
def Partition.descWord (p : Partition) (w : Nat) : Nat := p.desc.nat p.st.code p.gused / 2 ^ (64 * w) % 2 ^ 64

/-- A write of one 64-bit word of a descriptor (R33): in FREE and CONFIGURED only, and never to descriptor 0. A base with bits below
its 4 KiB alignment is kept as written (DESIGN CHOICE, log entry 91). -/
def State.writeDesc (s : State) (p w v : Nat) : State :=
  if p = 0 ∨ ((s.getPart p).st ≠ .free ∧ (s.getPart p).st ≠ .configured) then s
  else
    s.mapPart p fun x =>
      let n := x.desc.nat 0 0
      { x with desc := descOf (n - n / 2 ^ (64 * w) % 2 ^ 64 * 2 ^ (64 * w) + v % 2 ^ 64 * 2 ^ (64 * w)) }

/-- The end of a command (R36, R40): BUSY clears with a result, and a partition that a kill-class fault hit meanwhile stops,
whatever the command made of it. -/
def State.endCmd (s : State) (p result : Nat) : State :=
  let hit := s.tbl.stops.contains p
  let s1 : State := { s with tbl := { s.tbl with
    cmd := none, result := BitVec.ofNat 8 result, stops := s.tbl.stops.filter fun q => q != p } }
  if hit ∧ (s1.getPart p).st ≠ .free then s1.stopPart p else s1

/-- What a command answers: its new state, a failing result, or not yet. -/
inductive CmdRes where
  | done (s : State)
  | fail (result : Nat)
  | wait (s : State)
  deriving DecidableEq, Repr

/-- A COMMAND OF THE TABLE PORT (R36, R37): it runs when TBL.CMD holds its code. `legal` lists the states in which it may run.
It reads TBL.ARG0 and TBL.ARG1 as they stand when it runs (DESIGN CHOICE, log entry 82). -/
def State.command (s : State) (code : Nat) (legal : List PState) (body : State → Nat → CmdRes) : Out :=
  match s.tbl.cmd with
  | none => .next s
  | some c =>
    let n := c.toNat
    let p := bits n 55 48
    if s.boot.stat ≠ 0 ∨ bits n 63 56 ≠ code then .next s
    else if p = 0 ∨ 128 < p then .next (s.endCmd p 0x02)
    else if !legal.contains (s.getPart p).st then .next (s.endCmd p 0x01)
    else if bits n 47 0 ≠ 0 then .next (s.endCmd p 0x03)
    else
      match body s p with
      | .done s1 => .next (s1.endCmd p 0)
      | .fail r => .next (s.endCmd p r)
      | .wait s1 => .next s1

/-- A command that reads tables of partition 0: a bad block among them is a machine check, and the command has no other effect (R10,
R11). -/
def State.tableRead (s : State) (bad : Option Nat) (r : CmdRes) : CmdRes :=
  match bad with
  | some a => .wait (s.uncorrectable a false)
  | none => r

/-- Command codes (R37). -/
def commandCodes : List Nat := [0x01, 0x02, 0x03, 0x04, 0x05, 0x10, 0x11, 0x12, 0x13, 0x20]

/-- A write to TBL.CMD (R36): discarded with DROP while BUSY; an unassigned code ends at once. -/
def State.writeCmd (s : State) (v : DWord) : State :=
  if s.tbl.cmd.isSome then { s with tbl := { s.tbl with drop := true } }
  else if commandCodes.contains (bits v.toNat 63 56) then { s with tbl := { s.tbl with cmd := some v } }
  else { s with tbl := { s.tbl with result := 2 } }

/-- TBL.STAT (R36). While BUSY is 1, bits [7:0] read 0 (DESIGN CHOICE, log entry 82). -/
def TablePort.stat (t : TablePort) : Nat :=
  b2n t.cmd.isSome * 2 ^ 63 + b2n t.drop * 2 ^ 62 + if t.cmd.isSome then 0 else t.result.toNat

/-- TBL_STAT_READ (R36): the read clears DROP. -/
def execTblStatRead (s : State) : Out :=
  .next { s with busRead := BitVec.ofNat 64 s.tbl.stat, busFault := false, tbl := { s.tbl with drop := false } }

/-- CLAIM (R37). -/
def execClaim (s : State) : Out :=
  s.command 0x01 [.free] fun s p => .done (s.mapPart p fun x => { x with desc := Desc.reset, gused := 0, st := .configured })

/-- RELEASE (R37). -/
def execRelease (s : State) : Out :=
  s.command 0x05 [.configured] fun s p => .done (s.mapPart p fun x => { x with desc := Desc.reset, gused := 0, st := .free })

/-- The valid rectangles of a descriptor (R33). -/
def Desc.rects (d : Desc) : List (Nat × Nat × Nat × Nat) := d.allot.filterMap allotRect

/-- Two rectangles have a core in common. -/
def rectsMeet (a b : Nat × Nat × Nat × Nat) : Bool :=
  decide (a.1 < b.1 + b.2.2.1) && decide (b.1 < a.1 + a.2.2.1) && decide (a.2.1 < b.2.1 + b.2.2.2) &&
    decide (b.2.1 < a.2.1 + a.2.2.2)

/-- No two rectangles of a list meet. -/
def disjointRects : List (Nat × Nat × Nat × Nat) → Bool
  | [] => true
  | r :: rs => !(rs.any (rectsMeet r)) && disjointRects rs

/-- The shelves of the ballast store (R131). -/
def State.ballastShelves (s : State) : Nat := (2 ^ s.ballast - 1) * 2 ^ (192 - s.ballast)

/-- The conditions of R38. -/
def State.activates (s : State) (p : Nat) : Bool :=
  let x := s.getPart p
  let d := x.desc
  let others := (List.range 129).filter fun q => q != p && q != 0
  let shelf := d.shelf.toNat
  let shelves := ((List.range 192).filter fun i => bit shelf i).length
  let apart (a b la lb : Nat) : Bool := decide (a + la ≤ b) || decide (b + lb ≤ a)
  (d.rects.all fun r => decide (r.1 + r.2.2.1 ≤ 12) && decide (r.2.1 + r.2.2.2 ≤ 8)) && disjointRects d.rects &&
  (others.all fun q => shelf &&& (s.getPart q).desc.shelf.toNat == 0) && shelf &&& s.ballastShelves == 0 &&
  decide (d.pinq ≤ shelves) && decide (d.queues ≤ 16) && decide (d.mailboxes ≤ 64) && decide (d.streams ≤ 4) &&
  d.htLen != 0 && d.otLen != 0 && decide (64 ≤ d.fqLen) &&
  (x.balLen == 0 || (decide (x.balBase + x.balLen ≤ s.ballast) && others.all fun q =>
    let y := s.getPart q
    decide (y.st = .free) || y.balLen == 0 || apart x.balBase y.balBase x.balLen y.balLen)) &&
  (others.all fun q =>
    let y := s.getPart q
    decide (y.st = .free) || !(d.rects.any fun r => y.desc.rects.any (rectsMeet r)) || (x.balLen != 0 && y.balLen != 0)) &&
  decide (x.gused ≤ d.gQuota)

/-- ACTIVATE (R37, R38, R171). -/
def execActivate (s : State) : Out :=
  s.command 0x02 [.configured] fun s p =>
    if s.activates p then
      .done (s.mapPart p fun x => { x with st := .runnable, fqWr := 0, fqRd := 0, phase := false })
    else .fail 0x04

/-- The words of a partition leave an L1 without being written back (R40). -/
def State.dropPartL1 (s : State) (p core : Nat) : State :=
  let gone := (s.getCore core).l1.filter fun w => w.part == p
  let s1 := gone.foldl (fun (s : State) w => if w.st = .owned then s.setOwner w.addr none else s) s
  s1.mapCore core fun c =>
    { c with l1 := c.l1.filter fun w => w.part != p, lru := c.lru.filter fun x => x.1 != p, shadow := c.shadow.filter fun x => x.1 != p }

/-- What a core holds of a partition is discarded (R40, R51). -/
def Core.cleanPart (c : Core) (p : Nat) : Core :=
  let slot (x : Slot) : Slot := if x.part = p then Slot.reset else { x with cache := x.cache.filter fun l => l.part != p }
  let waits := c.waits.filter fun e => e.part != p
  let batch := (waits.filter fun e => !e.posted).map (·.token)
  { c with
      slotA := slot c.slotA
      slotB := slot c.slotB
      wb := if c.resPart = some p then [] else c.wb
      resPart := if c.resPart = some p then none else c.resPart
      rounds := c.rounds.filter fun r => r.part != p
      waits := waits
      batch := batch
      batchClk := if batch.isEmpty then none else c.batchClk }

/-- A queue block at its reset value (R40); what the dispatcher registers hold of the queue stays. -/
def Queue.clean (q : Queue) : Queue :=
  { Queue.reset with quantum := q.quantum, cls := q.cls, newCfg := q.newCfg }

/-- Signals of a partition's queues and mailboxes. -/
def signalPart (x : Nat × Nat) : Option Nat := if x.1 = 4 then none else if x.1 = 1 then some (x.2 / 64) else some (x.2 / 16)

/-- THE CLEAN-UP OF A PARTITION (R40, R88, R132, R20), its teams killed before. Its shelves are cleared: what a dirty line held is
lost. -/
def State.cleanPart (s : State) (p : Nat) : State :=
  let s1 := (List.range s.cores.length).foldl (fun (s : State) c => s.dropPartL1 p c) ((s.discardWork p).clearShelves p)
  let s2 := (s1.tableWrite (s1.getPart p).desc.emBase (List.replicate 2048 0)).freeImages
  let off (e : Stream) : Stream :=
    if e.part = p then { e with entry := e.entry &&& ~~~(1#256 <<< 104) &&& ~~~(1#256 <<< 226) } else e
  let s3 : State := { s2 with
    cores := s2.cores.map fun c => c.cleanPart p
    streams := s2.streams.map off
    signals := s2.signals.filter fun x => signalPart x != some p }
  (s3.mapPart p fun x =>
    { x with
        queues := x.queues.map Queue.clean
        mailboxes := x.mailboxes.map fun m => { m with count := 0, overflow := false, pend := false, slot := none }
        ballast := [], pinned := [], st := .configured }).settleTimers

/-- RETIRE (R37, R40). -/
def execRetire (s : State) : Out :=
  s.command 0x03 [.runnable] fun s p => s.tableRead s.mapsBad (.done ((s.killTeams p).cleanPart p))

/-- RESET (R37, R40): a RUNNABLE partition's teams are killed, and it is RESETTING; the clean-up makes it CONFIGURED. Each is a
step of its own, BUSY through both. -/
def execReset (s : State) : Out :=
  s.command 0x04 [.stopped, .runnable, .resetting] fun s p =>
    if (s.getPart p).st = .resetting then s.tableRead s.mapsBad (.done (s.cleanPart p))
    else
      .wait ((if (s.getPart p).st = .runnable then s.killTeams p else s).mapPart p fun x => { x with st := .resetting })

/-- A team of the partition has a request under way that was translated through one of some handles (R39). -/
def State.handleBusy (s : State) (p : Nat) (hs : Nat → Bool) : Bool :=
  let place (x : Place) : Bool :=
    match x with
    | .obj h _ _ => hs h
    | .again _ _ => false
    | .scratch _ _ => false
  let op (e : EngineOp) : Bool := e.part == p && match e.cw with
    | some w => w.pa.isSome && hs w.handle
    | none => false
  (s.teams.any fun t => t.part == p &&
    ((t.storeQ.any fun e => decide (e.kind ≠ .fence) && hs e.handle) || (t.loads.any fun q => place q.place) ||
      t.atomics.any fun a => place a.place)) ||
  s.cores.any fun c => c.copyQ.any op

/-- Cached data of some handles of a partition goes home and is invalidated (R39): L1 words and weight units by their tag, island
cache lines by the frames of the object. A weight unit is clean, and an invalidated one reads as zero (R51). -/
def State.flushHandles (s : State) (p : Nat) (hs : Nat → Bool) (frames : List (Nat × Nat)) : State :=
  let inObj (line : Nat) : Bool := frames.any fun f => decide (f.1 ≤ 128 * line) && decide (128 * line < f.1 + f.2)
  let slot (x : Slot) : Slot := { x with cache := x.cache.filter fun l => !(l.part == p && inObj l.line) }
  (List.range s.cores.length).foldl (fun (s : State) c =>
    let ws := ((s.getCore c).l1.filter fun w => w.part == p && hs w.handle).map (·.addr)
    (ws.foldl (fun (s : State) w => s.dropWord c w) s).mapCore c fun c =>
      { c with slotA := slot c.slotA, slotB := slot c.slotB
               wb := if c.resPart = some p then c.wb.filter fun u => !hs u.handle else c.wb }) s

/-- The frames of an object: base and length of each present page. -/
def State.objFrames (s : State) (p obj : Nat) : List (Nat × Nat) :=
  let d := s.homeNat ((s.getPart p).desc.otBase + 32 * obj) 32
  if obj < (s.getPart p).desc.otLen then
    (List.range (ODesc.pages d)).filterMap fun i =>
      let e := s.homeNat (ODesc.faAddr d + 8 * i) 8
      if bit e 0 then some (bits e 39 16 * 2 ^ 16, 2 ^ ODesc.pageShift d) else none
  else []

/-- The object index of a handle-table entry. -/
def State.handleObj (s : State) (p h : Nat) : Nat := bits (s.homeNat ((s.getPart p).desc.htBase + 8 * h) 8) 19 0

/-- A bad block in the handle table of a partition (R11). -/
def State.handlesBad (s : State) (p : Nat) : Option Nat :=
  s.badIn (s.getPart p).desc.htBase (8 * (s.getPart p).desc.htLen)

/-- A bad block in the descriptor of an object or in its frame entries (R11). -/
def State.objBad (s : State) (p obj : Nat) : Option Nat :=
  if (s.getPart p).desc.otLen ≤ obj then none
  else
    let a := (s.getPart p).desc.otBase + 32 * obj
    (s.badIn a 32).orElse fun _ =>
      let d := s.homeNat a 32
      s.badIn (ODesc.faAddr d) (8 * ODesc.pages d)

/-- A bad block in a handle-table entry, or in what it names (R11). -/
def State.handleBad (s : State) (p h : Nat) : Option Nat :=
  (s.badIn ((s.getPart p).desc.htBase + 8 * h) 8).orElse fun _ => s.objBad p (s.handleObj p h)

/-- A change of a handle-table entry at its completion point (R39). -/
def State.changeHandle (s : State) (p h entry : Nat) : CmdRes :=
  let hs (x : Nat) : Bool := x == h
  if s.handleBusy p hs then .wait s
  else
    s.tableRead (s.handleBad p h) <| .done ((s.flushHandles p hs (s.objFrames p (s.handleObj p h))).tableWrite ((s.getPart p).desc.htBase + 8 * h) (leBytes 8 entry))

/-- SETHANDLE (R37, R39). -/
def execSetHandle (s : State) : Out :=
  s.command 0x10 [.configured, .runnable] fun s p =>
    let a := s.tbl.arg0.toNat
    if a / 2 ^ 40 ≠ 0 ∨ (s.getPart p).desc.htLen ≤ bits a 19 0 then .fail 0x03
    else s.changeHandle p (bits a 19 0) (2 ^ 63 + bits a 39 20)

/-- REVOKE (R37, R39). -/
def execRevoke (s : State) : Out :=
  s.command 0x11 [.configured, .runnable] fun s p =>
    let a := s.tbl.arg0.toNat
    if a / 2 ^ 20 ≠ 0 ∨ (s.getPart p).desc.htLen ≤ a then .fail 0x03
    else s.changeHandle p a (s.homeNat ((s.getPart p).desc.htBase + 8 * a) 8 ||| 2 ^ 62)

/-- The handles of a partition that name an object. -/
def State.namesObj (s : State) (p obj h : Nat) : Bool := decide (h < (s.getPart p).desc.htLen) && s.handleObj p h == obj

/-- SETDESC (R37, R39): the image is copied; a round region of the object starts anew (R140), and what lay in shelves of the frames
that it had leaves them (R51). -/
def execSetDesc (s : State) : Out :=
  s.command 0x12 [.configured, .runnable] fun s p =>
    let i := s.tbl.arg0.toNat
    let a := s.tbl.arg1.toNat
    if i / 2 ^ 20 ≠ 0 ∨ (s.getPart p).desc.otLen ≤ i ∨ a / 2 ^ 40 ≠ 0 ∨ s.capacity ≤ a then .fail 0x03
    else if let some b := s.handlesBad p then .wait (s.uncorrectable b false)
    else if s.handleBusy p (s.namesObj p i) then .wait s
    else
      match (s.badIn a 32).orElse fun _ => s.objBad p i with
      | some b => .wait (s.uncorrectable b false)
      | none =>
        let frames := s.objFrames p i
        let s1 := ((s.flushHandles p (s.namesObj p i) frames).leaveShelves p frames).tableWrite
          ((s.getPart p).desc.otBase + 32 * i) (s.homeBytes a 32)
        .done { s1 with regions := s1.regions.filter fun r => !(r.part == p && r.obj == i) }

/-- SETFRAME (R37, R39): the entry is written and GUSED adjusted, unless it would exceed GQUOTA. What lay in shelves of the frame
that the entry named leaves them (R51). -/
def execSetFrame (s : State) : Out :=
  s.command 0x13 [.configured, .runnable] fun s p =>
    let a := s.tbl.arg0.toNat
    let obj := bits a 19 0
    let i := bits a 51 20
    let x := s.getPart p
    let d := s.homeNat (x.desc.otBase + 32 * obj) 32
    if a / 2 ^ 52 ≠ 0 ∨ x.desc.otLen ≤ obj then .fail 0x03
    else if let some b := s.objBad p obj then .wait (s.uncorrectable b false)
    else if ODesc.pages d ≤ i then .fail 0x03
    else if let some b := s.handlesBad p then .wait (s.uncorrectable b false)
    else
      let ea := ODesc.faAddr d + 8 * i
      let size := if ODesc.pageShift d = 21 then 32 else 1
      let old := bit (s.homeNat ea 8) 0
      let new := s.tbl.arg1.getLsbD 0
      if new ∧ !old ∧ x.desc.gQuota < x.gused + size then .fail 0x3C
      else if s.handleBusy p (s.namesObj p obj) then .wait s
      else
        let left := if old then [(bits (s.homeNat ea 8) 39 16 * 2 ^ 16, 2 ^ ODesc.pageShift d)] else []
        let s1 := ((s.flushHandles p (s.namesObj p obj) (s.objFrames p obj)).leaveShelves p left).tableWrite ea
          (leBytes 8 s.tbl.arg1.toNat)
        .done (s1.mapPart p fun x =>
          { x with gused := if new ∧ !old then x.gused + size else if old ∧ !new then x.gused - size else x.gused })

/-- The distinct envelope digests of a partition's map, in ascending byte order (R48). -/
def State.mapDigests (s : State) (p : Nat) : List (List Byte) :=
  let em := (s.getPart p).desc.emBase
  let ds := ((List.range 16).filter fun e => s.envState p e != 0).map fun e => s.homeBytes (em + 128 * e + 0x40) 64
  sortBy (fun b => leNat b.reverse) ds.eraseDups

/-- The attestation report without its signature (R47, R48). -/
def State.reportBody (s : State) (p : Nat) (nonce : List Byte) : List Byte :=
  let x := s.getPart p
  let ds := s.mapDigests p
  leBytes 4 0x4B393641 ++ leBytes 2 1 ++ [BitVec.ofNat 8 p, BitVec.ofNat 8 ds.length] ++ leBytes 4 s.fuses.svc ++
    leBytes 4 (b2n s.fuses.debugLock) ++ nonce ++ leBytes 64 s.boot.fwDigest.toNat ++ sha512 (leBytes 128 (x.desc.nat 0 0)) ++
    leBytes 8 s.devTime.toNat ++ leBytes 8 0 ++ ds.flatten ++ List.replicate (1024 - 64 * ds.length) 0 ++
    leBytes 32 s.boot.attKey.toNat

/-- ATTEST (R37, R48). -/
def execAttest (s : State) : Out :=
  s.command 0x20 [.runnable, .configured] fun s p =>
    let a := s.tbl.arg0.toNat
    let b := s.tbl.arg1.toNat
    if a / 2 ^ 40 ≠ 0 ∨ b / 2 ^ 40 ≠ 0 ∨ s.capacity ≤ a ∨ s.capacity ≤ b then .fail 0x03
    else
      match (s.badIn a 32).orElse fun _ => s.mapBad p with
      | some k => .wait (s.uncorrectable k false)
      | none =>
        let body := s.reportBody p (s.homeBytes a 32)
        .done (s.tableWrite b (body ++ edSign (leBytes 32 s.boot.attSeed.toNat) body))

end Sys2Proof.Machine
end

