-- ==== Sys2Proof/Machine/Net.lean ====
section
/-!
DEFINITION. Ethernet (R14-R23): links, gate-control lists, stream filters with their flow meters, the stream table, receive and
transmit objects, frame pre-emption, and the discipline of the device time.
-/
namespace Sys2Proof.Machine

def State.mapPort (s : State) (n : Nat) (f : Port → Port) : State := { s with ports := modifyAt s.ports n f }

def State.getPort (s : State) (n : Nat) : Port := s.ports[n]?.getD Port.reset

/-- The entry of a sparse table; one that is not listed is 0. -/
def tableGet {α : Type} (zero : α) (l : List (Nat × α)) (i : Nat) : α := ((l.find? fun x => x.1 == i).map (·.2)).getD zero

/-- Write an entry of a sparse table. -/
def tableSet {α : Type} (l : List (Nat × α)) (i : Nat) (x : α) : List (Nat × α) :=
  (l.filter fun y => decide (y.1 < i)) ++ (i, x) :: l.filter fun y => decide (i < y.1)

/-! ## Links -/

/-- LINK_UP (R17, R31). -/
def execLinkUp (port : Nat) (s : State) : Out :=
  if 2 ≤ port ∨ (s.getPort port).link then .next s
  else .next ((s.mapPort port fun x => { x with link := true }).flight 0x05 0x01 0xFF (s.linkData port))

/-- LINK_DOWN (R17, R31). -/
def execLinkDown (port : Nat) (s : State) : Out :=
  if 2 ≤ port ∨ !(s.getPort port).link then .next s else .next (s.linkDown port)

/-- PREEMPTION_VERIFICATION (R17): IEEE 802.3br verification with the link partner ends. -/
def execPreemptionVerification (port : Nat) (ok : Bool) (s : State) : Out :=
  if (s.getPort port).link then .next (s.mapPort port fun x => { x with verified := ok }) else .next s

/-! ## Gate-control lists (R18) -/

/-- Entry `i` of the operational list. -/
def Port.oper (x : Port) (i : Nat) : Nat := (tableGet 0 x.goper i).toNat

/-- The segments of one cycle of the operational list: entry index, gates and duration; the entry that reaches the cycle end is
cut there, and the last entry holds until it (R18). -/
def Port.segments (x : Port) : List (Nat × Nat × Nat) :=
  let cut := (List.range x.operLen).foldl (fun (acc : Nat × List (Nat × Nat × Nat)) i =>
    let left := x.operCycle - acc.1
    let e := x.oper i
    let d := if i + 1 = x.operLen then left else min left (bits e 31 0)
    (acc.1 + d, if d = 0 then acc.2 else acc.2 ++ [(i, bits e 39 32, d)])) (0, [])
  cut.2

/-- The segment in force at a time of the cycle, what is left of it, and the segments after it, once round. -/
def segmentIn : Nat → List (Nat × Nat × Nat) → List (Nat × Nat × Nat) → Option ((Nat × Nat × Nat) × Nat × List (Nat × Nat × Nat))
  | _, _, [] => none
  | t, seen, g :: r => if t < g.2.2 then some (g, g.2.2 - t, r ++ seen ++ [g]) else segmentIn (t - g.2.2) (seen ++ [g]) r

/-- The time of the cycle at a device time. -/
def Port.phase (x : Port) (now : Nat) : Nat := (now - x.operBase.toNat) % x.operCycle

/-- The operational entry in force (R18, R20); none in an empty list. -/
def Port.entryAt (x : Port) (now : Nat) : Option Nat := (segmentIn (x.phase now) [] x.segments).map (·.1.1)

/-- How long a gate stays open from a segment on: none where it never closes, 0 where it is closed. -/
def openFor (q : Nat) : List (Nat × Nat × Nat) → Option Nat
  | [] => none
  | g :: r => if bit g.2.1 q then (openFor q r).map (· + g.2.2) else some 0

/-- How long the gate of a queue stays open from now (R18). -/
def Port.gateTime (x : Port) (q now : Nat) : Option Nat :=
  match segmentIn (x.phase now) [] x.segments with
  | none => none
  | some (g, left, r) => openFor q ((g.1, g.2.1, left) :: r)

/-- The gate of a queue is open (R18). -/
def Port.gateOpen (x : Port) (q now : Nat) : Bool := x.gateTime q now != some 0

/-- SPEED in bits per ns (R17). -/
def Port.bitRate (x : Port) : Nat := if x.speed = 0 then 25 else if x.speed = 1 then 50 else 100

/-- The time in ns of a frame of so many bytes without FCS. -/
def Port.frameTime (x : Port) (len : Nat) : Nat := (8 * (len + 4) + x.bitRate - 1) / x.bitRate

/-- A queue's frames may be pre-empted (R17, R18): it is preemptable, PREEMPT is 1 and verification has succeeded. -/
def Port.canPreempt (x : Port) (q : Nat) : Bool := x.preempt && x.verified && !x.express.getLsbD q

/-- GCTL as it is written (R18). A LEN above 256 leaves the register unchanged (log entry 30). -/
def State.writeGctl (s : State) (port : Nat) (v : DWord) : State :=
  let len := bits v.toNat 8 0
  if 256 < len then s
  else
    s.mapPort port fun x =>
      let y := { x with gctlLen := len }
      if v.getLsbD 63 then { y with pending := true, swapAfter := s.devTime.toNat + 2000 } else y

/-- GCTL_SWAP (R18). -/
def execGctlSwap (port : Nat) (value : DWord) (s : State) : Out :=
  s.regWrite fun s => if port < 2 then s.writeGctl port value else s

/-- The first cycle start of the administrative list at or after a time (R18). -/
def Port.cycleStart (x : Port) (t : Nat) : Option Nat :=
  let b := x.gbase.toNat
  if t ≤ b then some b
  else if x.gcycle = 0 then none
  else some (b + (t - b + x.gcycle - 1) / x.gcycle * x.gcycle)

/-- GATE_LIST_SWAP (R18): the administrative list becomes operational once device time has reached the cycle start. -/
def execGateListSwap (port : Nat) (s : State) : Out :=
  let x := s.getPort port
  match x.cycleStart x.swapAfter with
  | none => .next s
  | some t =>
    if !x.pending ∨ s.devTime.toNat < t then .next s
    else
      .next (s.mapPort port fun x =>
        { x with pending := false, operLen := x.gctlLen, operCycle := x.gcycle, operBase := x.gbase
                 goper := (List.range x.gctlLen).foldl (fun l i => tableSet l i (tableGet 0 x.gadmin i)) x.goper })

/-- How much of a run of segments, from the first on, the gate of a queue is open in the first `n` ns. -/
def openWithin (q : Nat) : Nat → List (Nat × Nat × Nat) → Nat
  | _, [] => 0
  | n, g :: r => (if bit g.2.1 q then min n g.2.2 else 0) + openWithin q (n - min n g.2.2) r

/-- How long the gate of a queue is open in the `n` ns from a time on (R18). -/
def Port.openTime (x : Port) (q now n : Nat) : Nat :=
  match segmentIn (x.phase now) [] x.segments with
  | none => n
  | some (g, left, r) =>
    let cycle := (g.1, g.2.1, left) :: r ++ [(g.1, g.2.1, g.2.2 - left)]
    let len := (cycle.map (·.2.2)).sum
    n / len * openWithin q len cycle + openWithin q (n % len) cycle

/-! ## The credit-based shaper (R15, R17) -/

/-- idleSlope and the port rate in kbit/s. -/
def Port.idleSlope (x : Port) (q : Nat) : Nat := if q < 4 then 0 else (x.idle[q - 4]?.getD 0).toNat
def Port.kbits (x : Port) : Nat := x.bitRate * 10 ^ 6

/-- A queue that the shaper does not hold back: one that is unshaped, or has credit of 0 or more (R17). -/
def Port.hasCredit (x : Port) (q : Nat) : Bool := x.idleSlope q == 0 || decide (0 ≤ x.credit[q - 4]?.getD 0)

/-- The credit limits of IEEE 802.1Qav for frames of 9,216 bytes, in kbit/s times ns (PRESUMED, log entry 77). -/
def Port.creditMost (x : Port) (q : Nat) : Int := ((9216 * 8 * 10 ^ 6 * x.idleSlope q / x.kbits : Nat) : Int)
def Port.creditLeast (x : Port) (q : Nat) : Int := -((9216 * 8 * 10 ^ 6 * (x.kbits - x.idleSlope q) / x.kbits : Nat) : Int)

/-- The credit of a queue after `ns` (R17; PRESUMED as IEEE 802.1Qav has it, log entry 77): it falls at sendSlope while the
queue sends, rises at idleSlope while its gate is open and a frame waits or the credit is negative, and is 0 where it would be
positive with nothing waiting. -/
def Port.creditAfter (x : Port) (q now ns : Nat) (waiting : Bool) : Int :=
  let c : Int := x.credit[q - 4]?.getD 0
  if x.idleSlope q = 0 then 0
  else if (x.tx.map (·.tc)) = some q then max (x.creditLeast q) (c - ((ns * (x.kbits - x.idleSlope q) : Nat) : Int))
  else
    let c1 := c + ((x.idleSlope q * x.openTime q now ns : Nat) : Int)
    if waiting then min (x.creditMost q) c1 else if c < 0 then min 0 c1 else 0

/-- The pre-empted frame of a port resumes where its gate is open and nothing else is being sent (R16). -/
def Port.resume (x : Port) (now : Nat) : Port :=
  match x.tx, x.preempted with
  | none, some f => if x.gateOpen f.tc now then { x with tx := some f, preempted := none } else x
  | _, _ => x

/-- GATE_ENTRY_CHANGE (R16, R18): at a gate's close a preemptable frame is pre-empted, and at its opening it resumes. -/
def execGateEntryChange (port : Nat) (s : State) : Out :=
  let now := s.devTime.toNat
  .next (s.mapPort port fun x =>
    match x.tx with
    | none => x.resume now
    | some f =>
      if x.canPreempt f.tc ∧ !x.gateOpen f.tc now ∧ x.preempted.isNone then { x with tx := none, preempted := some f } else x)

/-! ## The stream table and the objects of a stream (R20-R22) -/

/-- A stream table entry; one never written is zero. -/
def State.stream (s : State) (p st : Nat) : Nat :=
  ((s.streams.find? fun x => x.part == p && x.st == st).map fun x => x.entry.toNat).getD 0

def State.setStream (s : State) (p st n : Nat) : State :=
  { s with streams := (s.streams.filter fun x => !(x.part == p && x.st == st)) ++
      [{ part := p, st := st, entry := BitVec.ofNat 256 n }] }

def rxEn (e : Nat) : Bool := bit e 104
def txEn (e : Nat) : Bool := bit e 226

/-- A stream is live (R20). The streams of partition 0 always are. -/
def State.live (s : State) (p st : Nat) : Bool :=
  if p = 0 then decide (st < 4) else decide ((s.getPart p).st = .runnable) && decide (st < (s.getPart p).desc.streams)

/-- A receive or transmit object: its partition, its handle or, for partition 0, its address, the slot size and the number of
slots. -/
structure NetRing where
  part : Nat
  handle : Nat
  addr : Nat
  slot : Nat
  slots : Nat
  deriving DecidableEq, Repr

/-- The receive object of a stream. -/
def rxRing (p e : Nat) : NetRing :=
  { part := p, handle := bits e 83 64, addr := bits e 63 24, slot := 2048 * 2 ^ bits e 99 98, slots := 2 ^ bits e 103 100 }

/-- The transmit object of a stream. -/
def txRing (p e : Nat) : NetRing :=
  { part := p, handle := bits e 211 192, addr := bits e 191 152, slot := 2048 * 2 ^ bits e 221 220, slots := 2 ^ bits e 225 222 }

/-- The object holds the header and every slot, and its ceiling holds R and W (R21, R22). -/
def State.ringOk (s : State) (r : NetRing) : Bool :=
  let n := 0x40 + r.slots * r.slot
  if r.part = 0 then decide (r.addr + n ≤ s.capacity)
  else
    match s.locCheck r.part r.handle 0 n [20, 21] 0 with
    | .ok _ => true
    | .error _ => false

/-- The address of a run of bytes of a ring that crosses no page. -/
def State.ringAddr (s : State) (r : NetRing) (off n right : Nat) : Option Nat :=
  if r.part = 0 then (if r.addr + off + n ≤ s.capacity then some (r.addr + off) else none)
  else
    match s.translate r.part r.handle off n [right] 0x30 with
    | .ok x => some x.pa
    | .error _ => none

/-- A bad block in the tables that the walk to a run of bytes of a ring meets (R11). -/
def State.ringBad (s : State) (r : NetRing) (off n : Nat) : Option Nat :=
  if r.part = 0 ∨ s.badBlocks.isEmpty then none
  else
    (pieces64 (n + 1) off (List.replicate n 0)).findSome? fun c =>
      match s.translate r.part r.handle c.1 c.2.length [] 0x30 with
      | .error e => if e.cause = 0x39 then some e.info else none
      | .ok _ => none

/-- Bytes of a ring that the TSN engine reads are requested at their homes (R130). -/
def State.ringTouch (s : State) (r : NetRing) (off n : Nat) : State :=
  if r.part = 0 then s else s.touch r.part r.handle off n 0

/-- What a read of the TSN engine answers: bytes, a failed translation, or an uncorrectable error at an address. -/
inductive NetRead where
  | ok (bs : List Byte)
  | unreachable
  | ecc (pa : Nat)
  deriving DecidableEq, Repr

/-- Read bytes of a ring at the homes. -/
def State.ringRead (s : State) (r : NetRing) (off n : Nat) : NetRead :=
  let ps := (pieces64 (n + 1) off (List.replicate n 0)).map fun c => (s.ringAddr r c.1 c.2.length 20, c.2.length)
  if ps.any fun c => c.1.isNone then
    match s.ringBad r off n with
    | some a => .ecc a
    | none => .unreachable
  else
    match ps.findSome? fun c => s.badIn (c.1.getD 0) c.2 with
    | some a => .ecc a
    | none => .ok (ps.flatMap fun c => s.homeBytes (c.1.getD 0) c.2)

/-- Write bytes of a ring as .W stores; nothing is written where any page fails. -/
def State.ringWrite (s : State) (r : NetRing) (off : Nat) (bs : List Byte) : Option State :=
  let ps := pieces64 (bs.length + 1) off bs
  if ps.any fun c => (s.ringAddr r c.1 c.2.length 21).isNone then none
  else
    some (ps.foldl (fun (s : State) c =>
      match s.ringAddr r c.1 c.2.length 21 with
      | none => s
      | some pa => if r.part = 0 then s.tableWrite pa c.2 else s.deviceWrite r.part r.handle c.1 pa c.2) s)

/-- A 64-bit field of a ring's header goes up by one, where it can be written. -/
def State.ringCount (s : State) (r : NetRing) (off : Nat) : State :=
  match s.ringRead r off 8 with
  | .ok bs => (s.ringWrite r off (leBytes 8 (leNat bs + 1))).getD s
  | .unreachable => s
  | .ecc a => s.uncorrectable a false

/-- A frame that is full, too long or unreachable for its stream: DROP counts it (R21). -/
def State.dropFrame (s : State) (r : NetRing) : State × Bool := (s.ringCount r 0x10, false)

/-- DELIVERY TO A STREAM (R21): the state after, and whether the frame was delivered. `by_` is the deciding filter. -/
def State.deliver (s : State) (p st by_ port : Nat) (vlan : Bool) (frame : List Byte) : State × Bool :=
  let e := s.stream p st
  let r := rxRing p e
  if !rxEn e then (s, false)
  else if let some a := s.ringBad r 0 16 then (s.uncorrectable a false, false)
  else if !s.ringOk r then s.dropFrame r
  else
    let s := s.ringTouch r 0 16
    match s.ringRead r 0 16 with
    | .ecc a => (s.uncorrectable a false, false)
    | .unreachable => s.dropFrame r
    | .ok h =>
      let wr := leNat (h.take 2) % r.slots
      let rd := leNat ((h.drop 8).take 2) % r.slots
      if (wr + 1) % r.slots = rd ∨ r.slot < frame.length + 32 then s.dropFrame r
      else
        let word := frame.length + b2n vlan * 2 ^ 15 + port * 2 ^ 16
        let slot := leBytes 4 word ++ leBytes 2 by_ ++ leBytes 2 0 ++ leBytes 8 s.devTime.toNat ++ List.replicate 16 0 ++ frame
        if let some a := s.ringBad r (0x40 + wr * r.slot) slot.length then (s.uncorrectable a false, false)
        else if (s.ringAddr r 0 8 21).isNone then s.dropFrame r
        else
          match s.ringWrite r (0x40 + wr * r.slot) slot with
          | none => s.dropFrame r
          | some s1 =>
            let s2 := (s1.ringWrite r 0 (leBytes 8 ((wr + 1) % r.slots))).getD s1
            (if bit e 105 then s2.arrival p (bits e 111 106) else s2, true)

/-! ## Reception (R14, R19) -/

/-- A big-endian number of a frame. -/
def frameNat (fr : List Byte) (off n : Nat) : Nat := leNat ((fr.drop off).take n).reverse

/-- The Tag Protocol Identifiers of a VLAN tag (log entry 30). -/
def isTag (x : Nat) : Bool := x == 0x8100 || x == 0x88A8

/-- The EtherType after any VLAN tag. -/
def etherType (fr : List Byte) : Nat → Nat → Nat
  | 0, off => frameNat fr off 2
  | fuel + 1, off => if isTag (frameNat fr off 2) then etherType fr fuel (off + 4) else frameNat fr off 2

/-- A filter matches a frame received on a port (R19). -/
def filterMatches (e port : Nat) (fr : List Byte) : Bool :=
  let tagged := isTag (frameNat fr 12 2)
  bit e 112 && decide (bits e 127 120 ≤ 128) && bit (bits e 117 116) port &&
    (!bit e 113 || bits e 47 0 == frameNat fr 0 6) &&
    (!bit e 114 || (tagged && bits e 91 80 == frameNat fr 14 2 % 2 ^ 12)) &&
    (!bit e 115 || bits e 111 96 == etherType fr (fr.length / 4) 12)

/-- A saturating count in 32 bits of an entry goes up by one (R19). -/
def entryCount (e : BitVec 256) (lo : Nat) : BitVec 256 :=
  if bits e.toNat (lo + 31) lo = 0xFFFFFFFF then e else e + BitVec.ofNat 256 (2 ^ lo)

/-- The flow meter filled up to now (R19): rate CIR in Mbit/s, depth CBS × 64 bytes. -/
def Filter.fill (f : Filter) (now : Nat) : Filter :=
  let e := f.entry.toNat
  { f with tokens := min (bits e 159 144 * 64 * 8000) (f.tokens + bits e 191 160 * (now - f.filled)), filled := now }

/-- The deciding filter of a frame: the first that matches, in ascending number. -/
def State.decide_ (s : State) (port : Nat) (fr : List Byte) : Option Filter :=
  (sortBy (fun f => f.idx) s.filters).find? fun f => filterMatches f.entry.toNat port fr

def State.mapFilter (s : State) (i : Nat) (f : Filter → Filter) : State :=
  { s with filters := s.filters.map fun x => if x.idx = i then f x else x }

/-- The deciding filter counts a frame as delivered or dropped. -/
def State.countFrame (s : State) (i : Nat) (delivered : Bool) : State :=
  s.mapFilter i fun f => { f with entry := entryCount f.entry (if delivered then 192 else 224) }

/-- A frame that filter f decides (R19): the meter, then the stream. A frame that the meter admits takes its tokens, also where
the stream then drops it (DESIGN CHOICE, log entry 78). The length that the meter charges counts the FCS (DESIGN CHOICE, log entry
89). -/
def State.decided (s : State) (f : Filter) (port : Nat) (vlan : Bool) (fr : List Byte) : State :=
  let e := f.entry.toNat
  let n := fr.length + 4
  let max := if bits e 143 130 = 0 then 9216 else bits e 143 130
  let g := f.fill s.devTime.toNat
  let metered := decide (bits e 191 160 ≠ 0)
  if max < n then s.countFrame f.idx false
  else if metered ∧ g.tokens < 8000 * n then (s.mapFilter f.idx fun _ => g).countFrame f.idx false
  else
    let g1 := if metered then { g with tokens := g.tokens - 8000 * n } else g
    let s1 := s.mapFilter f.idx fun _ => g1
    let p := bits e 127 120
    let st := bits e 119 118
    if !s1.live p st then s1.countFrame f.idx false
    else
      let d := s1.deliver p st f.idx port vlan fr
      d.1.countFrame f.idx d.2

/-- ETH_FRAME_RECEIVE (R14, R19, R21): `fr` is the frame without its FCS. A frame with a bad FCS, or shorter than the 64 bytes of
IEEE 802.3, does not pass the MAC's checks. -/
def execEthFrameReceive (port : Nat) (fr : List Byte) (crcOk : Bool) (s : State) : Out :=
  let x := s.getPort port
  let n := fr.length + 4
  if 2 ≤ port ∨ !x.en ∨ !x.link ∨ !crcOk ∨ n < 64 then .next s
  else if 9216 < n then .next (s.mapPort port fun x => { x with oversize := x.oversize + 1 })
  else
    let vlan := isTag (frameNat fr 12 2)
    match s.decide_ port fr with
    | some f => .next (s.decided f port vlan fr)
    | none => .next (s.deliver 0 0 0xFFFF port vlan fr).1

/-! ## Transmission (R16, R18, R22) -/

/-- A port is sending a frame of a stream, or has pre-empted one. -/
def Port.sending (x : Port) (p st : Nat) : Bool :=
  let of (f : Option TxFrame) : Bool := (f.map fun f => f.part == p && f.stream == st).getD false
  of x.tx || of x.preempted

/-- The list is in the stream's window (R20). -/
def Port.inWindow (x : Port) (e now : Nat) : Bool :=
  !bit e 239 || ((x.entryAt now).map fun i => decide (bits e 247 240 ≤ i) && decide (i ≤ bits e 255 248)).getD false

/-- The cycle from each of its segments on. -/
def rotations (l : List (Nat × Nat × Nat)) : List (List (Nat × Nat × Nat)) :=
  (List.range l.length).map fun i => l.drop i ++ l.take i

/-- A frame fits in some window of the stream (R22): one opens at a segment in the window from which the gate stays open long
enough; a preemptable frame needs no more than an opening. -/
def Port.fits (x : Port) (e len : Nat) : Bool :=
  let q := bits e 238 236
  let segs := x.segments
  if segs.isEmpty then !bit e 239
  else
    (rotations segs).any fun l =>
      let i := (l.head?.map (·.1)).getD 0
      (!bit e 239 || (decide (bits e 247 240 ≤ i) && decide (i ≤ bits e 255 248))) &&
        match openFor q l with
        | none => true
        | some t => if x.canPreempt q then t != 0 else decide (x.frameTime len ≤ t)

/-- The slot at TXRD (R22): nothing to send; a frame of a length and launch time; one to be passed over; an uncorrectable
error. -/
inductive TxSlot where
  | empty
  | frame (len launch : Nat)
  | skip
  | ecc (pa : Nat)
  deriving DecidableEq, Repr

/-- Look at the slot at TXRD of a stream. One whose frame runs past the slot is passed over too (DESIGN CHOICE, log entry 78). -/
def State.txSlot (s : State) (p e : Nat) : TxSlot :=
  let r := txRing p e
  if let some a := s.ringBad r 0 16 then .ecc a
  else if !s.ringOk r then .empty
  else
    match s.ringRead r 0 16 with
    | .unreachable => .empty
    | .ecc a => .ecc a
    | .ok h =>
      let wr := leNat (h.take 2) % r.slots
      let rd := leNat ((h.drop 8).take 2) % r.slots
      if wr = rd then .empty
      else
        match s.ringRead r (0x40 + rd * r.slot) 16 with
        | .unreachable => .skip
        | .ecc a => .ecc a
        | .ok b =>
          let len := bits (leNat (b.take 4)) 13 0
          if len < 60 ∨ 9212 < len ∨ r.slot < len + 32 ∨ !(s.getPort (bits e 235 235)).fits e len then .skip
          else
            match s.ringRead r (0x40 + rd * r.slot + 0x20) len with
            | .unreachable => .skip
            | .ecc a => .ecc a
            | .ok _ => .frame len (leNat (b.drop 8))

/-- What a look at the slot at TXRD reads (R130): the header, the slot's own, and the frame where there is one. -/
def State.txTouch (s : State) (p e : Nat) : State :=
  let r := txRing p e
  match s.ringRead r 0 16 with
  | .unreachable => s
  | .ecc _ => s
  | .ok h =>
    let at_ := 0x40 + leNat ((h.drop 8).take 2) % r.slots * r.slot
    match s.txSlot p e with
    | .empty => s.ringTouch r 0 16
    | .skip => (s.ringTouch r 0 16).ringTouch r at_ 16
    | .ecc _ => s
    | .frame len _ => (s.ringTouch r 0 16).ringTouch r at_ (0x20 + len)

/-- TXRD goes on to the next slot, as a release by the engine (R22). -/
def State.txAdvance (s : State) (p e : Nat) : State :=
  let r := txRing p e
  match s.ringRead r 8 8 with
  | .ok b => (s.ringWrite r 8 (leBytes 8 ((leNat (b.take 2) + 1) % r.slots))).getD s
  | .unreachable => s
  | .ecc a => s.uncorrectable a false

/-- Slots from TXRD on that are passed over (R22). -/
def State.txSkip (s : State) (p e : Nat) : Nat → State
  | 0 => s
  | fuel + 1 =>
    match s.txSlot p e with
    | .skip => (((s.txTouch p e).ringCount (txRing p e) 0x10).txAdvance p e).txSkip p e fuel
    | .ecc a => s.uncorrectable a false
    | .empty => s.txTouch p e
    | .frame _ _ => s.txTouch p e

/-- TX_RING_POLL (R22): a frame of the stream that is being sent is at TXRD, so that nothing is passed over before it. -/
def execTxRingPoll (p st : Nat) (s : State) : Out :=
  let e := s.stream p st
  if !txEn e ∨ !s.live p st ∨ (s.getPort (bits e 235 235)).sending p st then .next s
  else .next (s.txSkip p e (2 ^ bits e 225 222))

/-- A frame of a queue of a port waits (R17): a live stream has one at TXRD that is not being sent, or one is pre-empted. -/
def State.frameWaits (s : State) (port q : Nat) : Bool :=
  let x := s.getPort port
  ((x.preempted.map (·.tc)) == some q) || s.streams.any fun y =>
    let e := y.entry.toNat
    txEn e && bits e 235 235 == port && bits e 238 236 == q && s.live y.part y.st && !x.sending y.part y.st &&
      match s.txSlot y.part e with
      | .frame _ _ => true
      | .empty => false
      | .skip => false
      | .ecc _ => false

/-- The credits of a port after `ns` (R17). -/
def State.credits (s : State) (port : Nat) (x : Port) (ns : Nat) : List Int :=
  if x.idle.all (· == 0) then [0, 0, 0, 0]
  else [4, 5, 6, 7].map fun q => x.creditAfter q s.devTime.toNat ns (s.frameWaits port q)

/-- clk and ns pass: the device time runs at its rate (R23), and the shapers' credits change (R17). With the clocks stopped
nothing passes (R28). -/
def State.tick (s : State) (clks ns : Nat) : State :=
  if s.frozen then s
  else
    let t := s.timeFrac + ns * (10 ^ 9 + s.timeRate).toNat
    { s with clk := s.clk + clks, devTime := s.devTime + BitVec.ofNat 64 (t / 10 ^ 9), timeFrac := t % 10 ^ 9,
             ports := mapAt (fun i x => { x with credit := s.credits i x ns }) 0 s.ports }

/-- TX_FRAME_START (R16, R17, R18, R20, R22): an express frame may pre-empt a preemptable one. -/
def execTxFrameStart (p st : Nat) (s : State) : Out :=
  let e := s.stream p st
  let port := bits e 235 235
  let x := s.getPort port
  let q := bits e 238 236
  let now := s.devTime.toNat
  if !txEn e ∨ !s.live p st ∨ !x.en ∨ !x.link ∨ x.sending p st then .next s
  else
    match s.txSlot p e with
    | .ecc a => .next (s.uncorrectable a false)
    | .empty => .next s
    | .skip => .next s
    | .frame len launch =>
      let s := s.txTouch p e
      let inTime := match x.gateTime q now with
        | none => true
        | some t => if x.canPreempt q then t != 0 else decide (x.frameTime len ≤ t)
      let f : TxFrame := { part := p, stream := st, tc := q, len := len }
      if now < launch ∨ !inTime ∨ !x.inWindow e now ∨ !x.hasCredit q then .next s
      else
        match x.tx with
        | none =>
          if x.canPreempt q ∧ x.preempted.isSome then .next s
          else .next (s.mapPort port fun x => { x with tx := some f })
        | some g =>
          if x.canPreempt g.tc ∧ !x.canPreempt q ∧ x.preempted.isNone then
            .next (s.mapPort port fun x => { x with tx := some f, preempted := some g })
          else .next s

/-- TX_FRAME_SENT (R22). A preemptable frame whose gate is closed is not being sent. -/
def execTxFrameSent (port : Nat) (s : State) : Out :=
  let x := s.getPort port
  let now := s.devTime.toNat
  match x.tx with
  | none => .next s
  | some f =>
    if x.canPreempt f.tc ∧ !x.gateOpen f.tc now then .next s
    else
      let s1 := s.mapPort port fun x => ({ x with tx := none } : Port).resume now
      let e := s1.stream f.part f.stream
      if !s1.live f.part f.stream then .next s1
      else
        let s2 := s1.txAdvance f.part e
        .next (if bit e 227 then s2.arrival f.part (bits e 233 228) else s2)

/-! ## Register writes of the filters and the stream table, and the device time -/

/-- Bits of a word: each pair is a highest and a lowest bit. -/
def maskOf (l : List (Nat × Nat)) : Nat := l.foldl (fun m x => m + (2 ^ (x.1 + 1) - 2 ^ x.2)) 0

/-- The bits of a 64-bit word of an entry that a write changes. -/
def putWord (n w v mask : Nat) : Nat :=
  let old := n / 2 ^ (64 * w) % 2 ^ 64
  let new := (v % 2 ^ 64 &&& mask) + (old - (old &&& mask))
  n - old * 2 ^ (64 * w) + new * 2 ^ (64 * w)

/-- The writable bits of a stream filter's words (R19). -/
def filterMask (w : Nat) : Nat :=
  match w with
  | 0 => maskOf [(47, 0)]
  | 1 => maskOf [(27, 16), (63, 32)]
  | 2 => maskOf [(63, 2)]
  | _ => 0

/-- A write to a word of a stream filter (R19). One that sets the meter's rate or depth leaves the meter full (log entry 30). -/
def State.writeFilter (s : State) (f w v : Nat) : State :=
  if 512 ≤ f ∨ 4 ≤ w then s
  else
    let old : Filter := (s.filters.find? fun x => x.idx == f).getD { idx := f, entry := 0, tokens := 0, filled := 0 }
    let n := if w = 3 then old.entry.toNat % 2 ^ 192 else putWord old.entry.toNat w v (filterMask w)
    let x : Filter :=
      if w = 2 then { idx := f, entry := BitVec.ofNat 256 n, tokens := bits n 159 144 * 64 * 8000, filled := s.devTime.toNat }
      else { old with entry := BitVec.ofNat 256 n }
    { s with filters := (s.filters.filter fun y => y.idx != f) ++ [x] }

/-- STREAM_FILTER_CLEAR (R19): a write to bytes 0x18 to 0x1F, which are word 3. -/
def execStreamFilterClear (f word : Nat) (s : State) : Out :=
  s.regWrite fun s => if word = 3 then s.writeFilter f 3 0 else s

/-- The writable bits of a stream table entry's words (R20). -/
def streamMask (w : Nat) : Nat :=
  match w with
  | 0 => maskOf [(63, 24)]
  | 1 => maskOf [(19, 0), (47, 34)]
  | 2 => maskOf [(63, 24)]
  | _ => maskOf [(19, 0), (41, 28), (63, 43)]

/-- The bits of a word that a live direction keeps (R20): every field of it other than RXEN or TXEN. -/
def liveMask (e w : Nat) : Nat :=
  match w with
  | 0 => if rxEn e then 0 else streamMask 0
  | 1 => if rxEn e then 2 ^ 40 else streamMask 1
  | 2 => if txEn e then 0 else streamMask 2
  | _ => if txEn e then 2 ^ 34 else streamMask 3

/-- The value of a word as partition p may hold it (R20): addresses for partition 0 only, 4 KiB aligned, and handles for the
others. -/
def streamValue (p w v : Nat) : Nat :=
  if w = 0 ∨ w = 2 then (if p = 0 then v / 2 ^ 36 * 2 ^ 36 else 0)
  else if p = 0 then v / 2 ^ 20 * 2 ^ 20 else v

/-- A write to a word of a stream table entry (R20-R22). -/
def State.writeStream (s : State) (p st w v : Nat) : State :=
  if 128 < p ∨ 4 ≤ st ∨ 4 ≤ w then s
  else
    let old := s.stream p st
    let n := putWord old w (streamValue p w v) (liveMask old w)
    let n1 := if rxEn n ∧ bits n 103 100 = 0 then n - 2 ^ 104 else n
    let e := if txEn n1 ∧ bits n1 225 222 = 0 then n1 - 2 ^ 226 else n1
    let s1 := s.setStream p st e
    let zero (s : State) (r : NetRing) (off : Nat) : State := (s.ringWrite r off (leBytes 8 0)).getD s
    let bad := (if rxEn e ∧ !rxEn old then s1.ringBad (rxRing p e) 0 0x18 else none).orElse fun _ =>
      if txEn e ∧ !txEn old then s1.ringBad (txRing p e) 0 0x18 else none
    s1.unlessBad bad <|
    let s2 := if rxEn e ∧ !rxEn old then zero (zero s1 (rxRing p e) 0) (rxRing p e) 0x10 else s1
    if txEn e ∧ !txEn old then zero (zero s2 (txRing p e) 8) (txRing p e) 0x10 else s2

/-- STREAM_ENTRY_WRITE (R20). -/
def execStreamEntryWrite (p st word : Nat) (value : DWord) (s : State) : Out :=
  s.regWrite fun s => s.writeStream p st word value.toNat

/-- A write to ETH.TIME (R23, R31). -/
def State.writeEthTime (s : State) (v : DWord) : State :=
  let src := bits v.toNat 0 0
  let s1 : State := { s with ethSrc := src, ethSync := v.getLsbD 1 }
  if src ≠ s.ethSrc then ({ s1 with timeSynced := false } : State).flight 0x05 0x03 0xFF src else s1

/-- ETH_TIME_WRITE (R23). -/
def execEthTimeWrite (value : DWord) (s : State) : Out := s.regWrite fun s => s.writeEthTime value

/-- The slowest rate at which a correction may let the device time run: 1,000 ppm below its own (R23). -/
def slowest : Int := -1000000

/-- DEVICE_TIME_SYNC (R23): `ns` is the grandmaster's time. A forward correction of more than 1 ms is one step. Otherwise the
rate is adjusted: to what, the spec leaves to the part, and it is a free value that is never below the slowest rate (log
entry 76); the device time runs at it until the next adjustment. -/
def execDeviceTimeSync (ns : DWord) (s : State) : Out :=
  if !s.ethSync then .next s
  else if s.devTime.toNat + 1000000 < ns.toNat then .next { s with devTime := ns, timeSynced := true }
  else
    .next { s with timeSynced := true, timeRate := max slowest (Config.freeRate s.freeCtr), freeCtr := s.freeCtr + 1 }

/-- SYNCHRONISATION_LOST (R23). -/
def execSynchronisationLost (s : State) : Out := .next { s with timeSynced := false }

/-! ## Power (R5) and the aperture's gate (R70) -/

/-- A team is between its winch-granted start and its first run boundary (R5). -/
def Team.starting (t : Team) : Bool := decide (t.runs = 0) || (decide (t.runs = 1) && t.port.isSome)

/-- DOMAIN_VOLTAGE_CHANGE (R5): the gondola makes a change only where the rule lets it. -/
def execDomainVoltageChange (d mv : Nat) (s : State) : Out :=
  if d < 8 then
    if 650 ≤ mv ∧ mv ≤ 950 ∧ mv % 5 = 0 ∧ !(s.teams.any fun t => decide (t.core / 12 = d) && t.starting) then
      .next { s with volt := modifyAt s.volt d fun _ => mv }
    else .next s
  else if d = 8 ∧ 700 ≤ mv ∧ mv ≤ 900 ∧ mv % 5 = 0 ∧ s.volt[8]?.getD 0 = 0 ∧
      !(s.parts.drop 1).any (fun p => decide (p.st = .runnable)) then
    .next { s with volt := modifyAt s.volt 8 fun _ => mv }
  else .next s

/-- APERTURE_GATING (R70): once every queue of every partition is idle. -/
def execApertureGating (s : State) : Out :=
  if s.parts.all fun p => p.queues.all fun q => q.state == 0 then .next { s with apertureGated := true } else .next s

end Sys2Proof.Machine
end

