-- ==== Sys2Proof/Machine/Affine.lean ====
section
/-!
DEFINITION. The affine, promotion, demotion and capability instructions, OP 0x10-0x17 (R278-R284).
-/
namespace Sys2Proof.Machine

/-- AMOV.S: (Sn, S(n+1)) (R278). -/
def execAmovS (b : Bool) (g : Guard) (d x : Spec) (s : State) : Out :=
  s.affineOp (encAmovS b g d x) g [⟨1, .s, x, false, 2, 2⟩] d fun t => (t.readSGroup x 0, t.readSGroup x 1)

/-- AMOV.IMM: (sext(IMM8), 0) (R278). -/
def execAmovImm (b : Bool) (g : Guard) (d n : Spec) (s : State) : Out :=
  s.affineOp (encAmovImm b g d n) g [] d fun _ => (immSext n, 0)

/-- AMOV.LANE: (0, 1) (R278). -/
def execAmovLane (b : Bool) (d : Spec) (s : State) : Out :=
  s.affineOp (encAmovLane b d) .always [] d fun _ => (0, 1)

/-- AMOV, 32-bit form (R278). -/
def execAmov32 (b : Bool) (d x : Spec) (s : State) : Out :=
  s.affineOp (encAmov32 b d x) .always [RegUse.src 1 .a x] d fun t => t.readA x

/-- AMOV, 64-bit form (R278). -/
def execAmov64 (b : Bool) (g : Guard) (d x : Spec) (s : State) : Out :=
  s.affineOp (encAmov64 b g d x) g [RegUse.src 1 .a x] d fun t => t.readA x

/-- The affine pair of an operand: a uniform value has stride 0 (R279). -/
def Team.affinePair (t : Team) : Opd → Word × Word
  | .a r => t.readA r
  | .s r => (t.readS r, 0)
  | .v _ => (0, 0)
  | .imm _ => (0, 0)

def pairAdd (p q : Word × Word) : Word × Word := (p.1 + q.1, p.2 + q.2)
def pairSub (p q : Word × Word) : Word × Word := (p.1 - q.1, p.2 - q.2)

/-- AADD, 32-bit form (R279). -/
def execAadd32 (b : Bool) (d y : Spec) (s : State) : Out :=
  s.affineOp (encAadd32 b d y) .always [RegUse.src 1 .a y] d fun t => pairAdd (t.readA d) (t.readA y)

/-- AADD, 64-bit form: a uniform second operand changes the base only (R279). -/
def execAadd64 (b : Bool) (g : Guard) (d : Spec) (x y : Opd) (s : State) : Out :=
  s.affineOp (encAadd64 b g d x y) g (opdUse 1 x ++ opdUse 2 y) d fun t => pairAdd (t.affinePair x) (t.affinePair y)

/-- ASUB, 32-bit form (R279). -/
def execAsub32 (b : Bool) (d y : Spec) (s : State) : Out :=
  s.affineOp (encAsub32 b d y) .always [RegUse.src 1 .a y] d fun t => pairSub (t.readA d) (t.readA y)

/-- ASUB, 64-bit form: a uniform second operand changes the base only (R279). -/
def execAsub64 (b : Bool) (g : Guard) (d : Spec) (x y : Opd) (s : State) : Out :=
  s.affineOp (encAsub64 b g d x y) g (opdUse 1 x ++ opdUse 2 y) d fun t => pairSub (t.affinePair x) (t.affinePair y)

/-- AMUL: base and stride times b (R279). -/
def execAmul (b : Bool) (g : Guard) (d x y : Spec) (s : State) : Out :=
  s.affineOp (encAmul b g d x y) g [RegUse.src 1 .a x, RegUse.src 2 .s y] d fun t =>
    ((t.readA x).1 * t.readS y, (t.readA x).2 * t.readS y)

/-- ASHL: base and stride shifted by b (R279). -/
def execAshl (b : Bool) (g : Guard) (d x y : Spec) (s : State) : Out :=
  s.affineOp (encAshl b g d x y) g [RegUse.src 1 .a x, RegUse.src 2 .s y] d fun t =>
    (shl (t.readA x).1 (t.readS y), shl (t.readA x).2 (t.readS y))

/-- PROMA: (a, b) (R279, R280). -/
def execProma (b : Bool) (g : Guard) (d x y : Spec) (s : State) : Out :=
  s.affineOp (encProma b g d x y) g [RegUse.src 1 .s x, RegUse.src 2 .s y] d fun t => (t.readS x, t.readS y)

/-- PROMV: the per-lane value of an affine register (R280). -/
def execPromv (b : Bool) (g : Guard) (d y : Spec) (s : State) : Out :=
  s.varyRow (encPromv b g d y) g [RegUse.src 2 .a y] d fun t => rowOf t.lanes (affineAt (t.readA y))

/-- PROMB: a uniform value in every lane of the execution mask (R280). -/
def execPromb (b : Bool) (g : Guard) (d y : Spec) (s : State) : Out :=
  s.varyRow (encPromb b g d y) g [RegUse.src 2 .s y] d fun t => List.replicate t.lanes (t.readS y)

/-- PROMP: Pd[l] := Qa (R280). -/
def execPromp (b : Bool) (g : Guard) (d x : BitVec 3) (s : State) : Out :=
  s.varyP (encPromp b g d x) g [] d fun t => if t.readQ x then BitVec.allOnes 1024 else 0

/-- The highest lane of a mask. -/
def highestLane (n : Nat) (m : LaneMask) : Option Nat := (List.range n).reverse.find? fun l => m.getLsbD l

/-- RDFIRST and RDLAST over the lane that `pick` chooses; an empty selection raises PROMOTE_EMPTY (R281). -/
def State.demote (s : State) (f : Fields) (g : Guard) (d x : Spec) (pick : Nat → LaneMask → Option Nat) : Out :=
  s.selectOp f g [RegUse.dest 0 .s d, RegUse.src 1 .v x] fun t m =>
    match pick t.lanes m with
    | none => .raise s 0x12 (infoW f.word0 0 18)
    | some l => .team s (t.writeS d (laneWord (t.readV x) l))

/-- RDFIRST (R281). -/
def execRdfirst (b : Bool) (g : Guard) (d x : Spec) (s : State) : Out :=
  s.demote (encRdfirst b g d x) g d x lowestLane

/-- RDLAST (R281). -/
def execRdlast (b : Bool) (g : Guard) (d x : Spec) (s : State) : Out :=
  s.demote (encRdlast b g d x) g d x highestLane

/-- RDLANE: lane b[9:0] if it is selected, else 0 (R281). -/
def execRdlane (b : Bool) (g : Guard) (d x y : Spec) (s : State) : Out :=
  s.selectOp (encRdlane b g d x y) g [RegUse.dest 0 .s d, RegUse.src 1 .v x, RegUse.src 2 .s y] fun t m =>
    let n := bits (t.readS y).toNat 9 0
    .team s (t.writeS d (if n < t.lanes ∧ m.getLsbD n then laneWord (t.readV x) n else 0))

/-- The rights field of a capability holds D (R116). -/
def hasDerive (c : Cap) : Bool := bit c.toNat 27

/-- CAPNAR: base moved by δ and length cut to λ; CAP_WIDEN names the source register (R282). -/
def execCapnar (b : Bool) (g : Guard) (d x y z : Spec) (s : State) : Out :=
  s.uniformOp (encCapnar b g d x y z) g
    [RegUse.dest 0 .c d, RegUse.src 1 .c x, ⟨2, .s, y, false, 2, 2⟩, ⟨3, .s, z, false, 2, 2⟩] true fun t =>
    let c := t.readC x
    let delta := t.readS64 y
    let len := t.readS64 z
    if !hasDerive c ∨ Cap.length c < delta + len ∨ 2 ^ 48 ≤ Cap.base c + delta then .raise s 0x27 x.toNat
    else .team s (t.writeC d (Cap.make (Cap.handle c) (Cap.rights c) (Cap.base c + delta) len))

/-- CAPRST: rights masked with b[27:20] (R283). -/
def execCaprst (b : Bool) (g : Guard) (d x y : Spec) (s : State) : Out :=
  s.uniformOp (encCaprst b g d x y) g [RegUse.dest 0 .c d, RegUse.src 1 .c x, RegUse.src 2 .s y] true fun t =>
    let c := t.readC x
    if !hasDerive c then .raise s 0x27 x.toNat
    else .team s (t.writeC d (Cap.make (Cap.handle c) (Cap.rights c &&& bits (t.readS y).toNat 27 20) (Cap.base c)
      (Cap.length c)))

/-- CAPQRY.BASE into a pair (R284). -/
def execCapqryBase (b : Bool) (g : Guard) (d x : Spec) (s : State) : Out :=
  s.uniformOp (encCapqryBase b g d x) g [⟨0, .s, d, true, 2, 2⟩, RegUse.src 1 .c x] true fun t =>
    .team s (t.writeS64 d (Cap.base (t.readC x)))

/-- CAPQRY.LEN into a pair (R284). -/
def execCapqryLen (b : Bool) (g : Guard) (d x : Spec) (s : State) : Out :=
  s.uniformOp (encCapqryLen b g d x) g [⟨0, .s, d, true, 2, 2⟩, RegUse.src 1 .c x] true fun t =>
    .team s (t.writeS64 d (Cap.length (t.readC x)))

/-- CAPQRY.RIGHTS (R284). -/
def execCapqryRights (b : Bool) (g : Guard) (d x : Spec) (s : State) : Out :=
  s.uniformOp (encCapqryRights b g d x) g [RegUse.dest 0 .s d, RegUse.src 1 .c x] true fun t =>
    .team s (t.writeS d (BitVec.ofNat 32 (Cap.rights (t.readC x))))

end Sys2Proof.Machine
end

