-- ==== Sys2Proof/Machine/Copies.lean ====
section
/-!
DEFINITION. The copy and weight-buffer instructions at issue (R339-R346, R357, R358): their checks in order, and the entry that
each submits. What the engines do with the entries stands in Machine/Engine.lean.
-/
namespace Sys2Proof.Machine

/-- A failed check whose information is in form A. -/
def failA (cause off detail lane handle : Nat) : Fail :=
  { cause := cause, info := infoA off detail, lane := lane, handle := handle, park := false, page := 0 }

/-- The issue checks of a completion word (R340). -/
def cwFail (c : Cap) : Option Fail :=
  let b := Cap.base c
  if b % 8 ≠ 0 ∨ Cap.length c < 8 then some (failA 0x44 b 8 0 (Cap.handle c))
  else if !bit (Cap.rights c) 1 then some (failA 0x24 b 21 0 (Cap.handle c))
  else none

/-- The completion word that an instruction names, if it names one. -/
def cwOf (cw : Bool) (c : Cap) : Option CompWord :=
  if cw then
    some { handle := Cap.handle c, off := Cap.base c, canNotify := bit (Cap.rights c) 5, pa := none, mailbox := none }
  else none

/-- What follows the checks of an end: the completion word, then the tag (R339, R340). -/
def Team.submitFail (t : Team) (cw : Bool) (c : Cap) (tag : Nat) : Option Fail :=
  let tooLong : Option Fail :=
    if 255 ≤ t.tags[tag]?.getD 0 then some { cause := 0x40, info := tag, lane := 0, handle := 0, park := false, page := 0 }
    else none
  match if cw then cwFail c else none with
  | some e => some e
  | none => tooLong

/-- A submission of a team's run to queue `k` of its core. -/
def Team.sentTo (t : Team) (fence : Bool) (k : Nat) : Sent :=
  { queue := k, runClk := t.runClk, port := t.port.getD 0, fence := fence }

/-- Of two submissions to one queue in one clk this one comes second (R95, R213): that of the run that started later, port 1's where
both started together; of two QFENCE points port 1's (R162). -/
def Sent.second (x y : Sent) : Bool :=
  x.queue == y.queue &&
    if x.fence && y.fence then decide (y.port < x.port)
    else decide (y.runClk < x.runClk) || (y.runClk == x.runClk && decide (y.port < x.port))

/-- In this clk a queue has received what comes after one of these submissions, which are a clk too late (R95, R162, R213). -/
def State.sentLate (s : State) (core : Nat) (xs : List Sent) : Bool :=
  let c := s.getCore core
  c.sentClk == s.clk && c.sent.any fun y => xs.any fun x => y.second x

/-- The submissions of this clk. -/
def State.noteSent (s : State) (core : Nat) (xs : List Sent) : State :=
  s.mapCore core fun c =>
    { c with sentClk := s.clk, sent := xs ++ if c.sentClk = s.clk then c.sent else [] }

/-- Submission to a queue of the team's core (R153, R95): the tag counts, and the entry waits behind the team's older stores. -/
def State.submitOp (s : State) (t : Team) (wb : Bool) (tag : Option Nat) (cw : Option CompWord) (job : Job) (hint : Nat) : Res :=
  let x := t.sentTo false (if wb then 3 else 0)
  if s.sentLate t.core [x] then .stay s
  else
  let (id, s1) := s.fresh
  let op : EngineOp :=
    { id := id, part := t.part, uid := t.uid, nb := t.nb, rank := t.rank, pc := t.pc, tag := tag.getD 0,
      hasTag := tag.isSome, cw := cw, job := job, hint := hint, after := s.nextSeq, cursor := 0, done := false,
      parked := none, asking := none }
  let t1 : Team :=
    match tag with
    | none => t
    | some k => { t with tags := modifyAt t.tags k fun n => n + 1 }
  .done (((s1.setTeam t1).mapCore t.core fun c => c.setEngQ wb (c.engQ wb ++ [op])).noteSent t.core [x]).stamp

/-- A lane's use of one end: the lane, its offset and how many bytes. -/
structure EndUse where
  lane : Nat
  off : Nat
  n : Nat
  deriving DecidableEq, Repr

/-- The checks of one end of a CPY after the affine wrap (R342): rights, multiples of 4, bounds. `cap` is none for scratchpad
offsets, of the team's own pad or of the window. -/
def Team.endFail (t : Team) (cap : Option Cap) (win : Bool) (right : Nat) (us : List EndUse) : Option Fail :=
  match us with
  | [] => none
  | u0 :: _ =>
    match cap with
    | some c =>
      let h := Cap.handle c
      let b := Cap.base c
      if !bit (Cap.rights c) (right - 20) then some (failA (rightCause right) (b + u0.off) right u0.lane h)
      else
        match us.find? fun u => (b + u.off) % 4 != 0 with
        | some u => some (failA 0x41 (b + u.off) u.n u.lane h)
        | none =>
          (us.find? fun u => decide (Cap.length c < u.off + u.n) || decide (2 ^ 48 ≤ b + u.off)).map fun u =>
            failA 0x22 (b + u.off) u.n u.lane h
    | none =>
      match us.find? fun u => u.off % 4 != 0 with
      | some u => some (failA 0x41 u.off u.n u.lane 0)
      | none =>
        let top := if win then t.prm.teams * t.prm.scratch else t.prm.scratch
        (us.find? fun u => decide (top < u.off + u.n)).map fun u => failA (if win then 0x2C else 0x2B) u.off u.n u.lane 0

/-- AFFINE_WRAP of a lane (R100). -/
def wrapFail (w : Nat × Int) : Fail :=
  { cause := 0x11, info := ofSigned 64 w.2, lane := w.1, handle := 0, park := false, page := 0 }

/-- The mask of the lanes that use an end. -/
def usesMask (us : List EndUse) : LaneMask := us.foldl (fun m u => m ||| BitVec.ofNat 1024 (2 ^ u.lane)) 0

/-- The place that an end's offset names. -/
def Team.endAt (t : Team) (cap : Option Cap) (win : Bool) (off : Nat) : CopyEnd × Nat :=
  match cap with
  | some c => (.obj (Cap.handle c), Cap.base c + off)
  | none => if win then (.scratch (off / t.prm.scratch), off % t.prm.scratch) else (.scratch t.rank, off)

/-- The pieces of one lane's chunk: a window source may run on into the next rank's scratchpad (R126, R341). -/
def Team.chunk (t : Team) (src dst : Option Cap) (win : Bool) (lane so n dof z : Nat) : List Piece :=
  let d := t.endAt dst false dof
  let room := t.prm.scratch - so % t.prm.scratch
  let piece (o v dd len : Nat) : Piece :=
    let p := t.endAt src win o
    { src := p.1, srcOff := p.2, valid := v, dst := d.1, dstOff := d.2 + dd, len := len, lane := lane }
  if src.isNone && win && decide (room < n) then [piece so room 0 room, piece (so + room) (n - room) room (z - room)]
  else [piece so n 0 z]

/-- The destination offset operand by its class (R341). -/
def cpyDst (dcls : BitVec 2) (r : Spec) : Opd := if dcls = 0 then .v r else if dcls = 1 then .a r else .s r

/-- CPY (R341, R342). -/
def execCpy (b : Bool) (g : Guard) (off : Opd) (sc cnt : Spec) (h z : BitVec 2) (dof dc : Spec) (cwc : BitVec 4) (cw : Bool)
    (tag : BitVec 3) (dcls : BitVec 2) (ssp dsp win : Bool) (s : State) : Out :=
  let dst := cpyDst dcls dof
  let cwSpec : Spec := cwc.setWidth 8
  let us := opdUse 1 off ++ (if ssp then [] else [RegUse.src 2 .c sc]) ++ [RegUse.src 3 .v cnt] ++ opdUse 4 dst ++
    (if dsp then [] else [RegUse.src 5 .c dc]) ++ if cw then [RegUse.src 6 .c cwSpec] else []
  s.varyingOp (encCpy b g off sc cnt h z dof dc cwc cw tag dcls ssp dsp win) g us fun t m =>
    let size := 16 * 2 ^ z.toNat
    let lanes := lanesOf t.lanes (t.liveMask m)
    let at1 (o : Opd) (l : Nat) : Nat := (laneWord (t.readOpd immZext o) l).toNat
    let valid (l : Nat) : Nat := min (laneWord (t.readV cnt) l).toNat size
    if dsp && win then
      let l := (lowestLane t.lanes m).getD 0
      (failA 0x42 (at1 dst l) size l 0).res s
    else
      match t.limbShape m with
      | some l => .trap s { code := 0x1B, info := infoM m l, lane := l, handle := 0, next := false }
      | none =>
        let srcCap := if ssp then none else some (t.readC sc)
        let dstCap := if dsp then none else some (t.readC dc)
        let su := (lanes.filter fun l => decide (0 < valid l)).map fun l => (⟨l, at1 off l, valid l⟩ : EndUse)
        let du := lanes.map fun l => (⟨l, at1 dst l, size⟩ : EndUse)
        let (t1, w1) := t.affineUse off (usesMask su)
        let (t2, w2) := t1.affineUse dst (usesMask du)
        match w1.map wrapFail, t.endFail srcCap win 20 su with
        | some e, _ => e.res (s.setTeam t1)
        | none, some e => e.res (s.setTeam t1)
        | none, none =>
          match w2.map wrapFail, t.endFail dstCap false 21 du with
          | some e, _ => e.res (s.setTeam t2)
          | none, some e => e.res (s.setTeam t2)
          | none, none =>
            let c := t.readC cwSpec
            match t2.submitFail cw c tag.toNat with
            | some e => e.res (s.setTeam t2)
            | none =>
              s.submitOp t2 false (some tag.toNat) (cwOf cw c)
                (.pieces (lanes.flatMap fun l => t.chunk srcCap dstCap win l (at1 off l) (valid l) (at1 dst l) size)) h.toNat

/-- The block of a CPYT (R343): offsets are 48 bits wide; bits above them are not used (log entry 25). -/
structure TensorBlock where
  so : Nat
  dof : Nat
  r : Nat
  y : Nat
  z : Nat
  srow : Nat
  drow : Nat
  splane : Nat
  dplane : Nat
  deriving DecidableEq, Repr

def Team.tensorBlock (t : Team) (sd sp : Spec) : TensorBlock :=
  let w (i : Nat) : Nat := (t.readSGroup sd i).toNat
  { so := w 0 + w 1 % 2 ^ 16 * 2 ^ 32, dof := w 2 + w 3 % 2 ^ 16 * 2 ^ 32, r := w 4, y := w 5 % 2 ^ 16, z := w 5 / 2 ^ 16,
    srow := w 6, drow := w 7, splane := (t.readSGroup sp 0).toNat, dplane := (t.readSGroup sp 1).toNat }

/-- The offset of the last byte of a box. -/
def boxLast (off r y z row plane : Nat) : Nat := off + (z - 1) * plane + (y - 1) * row + r - 1

/-- Rights and bounds of one end of a CPYT over its box's last byte (R344). -/
def Team.boxFail (t : Team) (cap : Option Cap) (right last : Nat) : Option Fail :=
  match cap with
  | some c =>
    let h := Cap.handle c
    let b := Cap.base c
    if !bit (Cap.rights c) (right - 20) then some (failA (rightCause right) (b + last) right 0 h)
    else if Cap.length c ≤ last ∨ 2 ^ 48 ≤ b + last then some (failA 0x22 (b + last) 1 0 h)
    else none
  | none => if t.prm.scratch ≤ last then some (failA 0x2B last 1 0 0) else none

/-- The checks of a CPYT in the order of R344, before the completion word. -/
def Team.tensorFail (t : Team) (k : TensorBlock) (src dst : Option Cap) : Option Fail :=
  let shape (i : Nat) : Option Fail := some { cause := 0x43, info := i, lane := 0, handle := 0, park := false, page := 0 }
  let base (c : Option Cap) : Nat := (c.map Cap.base).getD 0
  let handle (c : Option Cap) : Nat := (c.map Cap.handle).getD 0
  if k.r < 4 ∨ 2 ^ 20 < k.r ∨ k.r % 4 ≠ 0 then shape 4
  else if k.y = 0 ∨ k.z = 0 then shape 5
  else if k.drow < k.r then shape 7
  else if k.dplane < k.y * k.drow then shape 9
  else
    let vals : List (Nat × Nat) :=
      [(base src + k.so, handle src), (base dst + k.dof, handle dst), (k.srow, 0), (k.drow, 0), (k.splane, 0), (k.dplane, 0)]
    match vals.find? fun v => v.1 % 4 != 0 with
    | some v => some (failA 0x41 v.1 4 0 v.2)
    | none =>
      match t.boxFail src 20 (boxLast k.so k.r k.y k.z k.srow k.splane) with
      | some e => some e
      | none => t.boxFail dst 21 (boxLast k.dof k.r k.y k.z k.drow k.dplane)

/-- CPYT (R343, R344). -/
def execCpyt (b : Bool) (g : Guard) (sd sp sc : Spec) (h : BitVec 2) (dc cwc : Spec) (ssp dsp cw : Bool) (tag : BitVec 3)
    (s : State) : Out :=
  let us := [⟨1, .s, sd, false, 8, 8⟩, ⟨2, .s, sp, false, 2, 2⟩] ++ (if ssp then [] else [RegUse.src 3 .c sc]) ++
    (if dsp then [] else [RegUse.src 4 .c dc]) ++ if cw then [RegUse.src 5 .c cwc] else []
  s.uniformOp (encCpyt b g sd sp sc h dc cwc ssp dsp cw tag) g us false fun t =>
    let k := t.tensorBlock sd sp
    let src := if ssp then none else some (t.readC sc)
    let dst := if dsp then none else some (t.readC dc)
    let c := t.readC cwc
    match t.tensorFail k src dst with
    | some e => e.res s
    | none =>
      match t.submitFail cw c tag.toNat with
      | some e => e.res s
      | none =>
        let a := t.endAt src false k.so
        let d := t.endAt dst false k.dof
        s.submitOp t false (some tag.toNat) (cwOf cw c)
          (.tensor a.1 a.2 d.1 d.2 k.r k.y k.z k.srow k.drow k.splane k.dplane) h.toNat

/-- Where register Ck of a saved rank lies, if in a frame: handle and offset (R181). -/
def State.capPlace (s : State) (n : Nb) (rank k : Nat) : Option (Nat × Nat) :=
  if (s.rankTeam? n.id rank).isSome then none
  else
    match n.saved.find? (fun v => v.rank == rank), s.launch? n.launch with
    | some v, some l =>
      match v.place with
      | .ballast _ => none
      | .frame i => some (Cap.handle l.prm.savef, i * (frameLayout l.prm).size + 0x500 + 16 * k)
    | _, _ => none

/-- Register Ck of a rank of a neighbourhood as it stands (R345): of the resident team, or of the saved one. -/
def State.rankCap (s : State) (n : Nb) (rank k : Nat) : Option Cap :=
  match s.rankTeam? n.id rank with
  | some t => some (t.readC (BitVec.ofNat 8 k))
  | none =>
    match s.capPlace n rank k with
    | some (h, off) => some (BitVec.ofNat 128 (leNat (s.frameRead n.part h off 16)))
    | none =>
      (n.saved.find? fun v => v.rank == rank).bind fun v =>
        match v.place with
        | .ballast t => some (t.readC (BitVec.ofNat 8 k))
        | .frame _ => none

/-- The first bad block that reading the registers Ck of some ranks would meet (R10, R11). -/
def State.rankCapBad (s : State) (n : Nb) (ranks : List Nat) (k : Nat) : Option Nat :=
  ranks.findSome? fun r => (s.capPlace n r k).bind fun p => s.frameBad n.part p.1 p.2 16

/-- What reading the registers Ck of some ranks requests at the homes (R130). -/
def State.touchCaps (s : State) (n : Nb) (ranks : List Nat) (k : Nat) : State :=
  ranks.foldl (fun (s : State) r =>
    match s.capPlace n r k with
    | some (h, off) => s.touch n.part h off 16 0
    | none => s) s

/-- Whether a destination team's Ck receives a lane's word at its offset (R346); a team that has retired has none. -/
def capReceives (op : Nat) (c : Option Cap) (o : Nat) : Bool :=
  match c with
  | none => false
  | some c =>
    bit (Cap.rights c) 1 && (op == 0 || bit (Cap.rights c) 2) && o % 4 == 0 && decide (o + 4 ≤ Cap.length c) &&
      decide (Cap.base c + o < 2 ^ 48)

/-- The denial of a CPYM by some Ck of its span (R346, R160): the mask by rank within the span, and the lowest lane that fails
(R167). With no submitting lane nothing fails (R111). -/
def denialOf (op : Nat) (caps : List (Option Cap)) (offs : List (Nat × Nat)) : Option (Nat × Nat) :=
  (offs.find? fun p => caps.any fun c => !capReceives op c p.2).map fun p =>
    (maskOfList (caps.map fun c => offs.any fun q => !capReceives op c q.2), p.1)

/-- The scratchpad checks of a CPYM (R346). -/
def Team.multicastPadFail (t : Team) (offs : List (Nat × Nat)) : Option Fail :=
  match offs.find? fun p => p.2 % 4 != 0 with
  | some p => some (failA 0x2A p.2 4 p.1 0)
  | none => (offs.find? fun p => decide (t.prm.scratch < p.2 + 4)).map fun p => failA 0x2B p.2 4 p.1 0

/-- CPYM (R345, R346): `op` is 0 for .MC, and `k + 1` for the operation k of R263. -/
def State.cpym (s : State) (f : Fields) (g : Guard) (off dat : Opd) (k : Spec) (h : BitVec 2) (cw : Bool) (cwc : Spec)
    (tag : BitVec 3) (dsp : Bool) (op : Nat) (span : Spec) : Out :=
  let us := opdUse 1 off ++ opdUse 2 dat ++ (if dsp then [] else [RegUse.src 3 .c k]) ++
    if cw then [RegUse.src 4 .c cwc] else []
  s.varyingOp f g us fun t m =>
    match t.prm.spanOf t.rank span, s.nb? t.nb with
    | none, _ => .raise s 0x1C span.toNat
    | some _, none => .done s
    | some (ox, oy, sw, sh), some n =>
      match t.limbShape m with
      | some l => .trap s { code := 0x1B, info := infoM m l, lane := l, handle := 0, next := false }
      | none =>
        let lanes := lanesOf t.lanes (t.liveMask m)
        let offs := lanes.map fun l => (l, (laneWord (t.readOpd immZext off) l).toNat)
        let word (l : Nat) : Word := laneWord (t.readOpd immZext dat) l
        let ranks := t.prm.spanRanks ox oy sw sh
        let caps := ranks.map fun r => s.rankCap n r k.toNat
        let s := if dsp then s else s.touchCaps n ranks k.toNat
        match if dsp then t.multicastPadFail offs else none with
        | some e => e.res s
        | none =>
          if let some a := if dsp then none else s.rankCapBad n ranks k.toNat then .stay (s.uncorrectable a false)
          else
          match if dsp then none else denialOf op caps offs with
          | some (denial, l) => .trap s { code := 0x2E, info := denial, lane := l, handle := 0, next := false }
          | none =>
            let c := t.readC cwc
            match t.submitFail cw c tag.toNat with
            | some e => e.res s
            | none =>
              let words := (List.zip ranks caps).flatMap fun p => offs.map fun o =>
                if dsp then ({ dst := .scratch p.1, off := o.2, data := word o.1, lane := o.1 } : McWord)
                else
                  let c := p.2.getD nullCap
                  { dst := .obj (Cap.handle c), off := Cap.base c + o.2, data := word o.1, lane := o.1 }
              s.submitOp t false (some tag.toNat) (cwOf cw c) (.multicast op words) h.toNat

/-- CPYM.MC (R345, R346). -/
def execCpymMc (b : Bool) (g : Guard) (off dat : Opd) (k : Spec) (h : BitVec 2) (cw : Bool) (cwc : Spec) (tag : BitVec 3)
    (dsp : Bool) (span : Spec) (s : State) : Out :=
  s.cpym (encCpymMc b g off dat k h cw cwc tag dsp span) g off dat k h cw cwc tag dsp 0 span

/-- CPYM.RD (R345, R346). -/
def execCpymRd (b : Bool) (g : Guard) (off dat : Opd) (k : Spec) (h : BitVec 2) (cw : Bool) (cwc : Spec) (tag : BitVec 3)
    (dsp : Bool) (o : BitVec 4) (span : Spec) (s : State) : Out :=
  s.cpym (encCpymRd b g off dat k h cw cwc tag dsp o span) g off dat k h cw cwc tag dsp (o.toNat + 1) span

/-- The checks that WBLD and WBGTH share (R357, R358): a place that is a multiple of 64, right R, and the first 64
bytes. The place is Sa for WBLD, and the descriptor's offset in the object for WBGTH (log entry 46). -/
def wbIssueFail (c : Cap) (sa place : Nat) (bounded : Bool) : Option Fail :=
  let o := Cap.base c + sa
  let h := Cap.handle c
  if place % 64 ≠ 0 then some (failA 0x41 o 64 0 h)
  else if !bit (Cap.rights c) 0 then some (failA 0x23 o 20 0 h)
  else if bounded ∧ (Cap.length c < sa + 64 ∨ 2 ^ 48 ≤ o) then some (failA 0x22 o 64 0 h)
  else none

/-- WBLD (R357). -/
def execWbld (b : Bool) (g : Guard) (x y c : Spec) (h : BitVec 2) (s : State) : Out :=
  let f := encWbld b g x y c h
  s.uniformOp f g [RegUse.src 1 .s x, RegUse.src 2 .s y, RegUse.src 3 .c c] false fun t =>
    let v := (t.readS y).toNat
    let n := bits v 26 16
    if bits v 15 10 ≠ 0 ∨ v / 2 ^ 27 ≠ 0 ∨ 1024 < n then .raise s 0x03 (infoW f.word0 1 0)
    else
      let cap := t.readC c
      let sa := (t.readS x).toNat
      match wbIssueFail cap sa sa (n != 0) with
      | some e => e.res s
      | none =>
        if n = 0 then .done s
        else
          s.submitOp t true none none
            (.weightLoad (Cap.handle cap) (Cap.base cap + sa) (Cap.base cap + Cap.length cap) (v % 1024) n) h.toNat

/-- WBGTH (R358). -/
def execWbgth (b : Bool) (g : Guard) (x y c : Spec) (h : BitVec 2) (z : Spec) (s : State) : Out :=
  let f := encWbgth b g x y c h z
  s.uniformOp f g [RegUse.src 1 .s x, RegUse.src 2 .s y, RegUse.src 3 .c c, RegUse.src 4 .s z] false fun t =>
    let v := (t.readS y).toNat
    let kn := (t.readS z).toNat
    if v / 2 ^ 10 ≠ 0 then .raise s 0x03 (infoW f.word0 1 0)
    else if kn % 32 ≠ 0 ∨ kn / 2 ^ 16 % 32 ≠ 0 then .raise s 0x48 kn
    else
      let cap := t.readC c
      let sa := (t.readS x).toNat
      match wbIssueFail cap sa (Cap.base cap + sa) true with
      | some e => e.res s
      | none =>
        s.submitOp t true none none
          (.weightGather (Cap.handle cap) (Cap.base cap + sa) (Cap.base cap) (Cap.base cap + Cap.length cap) v
            (kn % 2 ^ 16) (kn / 2 ^ 16) none) h.toNat

end Sys2Proof.Machine
end

