-- ==== Sys2Proof/Machine/Async.lean ====
section
/-!
DEFINITION. Waiting and notifying (R347-R350), QFENCE (R351, R154), ISEND and LSTAT (R352-R354, R191), and TRICLS (R355).
-/
namespace Sys2Proof.Machine

/-- Every earlier load and atomic of memory has performed and every earlier store has drained (R150, a release). -/
def Team.releases (t : Team) : Bool := t.loadsDone && t.storeQ.isEmpty

/-- The end of an instruction that ends its run whatever it does (R94: WAITT and WAITW). -/
def Res.runEnd (s : State) : Res := .ok { s := s, pc := none, ends := true, after := [] }

/-- WAITT (R347): an acquire once the counts are zero, else sleep. -/
def State.waitt (s : State) (t : Team) (mask : Byte) (words : Nat) : Res :=
  if (List.range 8).all fun i => !mask.getLsbD i || t.tags[i]?.getD 0 == 0 then
    .runEnd ((s.setTeam { t with slept := 0 }).selfInvalidate t.core t.part)
  else .sleep (s.setTeam { t with status := .waitTags mask words, sleepClk := s.clk })

/-- WAITT, 32-bit form (R347). -/
def execWaitt32 (b : Bool) (mask : Spec) (s : State) : Out :=
  s.controlOp (encWaitt32 b mask) [] fun t => s.waitt t mask 1

/-- WAITT and WAITW under a Q guard (R347, R348): a false guard completes with no acquire, and the run ends (R94). -/
def State.waitOp (s : State) (f : Fields) (g : Guard) (us : List RegUse) (body : Team → Res) : Out :=
  s.controlOp f us fun t => if t.guardQ g then body t else .runEnd s

/-- WAITT under a Q guard (R347). -/
def execWaitt64 (b : Bool) (g : Guard) (mask : Spec) (s : State) : Out :=
  s.waitOp (encWaitt64 b g mask) g [] fun t => s.waitt t mask 2

/-- The condition of WAITW on its word (R348). -/
def waitHolds (m : BitVec 2) (w v : Nat) : Bool := if m = 0 then decide (v ≤ w) else if m = 1 then w == v else w != v

/-- One reading of WAITW's word (R348): an .N load with its checks and its place in the team's order (R149-R151). -/
def State.waitwRead (s : State) (t : Team) (x y c : Spec) (m : BitVec 2) : Res :=
  let cap := t.readC c
  let h := Cap.handle cap
  match s.access t cap [20] 8 0x30 false [(0, (t.readS x).toNat)] with
  | .error e => e.res s
  | .ok accs =>
    match accs.head? with
    | none => .runEnd s
    | some a =>
      let p : PendLoad :=
        { seq := s.nextSeq, place := .obj h a.off a.xl.pa, size := 8, signed := false, rq := 1, hint := 0,
          target := { cls := 0, reg := 0, lane := 0, ySlot := 2, first := false, n := 0 }, bound := none, got := none }
      if t.heldLoad t.loads.length p || (!s.servedLocal t p a.xl.pa && s.sentBefore t.core p.seq a.xl.pa 8) ||
          t.acquirePending p.seq false then .stay s
      else
        match s.loadBad t p h a.off a.xl.pa with
        | some b => .stay (s.uncorrectable b false)
        | none =>
          let r := (s.accessL1 t.core t.part a.xl.pa 8).loadBytes t p h a.off a.xl.pa
          if waitHolds m (leNat r.2) (t.readS64 y) then
            .ok { s := (r.1.setTeam { t with slept := 0, status := .running }).selfInvalidate t.core t.part, pc := none,
                  ends := true, after := t.watch true false h 8 accs }
          else .sleep (r.1.setTeam { t with status := .waitWord x y c m, sleepClk := s.clk })

/-- WAITW (R348). -/
def execWaitw (b : Bool) (g : Guard) (x y c : Spec) (m : BitVec 2) (s : State) : Out :=
  s.waitOp (encWaitw b g x y c m) g [RegUse.src 1 .s x, ⟨2, .s, y, false, 2, 2⟩, RegUse.src 3 .c c] fun t =>
    s.waitwRead t x y c m

/-- clk that a sleeping team has slept in its wait (R349). -/
def State.sleptClk (s : State) (t : Team) : Nat := t.slept + (s.clk - t.sleepClk)

/-- WAITW_REREAD (R348): a sleeping WAITW reads its word again; it returns as its instruction does, and its run has ended. A trap
ends its sleep (R349). -/
def execWaitwReread (team : Nat) (s : State) : Out :=
  match s.team? team with
  | none => .next s
  | some t =>
    match t.status with
    | .waitWord x y c m =>
      let t0 : Team := { t with status := .running, slept := s.sleptClk t }
      match (s.setTeam t0).waitwRead t0 x y c m with
      | .stay s1 => .next (if s1.team? team = some t0 then s1.setTeam t else s1)
      | .trap s1 k =>
        let t1 : Team := { t0 with slept := 0 }
        finish 2 true none t1 (.trap (s1.setTeam t1) k)
      | r => finish 2 true none t0 r
    | _ => .next s

/-- WAIT_TIMEOUT (R349): 2^25 clk of sleep, counted across saves. -/
def execWaitTimeout (team : Nat) (s : State) : Out :=
  match s.team? team with
  | none => .next s
  | some t =>
    let waits := match t.status with
      | .waitTags _ _ => true
      | .waitWord _ _ _ _ => true
      | _ => false
    if waits && decide (2 ^ 25 ≤ s.sleptClk t) then
      let t0 : Team := { t with status := .running, slept := 0 }
      finish 2 true none t0 (.raise (s.setTeam t0) 0x46 (s.sleptClk t))
    else .next s

/-- NOTIFY (R350): the checks in order, then one release: the word at its home and the arrival. -/
def State.notify (s : State) (f : Fields) (g : Guard) (x y c : Spec) (st : Bool) : Out :=
  s.uniformOp f g [RegUse.src 1 .s x, ⟨2, .s, y, false, 2, 2⟩, RegUse.src 3 .c c] false fun t =>
    let cap := t.readC c
    let h := Cap.handle cap
    match s.access t cap [21, 25] 8 0x30 true [(0, (t.readS x).toNat)] with
    | .error e => e.res s
    | .ok accs =>
      match accs.head? with
      | none => .done s
      | some a =>
        if !ODesc.mailbox a.xl.desc then (failA 0x47 a.off 8 0 h).res s
        else if (s.getPart t.part).desc.mailboxes ≤ a.off / 8 then
          .trap s { code := 0x4F, info := a.off / 8, lane := 0, handle := h, next := false }
        else if !t.releases || s.sentBefore t.core s.nextSeq a.xl.pa 8 then .stay s
        else
          let op : PendAtomic :=
            { seq := s.nextSeq, place := .obj h a.off a.xl.pa, size := 8, op := if st then 8 else 0,
              b := BitVec.ofNat 64 (t.readS64 y), c := 0,
              target := { cls := 0, reg := 0, lane := 0, ySlot := 2, first := false, n := 0 }, loc := false,
              acquire := false, release := true, hint := 0 }
          match s.badIn a.xl.pa 8 with
          | some b => .stay (s.uncorrectable b false)
          | none =>
            let r := ((s.noteAccs t 8 accs).request t.part h a.off a.xl.pa 8 0).atomicMem t op h a.off a.xl.pa
            .ok { s := (r.1.arrival t.part (a.off / 8)).stamp, pc := none, ends := false,
                  after := t.watch false true h 8 accs }

/-- NOTIFY (R350). -/
def execNotify (b : Bool) (g : Guard) (x y c : Spec) (s : State) : Out := s.notify (encNotify b g x y c) g x y c false

/-- NOTIFY.ST (R350). -/
def execNotifySt (b : Bool) (g : Guard) (x y c : Spec) (s : State) : Out := s.notify (encNotifySt b g x y c) g x y c true

/-- A marker for an engine queue (R154). -/
def fenceOp (t : Team) (id set after : Nat) : EngineOp :=
  { id := id, part := t.part, uid := t.uid, nb := t.nb, rank := t.rank, pc := t.pc, tag := 0, hasTag := false, cw := none,
    job := .fence id set, hint := 0, after := after, cursor := 0, done := false, parked := none, asking := none }

/-- A marker for the queue of an island slot (R154). -/
def fenceReq (t : Team) (id set after since : Nat) : IslandReq :=
  { id := id, part := t.part, uid := t.uid, nb := t.nb, rank := t.rank, slot := 0, pc := t.pc, cls := 0, cap := nullCap,
    env := 0, hint := 0, line := 0, k := 0, tag := 0, pass := 0, last := false, after := after, lanes := [], helper := 0, result := [],
    bad := false, noted := [], traps := [], missed := false, flagged := false, sync := false, launch := 0, since := since, parked := none, asking := none, fence := some (id, set) }

/-- QFENCE (R351, R154, R162): a marker in each queue of its set; one that heads them all goes at once. -/
def execQfence (b : Bool) (set : BitVec 4) (s : State) : Out :=
  s.controlOp (encQfence b set) [] fun t =>
    if set = 0 then .raise s 0x45 0
    else
      let n := set.toNat
      let xs := (queuesOf n).map (t.sentTo true)
      if s.sentLate t.core xs then .stay s
      else
        let (id, s1) := s.fresh
        let op := fenceOp t id n s.nextSeq
        let rq := fenceReq t id n s.nextSeq s.clk
        let s2 := s1.mapCore t.core fun c =>
          { c with
              copyQ := c.copyQ ++ (if bit n 0 then [op] else [])
              slotA := { c.slotA with queue := c.slotA.queue ++ (if bit n 1 then [rq] else []) }
              slotB := { c.slotB with queue := c.slotB.queue ++ (if bit n 2 then [rq] else []) }
              wbQ := c.wbQ ++ (if bit n 3 then [op] else []) }
        .done ((s2.settleCore t.core).noteSent t.core xs)

/-- Words per lane by KS (R352). -/
def ksWords (ks : BitVec 2) : Nat :=
  match ks.toNat with
  | 0 => 0
  | 1 => 1
  | 2 => 2
  | _ => 4

/-- The operands of an ISEND. -/
structure Isend where
  words : List Spec
  k : Nat
  ld : Nat
  cls : Nat
  slot : Nat
  hint : Nat
  tag : Nat
  cn : Spec
  deriving DecidableEq, Repr

/-- The requests of an ISEND: each submitting lane with its five words; helper lanes submit none (R111, R192). -/
def Team.isendLanes (t : Team) (e : Isend) (m : LaneMask) : List LaneReq :=
  (lanesOf t.lanes (t.liveMask m)).map fun l => { lane := l, words := e.words.map fun r => laneWord (t.readV r) l }

/-- The checks of an ISEND at issue, in order (R353). -/
def State.isendFail (s : State) (t : Team) (e : Isend) (m : LaneMask) : Option Fail :=
  let x := s.getSlot t.core e.slot
  let plain (cause info : Nat) : Option Fail :=
    some { cause := cause, info := info, lane := 0, handle := 0, park := false, page := 0 }
  let lines := (List.range e.k).map fun j => e.ld + j
  match x.env with
  | none => plain 0x50 e.slot
  | some v =>
    if x.part ≠ t.part then plain 0x50 e.slot
    else if v.cls ≠ e.cls then plain 0x51 v.entry
    else
      match lines.find? fun i =>
        match t.lines[i]? with
        | none => false
        | some l => decide (4 < l.entries.length + l.owed.length + passCount m) with
      | some i => plain 0x1F i
      | none =>
        let c := t.readC e.cn
        match (t.isendLanes e m).find? fun l => l.kind == 0xE && !bit (Cap.rights c) 6 with
        | some l => some (failA 0x23 (Cap.base c) 26 l.lane (Cap.handle c))
        | none => if 255 ≤ t.tags[e.tag]?.getD 0 then plain 0x40 e.tag else none

/-- The entries that a pass owes to one line (R191, R192): positions that no submitting lane occupies hold zero. -/
def owedEntry (id tag pass word : Nat) (lanes : List LaneReq) : Owed :=
  { req := id, tag := tag, pass := pass, word := word,
    data := (List.range 32).map fun i => if lanes.any fun l => l.lane % 32 == i then none else some 0 }

/-- The submission of an ISEND (R353, R189, R191): owed entries, the tag, and one request per pass. Those of ISEND.SYNC bear
the release and the invalidation of R156, which come before they perform. -/
def State.isendSubmit (s : State) (t : Team) (e : Isend) (m : LaneMask) (sync : Bool) : Res :=
  let x := t.sentTo false (1 + e.slot)
  if s.sentLate t.core [x] then .stay s
  else
  let launch := ((s.launch? t.launch).map (·.startNo)).getD 0
  let env := (((s.getSlot t.core e.slot).env).map (·.digest)).getD 0
  let (id, s1) := s.fresh
  let ps := passes m
  let lanes := t.isendLanes e m
  let ctl (l : LaneReq) : Bool := l.kind == 0xE || l.kind == 0xF
  let bad := decide (8 < e.ld + e.k) || (lanes.any ctl && !lanes.all ctl)
  let ofPass (p : Nat) : List LaneReq := lanes.filter fun l => passOfLane ps l.lane == p
  let req (p : Nat) : IslandReq :=
    { id := id, part := t.part, uid := t.uid, nb := t.nb, rank := t.rank, slot := e.slot, pc := t.pc, cls := e.cls,
      env := env, hint := e.hint, cap := t.readC e.cn, line := e.ld, k := e.k, tag := e.tag, pass := p, last := p + 1 == ps.length, after := s.nextSeq,
      lanes := ofPass p, helper := t.helper, result := [], bad := bad, noted := [], traps := [], missed := false, flagged := false, sync := sync, launch := launch, since := s.clk, parked := none,
      asking := none, fence := none }
  let owe (i : Nat) (l : Line) : Line :=
    if e.ld ≤ i ∧ i < e.ld + e.k then
      Line.settled { l with owed := l.owed ++ (List.range ps.length).map fun p => owedEntry id e.tag p (i - e.ld) (ofPass p) }
    else l
  let t1 : Team := { t with lines := mapAt owe 0 t.lines, tags := modifyAt t.tags e.tag fun n => n + 1 }
  let s2 := (s1.setTeam t1).mapSlot t.core e.slot fun x => { x with queue := x.queue ++ (List.range ps.length).map req }
  .done (s2.noteSent t.core [x]).stamp

/-- ISEND (R352, R353): a slot that is reloading holds it. Neither form stops the team. -/
def State.isend (s : State) (f : Fields) (g : Guard) (e : Isend) (sync : Bool) : Out :=
  s.varyingOp f g (mapAt (fun i r => RegUse.src (i + 1) .v r) 0 e.words) fun t m =>
    if (s.getSlot t.core e.slot).reloading then .stay s
    else
      match s.isendFail t e m with
      | some x => x.res s
      | none => s.isendSubmit t e m sync

/-- The slot number of an ISEND. -/
def slotNo (b : Bool) : Nat := if b then 1 else 0

/-- ISEND (R352, R353). -/
def execIsend (b : Bool) (g : Guard) (w0 w1 w2 : Spec) (h : BitVec 2) (w3 w4 : Spec) (ks : BitVec 2) (ld cls : BitVec 3)
    (slot : Bool) (tag : BitVec 3) (cn : BitVec 4) (s : State) : Out :=
  s.isend (encIsend b g w0 w1 w2 h w3 w4 ks ld cls slot tag cn) g
    { words := [w0, w1, w2, w3, w4], k := ksWords ks, ld := ld.toNat, cls := cls.toNat, slot := slotNo slot,
      hint := h.toNat, tag := tag.toNat, cn := cn.setWidth 8 } false

/-- ISEND.SYNC (R352, R353, R156). -/
def execIsendSync (b : Bool) (g : Guard) (w0 w1 w2 : Spec) (h : BitVec 2) (w3 w4 : Spec) (ks : BitVec 2) (ld cls : BitVec 3)
    (slot : Bool) (tag : BitVec 3) (cn : BitVec 4) (s : State) : Out :=
  s.isend (encIsendSync b g w0 w1 w2 h w3 w4 ks ld cls slot tag cn) g
    { words := [w0, w1, w2, w3, w4], k := ksWords ks, ld := ld.toNat, cls := cls.toNat, slot := slotNo slot,
      hint := h.toNat, tag := tag.toNat, cn := cn.setWidth 8 } true

/-- An entry of a line is owed by a request that has parked and that no REPLAY has woken (R354). -/
def State.parkedOwer (s : State) (t : Team) (l : Line) : Bool :=
  let c := s.getCore t.core
  (c.slotA.queue ++ c.slotB.queue).any fun r =>
    r.uid == t.uid && r.flagged && l.owed.any fun o => o.req == r.id && o.pass == r.pass

/-- LSTAT (R354). -/
def State.lstat (s : State) (f : Fields) (g : Guard) (d x : Spec) : Out :=
  s.uniformOp f g [RegUse.dest 0 .s d, RegUse.src 1 .l x] true fun t =>
    let l := t.lines[x.toNat]?.getD { entries := [], owed := [] }
    .team s (t.writeS d (BitVec.ofNat 32
      (l.entries.length + l.owed.length * 2 ^ 4 + b2n (s.parkedOwer t l) * 2 ^ 8)))

/-- LSTAT, 32-bit form (R354). -/
def execLstat32 (b : Bool) (d x : Spec) (s : State) : Out := s.lstat (encLstat32 b d x) .always d x

/-- LSTAT under a Q guard (R354). -/
def execLstat64 (b : Bool) (g : Guard) (d x : Spec) (s : State) : Out := s.lstat (encLstat64 b g d x) g d x

/-- The two answers of TRICLS for one lane (R355): Pd and Pe. -/
def triClass (cull lim : Nat) (v : List Int) : Bool × Bool :=
  let c (i : Nat) : Int := v[i]?.getD 0
  let bound : Int := (2 ^ 23 : Nat)
  if v.any fun x => decide (x < -bound) || decide (bound ≤ x) then (true, false)
  else
    let a := (c 2 - c 0) * (c 5 - c 1) - (c 3 - c 1) * (c 4 - c 0)
    let drop := decide (a = 0) || (decide (cull = 1) && decide (a < 0)) || (decide (cull = 2) && decide (0 < a))
    let spread (p q r : Int) : Bool := decide ((256 * lim : Nat) ≤ max p (max q r) - min p (min q r))
    let big := spread (c 0) (c 2) (c 4) || spread (c 1) (c 3) (c 5)
    (big && !drop, drop)

/-- TRICLS (R355). -/
def execTricls (b : Bool) (g : Guard) (d : BitVec 3) (x : Spec) (cull : BitVec 2) (pe : BitVec 3) (lim : Byte) (s : State) : Out :=
  s.varyingOp (encTricls b g d x cull pe lim) g [⟨1, .v, x, false, 6, 1⟩] fun t m =>
    let rows := (List.range 6).map fun i => t.readV (if x = 0xFF then x else x + BitVec.ofNat 8 i)
    let ans (l : Nat) : Bool × Bool := triClass cull.toNat lim.toNat (rows.map fun r => (laneWord r l).toInt)
    let pd := mkMask ((List.range t.lanes).map fun l => (ans l).1)
    let p2 := mkMask ((List.range t.lanes).map fun l => (ans l).2)
    .team s ((t.writeP m d pd).writeP m pe p2)

end Sys2Proof.Machine
end

