-- ==== Sys2Proof/Machine/CrossLane.lean ====
section
/-!
DEFINITION. Predicates (R299), votes and shuffles (R300, R301), reductions, scans and barriers (R302-R308).
-/
namespace Sys2Proof.Machine

/-- PAND, 32-bit form (R299). -/
def execPand32 (b : Bool) (d y : BitVec 3) (s : State) : Out :=
  s.varyP (encPand32 b d y) .always [] d fun t => t.readP d &&& t.readP y

/-- PAND, 64-bit form (R299). -/
def execPand64 (b : Bool) (g : Guard) (d x y : BitVec 3) (s : State) : Out :=
  s.varyP (encPand64 b g d x y) g [] d fun t => t.readP x &&& t.readP y

/-- POR, 32-bit form (R299). -/
def execPor32 (b : Bool) (d y : BitVec 3) (s : State) : Out :=
  s.varyP (encPor32 b d y) .always [] d fun t => t.readP d ||| t.readP y

/-- POR, 64-bit form (R299). -/
def execPor64 (b : Bool) (g : Guard) (d x y : BitVec 3) (s : State) : Out :=
  s.varyP (encPor64 b g d x y) g [] d fun t => t.readP x ||| t.readP y

/-- PXOR, 32-bit form (R299). -/
def execPxor32 (b : Bool) (d y : BitVec 3) (s : State) : Out :=
  s.varyP (encPxor32 b d y) .always [] d fun t => t.readP d ^^^ t.readP y

/-- PXOR, 64-bit form (R299). -/
def execPxor64 (b : Bool) (g : Guard) (d x y : BitVec 3) (s : State) : Out :=
  s.varyP (encPxor64 b g d x y) g [] d fun t => t.readP x ^^^ t.readP y

/-- PANDN, 32-bit form (R299). -/
def execPandn32 (b : Bool) (d y : BitVec 3) (s : State) : Out :=
  s.varyP (encPandn32 b d y) .always [] d fun t => t.readP d &&& ~~~(t.readP y)

/-- PANDN, 64-bit form (R299). -/
def execPandn64 (b : Bool) (g : Guard) (d x y : BitVec 3) (s : State) : Out :=
  s.varyP (encPandn64 b g d x y) g [] d fun t => t.readP x &&& ~~~(t.readP y)

/-- PNOT, 32-bit form (R299). -/
def execPnot32 (b : Bool) (d x : BitVec 3) (s : State) : Out :=
  s.varyP (encPnot32 b d x) .always [] d fun t => ~~~(t.readP x)

/-- PNOT, 64-bit form (R299). -/
def execPnot64 (b : Bool) (g : Guard) (d x : BitVec 3) (s : State) : Out :=
  s.varyP (encPnot64 b g d x) g [] d fun t => ~~~(t.readP x)

/-- PMOV, 32-bit form (R299). -/
def execPmov32 (b : Bool) (d x : BitVec 3) (s : State) : Out :=
  s.varyP (encPmov32 b d x) .always [] d fun t => t.readP x

/-- PMOV, 64-bit form (R299). -/
def execPmov64 (b : Bool) (g : Guard) (d x : BitVec 3) (s : State) : Out :=
  s.varyP (encPmov64 b g d x) g [] d fun t => t.readP x

/-- PMOV.BIT: bit b[4:0] of Va[l] (R299). -/
def execPmovBit (b : Bool) (g : Guard) (d : BitVec 3) (x y : Opd) (s : State) : Out :=
  s.varyP (encPmovBit b g d x y) g (opdUse 1 x ++ opdUse 2 y) d fun t =>
    mkMask (List.zipWith (fun (v : Word) (i : Word) => v.getLsbD (i.toNat % 32)) (t.readOpd immZext x) (t.readOpd immZext y))

/-- PMOV.Q: Qa in every lane (R299). -/
def execPmovQ (b : Bool) (g : Guard) (d x : BitVec 3) (s : State) : Out :=
  s.varyP (encPmovQ b g d x) g [] d fun t => if t.readQ x then BitVec.allOnes 1024 else 0

/-- PMOV.HELP, 32-bit form: the helper lanes (R299). -/
def execPmovHelp32 (b : Bool) (d : BitVec 3) (s : State) : Out :=
  s.varyP (encPmovHelp32 b d) .always [] d fun t => t.helper

/-- PMOV.HELP, 64-bit form (R299). -/
def execPmovHelp64 (b : Bool) (g : Guard) (d : BitVec 3) (s : State) : Out :=
  s.varyP (encPmovHelp64 b g d) g [] d fun t => t.helper

/-- VOTE.ALL (R300). -/
def execVoteAll (b : Bool) (g : Guard) (d x : BitVec 3) (s : State) : Out :=
  s.selectOp (encVoteAll b g d x) g [] fun t m => .team s (t.writeQ d (m &&& ~~~(t.readP x) == 0))

/-- VOTE.ANY (R300). -/
def execVoteAny (b : Bool) (g : Guard) (d x : BitVec 3) (s : State) : Out :=
  s.selectOp (encVoteAny b g d x) g [] fun t m => .team s (t.writeQ d (m &&& t.readP x != 0))

/-- VOTE.BAL: word b[4:0] of the mask (selection ∧ Pa) (R300). -/
def execVoteBal (b : Bool) (g : Guard) (d : Spec) (x : BitVec 3) (y : Spec) (s : State) : Out :=
  s.selectOp (encVoteBal b g d x y) g [RegUse.dest 0 .s d, RegUse.src 2 .s y] fun t m =>
    let i := (t.readS y).toNat % 32
    .team s (t.writeS d (if t.lanes / 32 ≤ i then 0 else maskWord (m &&& t.readP x) i))

/-- VOTE.CNT: the number of lanes of (selection ∧ Pa) (R300). -/
def execVoteCnt (b : Bool) (g : Guard) (d : Spec) (x : BitVec 3) (s : State) : Out :=
  s.selectOp (encVoteCnt b g d x) g [RegUse.dest 0 .s d] fun t m =>
    .team s (t.writeS d (BitVec.ofNat 32 (popMask t.lanes (m &&& t.readP x))))

/-- SHFL over the source lane of each lane; a source outside the team or the execution mask gives the lane's own value
(R301). -/
def State.shuffle (s : State) (f : Fields) (g : Guard) (us : List RegUse) (d : Spec) (src : Team → List Word)
    (lane : Team → Nat → Int) : Out :=
  s.varyingOp f g (RegUse.dest 0 .v d :: us) fun t m =>
    let row := src t
    let pick (l : Nat) (own : Word) : Word :=
      let k := lane t l
      if 0 ≤ k ∧ k < t.lanes ∧ m.getLsbD k.toNat then laneWord row k.toNat else own
    .team s (t.writeV m d (mapAt pick 0 row))

/-- b[9:0] of a shuffle in a lane (R301). -/
def Team.shuffleBy (t : Team) (y : Opd) (l : Nat) : Nat := (laneWord (t.readOpd immZext y) l).toNat % 1024

/-- SHFL.IDX (R301). -/
def execShflIdx (b : Bool) (g : Guard) (d : Spec) (x y : Opd) (s : State) : Out :=
  s.shuffle (encShflIdx b g d x y) g (opdUse 1 x ++ opdUse 2 y) d (fun t => t.readOpd immZext x) fun t l =>
    (t.shuffleBy y l : Int)

/-- SHFL.UP (R301). -/
def execShflUp (b : Bool) (g : Guard) (d : Spec) (x y : Opd) (s : State) : Out :=
  s.shuffle (encShflUp b g d x y) g (opdUse 1 x ++ opdUse 2 y) d (fun t => t.readOpd immZext x) fun t l =>
    (l : Int) - t.shuffleBy y l

/-- SHFL.DN (R301). -/
def execShflDn (b : Bool) (g : Guard) (d : Spec) (x y : Opd) (s : State) : Out :=
  s.shuffle (encShflDn b g d x y) g (opdUse 1 x ++ opdUse 2 y) d (fun t => t.readOpd immZext x) fun t l =>
    (l : Int) + t.shuffleBy y l

/-- SHFL.XOR (R301). -/
def execShflXor (b : Bool) (g : Guard) (d : Spec) (x y : Opd) (s : State) : Out :=
  s.shuffle (encShflXor b g d x y) g (opdUse 1 x ++ opdUse 2 y) d (fun t => t.readOpd immZext x) fun t l =>
    ((l ^^^ t.shuffleBy y l : Nat) : Int)

/-- SHFL.QX (R301). -/
def execShflQx (b : Bool) (g : Guard) (d x : Spec) (s : State) : Out :=
  s.shuffle (encShflQx b g d x) g [RegUse.src 1 .v x] d (fun t => t.readV x) fun _ l => ((l ^^^ 1 : Nat) : Int)

/-- SHFL.QY (R301). -/
def execShflQy (b : Bool) (g : Guard) (d x : Spec) (s : State) : Out :=
  s.shuffle (encShflQy b g d x) g [RegUse.src 1 .v x] d (fun t => t.readV x) fun _ l => ((l ^^^ 2 : Nat) : Int)

/-- REDX: node(10, 0) over the selection (R302, R303). -/
def execRedx (b : Bool) (g : Guard) (o : BitVec 3) (d x : Spec) (s : State) : Out :=
  s.selectOp (encRedx b g o d x) g [RegUse.dest 0 .s d, RegUse.src 1 .v x] fun t m =>
    let n := reduceRow o.toNat m (t.readV x)
    .ok { s := s.setTeam ((t.writeS d n.val).raise n.exc), pc := none, ends := false, after := n.exc.causes t.prm.fptrap }

/-- SCAN: prefix(l + 1), or prefix(l) with .EXCL (R302, R304). -/
def execScan (b : Bool) (g : Guard) (o : BitVec 3) (d x : Spec) (excl : Bool) (s : State) : Out :=
  s.varyingOp (encScan b g o d x excl) g [RegUse.dest 0 .v d, RegUse.src 1 .v x] fun t m =>
    let ns := scanRow o.toNat excl m (t.readV x)
    let r := raisedIn m 0 (ns.map fun n => n.exc.flags)
    .ok { s := s.setTeam ((t.writeV m d (ns.map (·.val))).raise r), pc := none, ends := false,
          after := r.causes t.prm.fptrap }

/-- Every earlier load of the team has performed and every earlier store has drained (R150): the precondition of a
release. -/
def Team.released? (t : Team) : Bool := t.loads.isEmpty && t.atomics.isEmpty && t.storeQ.isEmpty && t.winStores.isEmpty

/-- An arrival that R308 refuses: the instance holds an arrival with another SUB or payload class, or a team of the span
waits at an instance of another rectangle that contains the arriving team. -/
def State.barrierMismatch (s : State) (t : Team) (rect : Nat × Nat × Nat × Nat) (sub cls : Nat) : Bool :=
  let (ox, oy, sw, sh) := rect
  let key (e : Nat × Nat × Nat × Nat × Nat) : Bool := decide ((e.1, e.2.1, e.2.2.1, e.2.2.2.1) = rect)
  let n := ((t.barrs.find? key).map (·.2.2.2.2)).getD 0
  match s.nb? t.nb with
  | none => false
  | some nb =>
    (nb.barriers.any fun b =>
      decide ((b.ox, b.oy, b.sw, b.sh, b.n) = (ox, oy, sw, sh, n)) &&
        b.arrivals.any fun a => decide (a.sub ≠ sub) || decide (a.cls ≠ cls)) ||
    (nb.barriers.any fun b =>
      decide ((b.ox, b.oy, b.sw, b.sh) ≠ rect) && (t.prm.spanRanks b.ox b.oy b.sw b.sh).contains t.rank &&
        b.arrivals.any fun a => !b.departed.contains a.rank && (t.prm.spanRanks ox oy sw sh).contains a.rank)

/-- BARR (R305-R308): the span must be one, the release must be satisfied, the arrival must fit its instance; then the team arrives and waits. -/
def execBarr (b : Bool) (o : BitVec 3) (d : Spec) (x : Opd) (span : Spec) (s : State) : Out :=
  s.runTeam (encBarr b o d x span) (if o = 7 then [] else RegUse.dest 0 .s d :: opdUse 1 x) (decide (o ≠ 7))
    (fun _ => none) fun t =>
    match t.prm.spanOf t.rank span with
    | none => .raise s 0x1C span.toNat
    | some rect =>
      let cls : Nat := match x with
        | .s _ => 0
        | .v _ => 1
        | .a _ => 0
        | .imm _ => 0
      if !t.released? then .stay s
      else if s.barrierMismatch t rect o.toNat cls then .raise s 0x1D span.toNat
      else
        let own : TNode := match x with
          | .v r => reduceRow o.toNat t.launched (t.readV r)
          | .s r => TNode.leaf 0 (t.readS r)
          | .a _ => TNode.ident 0
          | .imm _ => TNode.ident 0
        let a : Arrival :=
          if o = 7 then
            { rank := t.rank, lanes := popMask t.lanes t.launched, sub := 7, cls := cls, payload := 0, exc := 0, causes := [] }
          else
            { rank := t.rank, lanes := popMask t.lanes t.launched, sub := o.toNat, cls := cls, payload := own.val,
              exc := own.exc.flags, causes := own.exc.causes t.prm.fptrap }
        .sleep (s.arrive t rect span d o.toNat a)

end Sys2Proof.Machine
end

