-- ==== Sys2Proof/Machine/Display.lean ====
section
/-!
DEFINITION. The display outputs (R24, R25): their registers, flips through the notify page, the vertical blank and scan-out.
-/
namespace Sys2Proof.Machine

def State.mapOutput (s : State) (o : Nat) (f : Output → Output) : State := { s with outputs := modifyAt s.outputs o f }

def State.getOutput (s : State) (o : Nat) : Output := s.outputs[o]?.getD Output.reset

/-- Bytes in a pixel (R24). -/
def pixelSize (fmt : Nat) : Nat := if fmt = 2 then 8 else 4

/-- Width, height and PITCH of a DGEOM value. -/
def geomWidth (g : DWord) : Nat := bits g.toNat 15 0 + 1
def geomHeight (g : DWord) : Nat := bits g.toNat 31 16 + 1
def geomPitch (g : DWord) : Nat := bits g.toNat 63 32

/-- A write to a display register (R24): `off` is its offset in the output's block. -/
def Output.write (x : Output) (off v : Nat) : Output :=
  match off with
  | 0x00 =>
    let en := bit v 0
    if 2 < bits v 7 4 then x
    else if x.en then { x with en := en }
    else { x with en := en, fmt := bits v 7 4, vblanks := if en then 0 else x.vblanks }
  | 0x08 => { x with part := bits v 7 0, handle := bits v 27 8 }
  | 0x10 => { x with geom := BitVec.ofNat 64 v }
  | 0x18 => { x with base := bits v 47 0 }
  | 0x40 => if x.en then x else { x with dclk := BitVec.ofNat 32 v }
  | 0x48 => if x.en then x else { x with dhtim := BitVec.ofNat 64 v }
  | 0x50 => if x.en then x else { x with dvtim := BitVec.ofNat 64 v }
  | 0x58 => if x.en then x else { x with dpol := BitVec.ofNat 2 v }
  | _ => x

/-- DSTAT (R24). -/
def Output.dstat (x : Output) : Nat := x.vblanks + b2n x.flip * 2 ^ 32 + b2n x.reject * 2 ^ 33 + b2n x.scanErr * 2 ^ 34

/-- A display register as it reads (R24). -/
def Output.read (x : Output) (off : Nat) : Nat :=
  match off with
  | 0x00 => b2n x.en + x.fmt * 2 ^ 4
  | 0x08 => x.part + x.handle * 2 ^ 8
  | 0x10 => x.geom.toNat
  | 0x18 => x.base
  | 0x20 => x.dstat
  | 0x40 => x.dclk.toNat
  | 0x48 => x.dhtim.toNat
  | 0x50 => x.dvtim.toNat
  | 0x58 => x.dpol.toNat
  | _ => 0

/-- A read of DSTAT clears the sticky bits (R24). -/
def State.clearDstat (s : State) (o : Nat) : State := s.mapOutput o fun x => { x with reject := false, scanErr := false }

/-- DSTAT_READ (R24). -/
def execDstatRead (o : Nat) (s : State) : Out :=
  .next { s.clearDstat o with busRead := BitVec.ofNat 64 (s.getOutput o).dstat, busFault := false }

/-- The partition may flip the output: DBIND names it and EN is 1 (R25). -/
def State.mayFlip (s : State) (p o : Nat) : Bool := decide (o < 2) && (s.getOutput o).en && (s.getOutput o).part == p

/-- A write to FLIPHND (R25, R56). -/
def State.writeFlipHnd (s : State) (p o v : Nat) : State :=
  if s.mayFlip p o then s.mapPart p fun x => { x with flipHnd := modifyAt x.flipHnd o fun _ => bits v 19 0 } else s

/-- A write to FLIPOFF (R25, R56): it sets FLIP pending. -/
def State.writeFlipOff (s : State) (p o v : Nat) : State :=
  if s.mayFlip p o then
    (s.mapPart p fun x => { x with flipOff := modifyAt x.flipOff o fun _ => bits v 47 0 }).mapOutput o fun x => { x with flip := true }
  else s

/-- FLIPHND_WRITE (R25). -/
def execFlipHndWrite (p o : Nat) (value : Word) (s : State) : Out := .next (s.writeFlipHnd p o value.toNat)

/-- FLIPOFF_WRITE (R25). -/
def execFlipOffWrite (p o : Nat) (value : DWord) (s : State) : Out := .next (s.writeFlipOff p o value.toNat)

/-- The checks of a flip (R25), for a frame of the geometry that is in force or comes into force at the blank. -/
def State.flipOk (s : State) (p h off : Nat) (geom : DWord) : Bool :=
  match s.lookupHandle p h with
  | .error _ => false
  | .ok (_, d) => bit (ODesc.ceil d) 0 && off % 256 == 0 && decide (off + geomPitch geom * geomHeight geom ≤ ODesc.length d)

/-- The bad block that a pending flip's look at its handle meets (R11). -/
def State.flipBad (s : State) (o : Nat) (x : Output) : Option Nat :=
  if x.flip then s.walkBad x.part ((s.getPart x.part).flipHnd[o]?.getD 0) else none

/-- DISPLAY_VBLANK (R24, R25): the registers come into force, and then a pending flip is checked: that of the partition that DBIND
now names, against the geometry that now comes into force (DESIGN CHOICE, log entry 83). -/
def execDisplayVblank (o : Nat) (s : State) : Out :=
  let x := s.getOutput o
  if 2 ≤ o ∨ !x.en then .next s
  else
    let y := { x with
      vblanks := (x.vblanks + 1) % 2 ^ 32, curPart := x.part, curHandle := x.handle, curGeom := x.geom, curBase := x.base }
    let h := (s.getPart x.part).flipHnd[o]?.getD 0
    let off := (s.getPart x.part).flipOff[o]?.getD 0
    let z : Output :=
      if !x.flip then y
      else if s.flipOk x.part h off x.geom then
        { y with flip := false, handle := h, base := off, curHandle := h, curBase := off }
      else { y with flip := false, reject := true }
    .next (s.unlessBad (s.flipBad o x) (s.mapOutput o fun _ => z))

/-- The address of a run of bytes of the frame that an output scans out, which crosses no page (R24). For partition 0 all of DBASE
is the address, and a PART above 128 names a partition that has nothing (DESIGN CHOICE, log entry 83). -/
def State.scanAddr (s : State) (x : Output) (off n : Nat) : Option Nat :=
  if x.curPart = 0 then (if off + n ≤ s.capacity then some off else none)
  else
    match s.translate x.curPart x.curHandle off n [20] 0x30 with
    | .ok y => some y.pa
    | .error _ => none

/-- A bad block that the walk to a run of bytes of the frame meets in the tables (R11). -/
def State.scanBad (s : State) (x : Output) (off n : Nat) : Option Nat :=
  if x.curPart = 0 then none
  else
    match s.translate x.curPart x.curHandle off n [20] 0x30 with
    | .ok _ => none
    | .error e => if e.cause = 0x39 then some e.info else none

/-- One read of scan-out (R10, R11, R24, R130): a failing one sets SCANERR. -/
def State.scanRead (s : State) (o : Nat) (x : Output) (off n : Nat) : State :=
  let err (s : State) : State := s.mapOutput o fun x => { x with scanErr := true }
  match s.scanAddr x off n with
  | none => (err s).unlessBad (s.scanBad x off n) (err s)
  | some pa =>
    match s.badIn pa n with
    | none => if x.curPart = 0 then s else s.touch x.curPart x.curHandle off n 0
    | some a => (err s).uncorrectable a false

/-- SCANOUT_REFRESH (R24): the frame in force is read in raster order. The pixels go to the display, which is no part of the
machine. -/
def execScanoutRefresh (o : Nat) (s : State) : Out :=
  let x := s.getOutput o
  if 2 ≤ o ∨ !x.en then .next s
  else
    let n := geomWidth x.curGeom * pixelSize x.fmt
    .next ((List.range (geomHeight x.curGeom)).foldl (fun (s : State) y =>
      (pieces64 (n + 1) (x.curBase + y * geomPitch x.curGeom) (List.replicate n 0)).foldl (fun (s : State) c =>
        s.scanRead o x c.1 c.2.length) s) s)

end Sys2Proof.Machine
end

