-- ==== Sys2Proof/Machine/FloatOps.lean ====
section
/-!
DEFINITION. The floating-point, special-function, random-number and conversion instructions, OP 0x38-0x4E (R310-R321).
-/
namespace Sys2Proof.Machine

/-- FADD, 32-bit form (R311). -/
def execFadd32 (b : Bool) (d y : Spec) (s : State) : Out :=
  s.varyFp (encFadd32 b d y) .always [RegUse.src 0 .v d, RegUse.src 1 .v y] d fun t =>
    List.zipWith (fAdd 0) (t.readV d) (t.readV y)

/-- FADD, 64-bit form (R311). -/
def execFadd64 (b : Bool) (g : Guard) (d : Spec) (x y : Opd) (m : BitVec 2) (s : State) : Out :=
  s.varyFp (encFadd64 b g d x y m) g (opdUse 1 x ++ opdUse 2 y) d fun t =>
    List.zipWith (fAdd m) (t.readOpd immF32 x) (t.readOpd immF32 y)

/-- FSUB, 32-bit form (R311). -/
def execFsub32 (b : Bool) (d y : Spec) (s : State) : Out :=
  s.varyFp (encFsub32 b d y) .always [RegUse.src 0 .v d, RegUse.src 1 .v y] d fun t =>
    List.zipWith (fSub 0) (t.readV d) (t.readV y)

/-- FSUB, 64-bit form (R311). -/
def execFsub64 (b : Bool) (g : Guard) (d : Spec) (x y : Opd) (m : BitVec 2) (s : State) : Out :=
  s.varyFp (encFsub64 b g d x y m) g (opdUse 1 x ++ opdUse 2 y) d fun t =>
    List.zipWith (fSub m) (t.readOpd immF32 x) (t.readOpd immF32 y)

/-- FMUL, 32-bit form (R311). -/
def execFmul32 (b : Bool) (d y : Spec) (s : State) : Out :=
  s.varyFp (encFmul32 b d y) .always [RegUse.src 0 .v d, RegUse.src 1 .v y] d fun t =>
    List.zipWith (fMul 0) (t.readV d) (t.readV y)

/-- FMUL, 64-bit form (R311). -/
def execFmul64 (b : Bool) (g : Guard) (d : Spec) (x y : Opd) (m : BitVec 2) (s : State) : Out :=
  s.varyFp (encFmul64 b g d x y m) g (opdUse 1 x ++ opdUse 2 y) d fun t =>
    List.zipWith (fMul m) (t.readOpd immF32 x) (t.readOpd immF32 y)

/-- FFMA (R311). -/
def execFfma (b : Bool) (g : Guard) (d : Spec) (x y : Opd) (z : Spec) (m : BitVec 2) (s : State) : Out :=
  s.varyFp (encFfma b g d x y z m) g (opdUse 1 x ++ opdUse 2 y ++ [RegUse.src 3 .v z]) d fun t =>
    List.zipWith (fun (p : Word × Word) c => fFma m p.1 p.2 c)
      (List.zipWith Prod.mk (t.readOpd immF32 x) (t.readOpd immF32 y)) (t.readV z)

/-- FMIN, 32-bit form (R311). -/
def execFmin32 (b : Bool) (d y : Spec) (s : State) : Out :=
  s.varyFp (encFmin32 b d y) .always [RegUse.src 0 .v d, RegUse.src 1 .v y] d fun t =>
    List.zipWith (fMinMax false) (t.readV d) (t.readV y)

/-- FMIN, 64-bit form (R311). -/
def execFmin64 (b : Bool) (g : Guard) (d : Spec) (x y : Opd) (s : State) : Out :=
  s.varyFp (encFmin64 b g d x y) g (opdUse 1 x ++ opdUse 2 y) d fun t =>
    List.zipWith (fMinMax false) (t.readOpd immF32 x) (t.readOpd immF32 y)

/-- FMAX, 32-bit form (R311). -/
def execFmax32 (b : Bool) (d y : Spec) (s : State) : Out :=
  s.varyFp (encFmax32 b d y) .always [RegUse.src 0 .v d, RegUse.src 1 .v y] d fun t =>
    List.zipWith (fMinMax true) (t.readV d) (t.readV y)

/-- FMAX, 64-bit form (R311). -/
def execFmax64 (b : Bool) (g : Guard) (d : Spec) (x y : Opd) (s : State) : Out :=
  s.varyFp (encFmax64 b g d x y) g (opdUse 1 x ++ opdUse 2 y) d fun t =>
    List.zipWith (fMinMax true) (t.readOpd immF32 x) (t.readOpd immF32 y)

/-- FABS, 32-bit form: bit 31 cleared (R311). -/
def execFabs32 (b : Bool) (d x : Spec) (s : State) : Out :=
  s.vary1 (encFabs32 b d x) .always d x fun a => a &&& 0x7FFFFFFF

/-- FABS, 64-bit form (R311). -/
def execFabs64 (b : Bool) (g : Guard) (d x : Spec) (s : State) : Out :=
  s.vary1 (encFabs64 b g d x) g d x fun a => a &&& 0x7FFFFFFF

/-- FNEG, 32-bit form: bit 31 inverted (R311). -/
def execFneg32 (b : Bool) (d x : Spec) (s : State) : Out :=
  s.vary1 (encFneg32 b d x) .always d x fun a => a ^^^ 0x80000000

/-- FNEG, 64-bit form (R311). -/
def execFneg64 (b : Bool) (g : Guard) (d x : Spec) (s : State) : Out :=
  s.vary1 (encFneg64 b g d x) g d x fun a => a ^^^ 0x80000000

/-- FCPSGN, 32-bit form (R311). -/
def execFcpsgn32 (b : Bool) (d y : Spec) (s : State) : Out :=
  s.vary2a (encFcpsgn32 b d y) d y fCpsgn

/-- FCPSGN, 64-bit form (R311). -/
def execFcpsgn64 (b : Bool) (g : Guard) (d : Spec) (x y : Opd) (s : State) : Out :=
  s.vary2 (encFcpsgn64 b g d x y) g d x y immF32 fCpsgn

/-- FSETP.cc (R312). -/
def execFsetp (b : Bool) (g : Guard) (cc d : BitVec 3) (x y : Opd) (s : State) : Out :=
  s.varyingOp (encFsetp b g cc d x y) g (opdUse 1 x ++ opdUse 2 y) fun t m =>
    let r := List.zipWith (fSetp cc) (t.readOpd immF32 x) (t.readOpd immF32 y)
    let q := raisedIn m 0 (r.map (·.2))
    .ok { s := s.setTeam ((t.writeP m d (mkMask (r.map (·.1)))).raise q), pc := none, ends := false,
          after := q.causes t.prm.fptrap }

/-- FRND, 32-bit form (R311). -/
def execFrnd32 (b : Bool) (d x : Spec) (s : State) : Out :=
  s.varyFp (encFrnd32 b d x) .always [RegUse.src 1 .v x] d fun t => (t.readV x).map (fRnd 0)

/-- FRND, 64-bit form (R311). -/
def execFrnd64 (b : Bool) (g : Guard) (d x : Spec) (m : BitVec 2) (s : State) : Out :=
  s.varyFp (encFrnd64 b g d x m) g [RegUse.src 1 .v x] d fun t => (t.readV x).map (fRnd m)

/-- FCLASS, 32-bit form (R313). -/
def execFclass32 (b : Bool) (d x : Spec) (s : State) : Out :=
  s.vary1 (encFclass32 b d x) .always d x fClass

/-- FCLASS, 64-bit form (R313). -/
def execFclass64 (b : Bool) (g : Guard) (d x : Spec) (s : State) : Out :=
  s.vary1 (encFclass64 b g d x) g d x fClass

/-- FSCL, 32-bit form (R311). -/
def execFscl32 (b : Bool) (d y : Spec) (s : State) : Out :=
  s.varyFp (encFscl32 b d y) .always [RegUse.src 0 .v d, RegUse.src 1 .v y] d fun t =>
    List.zipWith (fun a n => fScl 0 a n.toInt) (t.readV d) (t.readV y)

/-- FSCL, 64-bit form; IMM8 is the integer itself (R310, R311). -/
def execFscl64 (b : Bool) (g : Guard) (d : Spec) (x y : Opd) (m : BitVec 2) (s : State) : Out :=
  s.varyFp (encFscl64 b g d x y m) g (opdUse 1 x ++ opdUse 2 y) d fun t =>
    List.zipWith (fun a n => fScl m a n.toInt) (t.readOpd immF32 x) (t.readOpd immSext y)

/-- HADD2, 32-bit form (R314). -/
def execHadd232 (b : Bool) (d y : Spec) (s : State) : Out :=
  s.varyFp (encHadd232 b d y) .always [RegUse.src 0 .v d, RegUse.src 1 .v y] d fun t =>
    List.zipWith (hAdd2 0) (t.readV d) (t.readV y)

/-- HADD2, 64-bit form (R314). -/
def execHadd264 (b : Bool) (g : Guard) (d : Spec) (x y : Opd) (m : BitVec 2) (s : State) : Out :=
  s.varyFp (encHadd264 b g d x y m) g (opdUse 1 x ++ opdUse 2 y) d fun t =>
    List.zipWith (hAdd2 m) (t.readOpd immF16x2 x) (t.readOpd immF16x2 y)

/-- HMUL2, 32-bit form (R314). -/
def execHmul232 (b : Bool) (d y : Spec) (s : State) : Out :=
  s.varyFp (encHmul232 b d y) .always [RegUse.src 0 .v d, RegUse.src 1 .v y] d fun t =>
    List.zipWith (hMul2 0) (t.readV d) (t.readV y)

/-- HMUL2, 64-bit form (R314). -/
def execHmul264 (b : Bool) (g : Guard) (d : Spec) (x y : Opd) (m : BitVec 2) (s : State) : Out :=
  s.varyFp (encHmul264 b g d x y m) g (opdUse 1 x ++ opdUse 2 y) d fun t =>
    List.zipWith (hMul2 m) (t.readOpd immF16x2 x) (t.readOpd immF16x2 y)

/-- HFMA2 (R314). -/
def execHfma2 (b : Bool) (g : Guard) (d : Spec) (x y : Opd) (z : Spec) (m : BitVec 2) (s : State) : Out :=
  s.varyFp (encHfma2 b g d x y z m) g (opdUse 1 x ++ opdUse 2 y ++ [RegUse.src 3 .v z]) d fun t =>
    List.zipWith (fun (p : Word × Word) c => hFma2 m p.1 p.2 c)
      (List.zipWith Prod.mk (t.readOpd immF16x2 x) (t.readOpd immF16x2 y)) (t.readV z)

/-- FRCP, 32-bit form (R315). -/
def execFrcp32 (b : Bool) (d x : Spec) (s : State) : Out :=
  s.varyFp (encFrcp32 b d x) .always [RegUse.src 1 .v x] d fun t => (t.readV x).map (fRcp 0)

/-- FRCP, 64-bit form (R315). -/
def execFrcp64 (b : Bool) (g : Guard) (d x : Spec) (m : BitVec 2) (s : State) : Out :=
  s.varyFp (encFrcp64 b g d x m) g [RegUse.src 1 .v x] d fun t => (t.readV x).map (fRcp m)

/-- FRSQ, 32-bit form (R315). -/
def execFrsq32 (b : Bool) (d x : Spec) (s : State) : Out :=
  s.varyFp (encFrsq32 b d x) .always [RegUse.src 1 .v x] d fun t => (t.readV x).map (fRsq 0)

/-- FRSQ, 64-bit form (R315). -/
def execFrsq64 (b : Bool) (g : Guard) (d x : Spec) (m : BitVec 2) (s : State) : Out :=
  s.varyFp (encFrsq64 b g d x m) g [RegUse.src 1 .v x] d fun t => (t.readV x).map (fRsq m)

/-- FSQRT, 32-bit form (R315). -/
def execFsqrt32 (b : Bool) (d x : Spec) (s : State) : Out :=
  s.varyFp (encFsqrt32 b d x) .always [RegUse.src 1 .v x] d fun t => (t.readV x).map (fSqrt 0)

/-- FSQRT, 64-bit form (R315). -/
def execFsqrt64 (b : Bool) (g : Guard) (d x : Spec) (m : BitVec 2) (s : State) : Out :=
  s.varyFp (encFsqrt64 b g d x m) g [RegUse.src 1 .v x] d fun t => (t.readV x).map (fSqrt m)

/-- FEXP2, 32-bit form (R315). -/
def execFexp232 (b : Bool) (d x : Spec) (s : State) : Out :=
  s.varyFp (encFexp232 b d x) .always [RegUse.src 1 .v x] d fun t => (t.readV x).map (fExp2)

/-- FEXP2, 64-bit form (R315). -/
def execFexp264 (b : Bool) (g : Guard) (d x : Spec) (s : State) : Out :=
  s.varyFp (encFexp264 b g d x) g [RegUse.src 1 .v x] d fun t => (t.readV x).map (fExp2)

/-- FLOG2, 32-bit form (R316, log entry 5). -/
def execFlog232 (b : Bool) (d x : Spec) (s : State) : Out :=
  s.varyFp (encFlog232 b d x) .always [RegUse.src 1 .v x] d fun t => (t.readV x).map (fLog2)

/-- FLOG2, 64-bit form (R316, log entry 5). -/
def execFlog264 (b : Bool) (g : Guard) (d x : Spec) (s : State) : Out :=
  s.varyFp (encFlog264 b g d x) g [RegUse.src 1 .v x] d fun t => (t.readV x).map (fLog2)

/-- FSIN, 32-bit form (R316, log entry 5). -/
def execFsin32 (b : Bool) (d x : Spec) (s : State) : Out :=
  s.varyFp (encFsin32 b d x) .always [RegUse.src 1 .v x] d fun t => (t.readV x).map (fTrig false)

/-- FSIN, 64-bit form (R316, log entry 5). -/
def execFsin64 (b : Bool) (g : Guard) (d x : Spec) (s : State) : Out :=
  s.varyFp (encFsin64 b g d x) g [RegUse.src 1 .v x] d fun t => (t.readV x).map (fTrig false)

/-- FCOS, 32-bit form (R316, log entry 5). -/
def execFcos32 (b : Bool) (d x : Spec) (s : State) : Out :=
  s.varyFp (encFcos32 b d x) .always [RegUse.src 1 .v x] d fun t => (t.readV x).map (fTrig true)

/-- FCOS, 64-bit form (R316, log entry 5). -/
def execFcos64 (b : Bool) (g : Guard) (d x : Spec) (s : State) : Out :=
  s.varyFp (encFcos64 b g d x) g [RegUse.src 1 .v x] d fun t => (t.readV x).map (fTrig true)

/-- FRAND.U32, 32-bit form (R317). -/
def execFrandU3232 (b : Bool) (d : Spec) (s : State) : Out :=
  s.frand (encFrandU3232 b d) .always d id

/-- FRAND.U32, 64-bit form (R317). -/
def execFrandU3264 (b : Bool) (g : Guard) (d : Spec) (s : State) : Out :=
  s.frand (encFrandU3264 b g d) g d id

/-- FRAND.F32, 32-bit form (R317). -/
def execFrandF3232 (b : Bool) (d : Spec) (s : State) : Out :=
  s.frand (encFrandF3232 b d) .always d frandF32

/-- FRAND.F32, 64-bit form (R317). -/
def execFrandF3264 (b : Bool) (g : Guard) (d : Spec) (s : State) : Out :=
  s.frand (encFrandF3264 b g d) g d frandF32

/-- CVT; an out-of-range .S32T or .U32T raises CONVERT_RANGE after every lane is written (R318, R319). -/
def execCvt (b : Bool) (g : Guard) (d x pair : Spec) (m : BitVec 2) (s : State) : Out :=
  s.varyingOp (encCvt b g d x pair m) g [RegUse.dest 0 .v d, RegUse.src 1 .v x] fun t ms =>
    let r := (t.readV x).map (cvtWord pair m)
    let q := raisedIn ms 0 (r.map (·.2.1))
    let bad := (List.range t.lanes).find? fun l => ms.getLsbD l && ((r[l]?).map (·.2.2)).getD false
    let range : List Cause := match bad with
      | some l => [{ code := 0x5E, info := 0, lane := l, handle := 0, next := false }]
      | none => []
    .ok { s := s.setTeam ((t.writeV ms d (r.map (·.1))).raise q), pc := none, ends := false,
          after := q.causes t.prm.fptrap ++ range }

/-- CVTP.PACK (R320). -/
def execCvtpPack (b : Bool) (g : Guard) (d x y : Spec) (el : BitVec 4) (m : BitVec 2) (s : State) : Out :=
  s.varyFp (encCvtpPack b g d x y el m) g [RegUse.src 1 .v x, RegUse.src 2 .v y] d fun t =>
    List.zipWith (packWord el.toNat m) (t.readV x) (t.readV y)

/-- CVTP.PACKSR (R320, R321). -/
def execCvtpPacksr (b : Bool) (g : Guard) (d x y : Spec) (el : BitVec 4) (s : State) : Out :=
  s.varyFp (encCvtpPacksr b g d x y el) g [RegUse.src 1 .v x, RegUse.src 2 .v y] d fun t =>
    List.zipWith (packSr el.toNat) (t.readV x) (t.readV y)

/-- CVTP.UNPACK (R320). -/
def execCvtpUnpack (b : Bool) (g : Guard) (d x : Spec) (j : BitVec 2) (el : BitVec 4) (s : State) : Out :=
  s.varyFp (encCvtpUnpack b g d x j el) g [RegUse.src 1 .v x] d fun t =>
    (t.readV x).map (unpackWord el.toNat j.toNat)

end Sys2Proof.Machine
end

