-- ==== Sys2Proof/Machine/Host.lean ====
section
/-!
DEFINITION. What the application cores reach (R12, R13): GDDR7 through the homes, the notify aperture (R56) and the system registers
(R9, R17, R24, R29, R33, R36, R44, R50, R72, R131, R171), with who may write each and when.
-/
namespace Sys2Proof.Machine

/-! ## GDDR7 (R13, R121, R139) -/

/-- The pages of a partition's objects that lie at an address: object index, descriptor, page number and frame-entry address. -/
def State.pagesAt (s : State) (p pa : Nat) : List (Nat × Nat × Nat × Nat) :=
  ((s.descs p).filter fun e => bit e.2 224 && decide (ODesc.ownerOf e.2 = p)).flatMap fun e =>
    (List.range (ODesc.pages e.2)).filterMap fun i =>
      let ea := ODesc.faAddr e.2 + 8 * i
      let f := s.homeNat ea 8
      if bit f 0 ∧ bits f 39 16 * 2 ^ 16 / 2 ^ ODesc.pageShift e.2 = pa / 2 ^ ODesc.pageShift e.2 then some (e.1, e.2, i, ea)
      else none

/-- The object offset of an address in a page. -/
def pageOff (d i pa : Nat) : Nat := i * 2 ^ ODesc.pageShift d + pa % 2 ^ ODesc.pageShift d

/-- The client partitions. -/
def clients : List Nat := (List.range 129).drop 1

/-- The pieces of a host access that lie in one 64 KiB frame each: address and length. -/
def hostPieces (pa n : Nat) : List (Nat × Nat) :=
  let k := min n (2 ^ 16 - pa % 2 ^ 16)
  if k < n then [(pa, k), (pa + k, n - k)] else [(pa, n)]

/-- A page of a client's object that a host access touches: the partition, the object, its descriptor, the offset in it of the first
byte, how many bytes, and the frame entry. -/
structure HostTouch where
  part : Nat
  obj : Nat
  desc : Nat
  off : Nat
  n : Nat
  entry : Nat
  deriving DecidableEq, Repr

/-- The pages of objects that a host access touches, piece by piece (R121, R139). -/
def State.hostTouches (s : State) (pa n : Nat) : List HostTouch :=
  (hostPieces pa n).flatMap fun c => clients.flatMap fun p => (s.pagesAt p c.1).map fun e =>
    { part := p, obj := e.1, desc := e.2.1, off := pageOff e.2.1 e.2.2.1 c.1, n := c.2, entry := e.2.2.2 }

/-- A tile of an attached round region that a host write would touch (R139): partition and object offset. -/
def State.hostForeign (s : State) (pa n : Nat) : Option (Nat × Nat) :=
  (s.hostTouches pa n).findSome? fun x =>
    if s.foreignWrite x.part x.obj x.desc x.off x.n none then some (x.part, x.off) else none

/-- DIRTY in the frame entries of the pages that a host store writes (R121), and the stores to round regions noted (R144). -/
def State.hostMarks (s : State) (pa n : Nat) : State :=
  (s.hostTouches pa n).foldl (fun (s : State) x =>
    (s.setDirty x.entry).noteStore x.part x.obj x.desc x.off x.n none) s

/-- A host store (R13, R139): the home recalls, writes its copy and registers the host as owner. A frame entry that cannot be read is
a machine check (R11). -/
def State.hostStore (s : State) (pa n : Nat) (v : DWord) : State :=
  match (s.hostTouches pa n).findSome? (fun x => s.badIn x.entry 8), s.hostForeign pa n with
  | some a, _ => s.uncorrectable a false
  | none, some (p, off) => s.post p (FaultRec.of 0x3E 5 0 0 0 0 0 (infoA off n) (infoA off n) 0 0)
  | none, none =>
    let s1 := (s.hostMarks pa n).writeHome pa (leBytes n v.toNat)
    (wordsOf pa n).foldl (fun (s : State) w => s.setOwner w (some .host)) s1

/-- A host load (R10, R13): the home value, or an access fault at an uncorrectable error. -/
def State.hostLoad (s : State) (pa n : Nat) : State :=
  match s.badIn pa n with
  | some a => { s.uncorrectable a false with busFault := true }
  | none => { s with busRead := BitVec.ofNat 64 (s.homeNat pa n), busFault := false }

/-- The home copy of some bytes lies in a bad block (R10), whoever owns their words. -/
def State.homeCopyBad (s : State) (pa n : Nat) : Option Nat :=
  ((List.range n).map (pa + ·)).find? fun a => s.isBad (blockOf a)

/-- HOST_COHERENCE_TIMEOUT (R13, R31, R159): the load is completed from the home copy, or with an access fault where that is bad
(R10); the word stays owned. -/
def execHostCoherenceTimeout (addr size : Nat) (s : State) : Out :=
  let owned (w : Nat) : Option (Nat × L1Word) :=
    match s.owner w with
    | some (.core n) => ((s.getCore n).l1Word? w).map fun x => (n, x)
    | some .host => none
    | none => none
  if size = 0 ∨ 8 < size ∨ s.capacity < addr + size then .next s
  else
    match (wordsOf addr size).findSome? owned with
    | none => .next s
    | some (n, x) =>
      let obj := match s.lookupHandle x.part x.handle with
        | .ok (i, _) => i
        | .error _ => 2 ^ 20
      let off := (((s.pagesAt x.part addr).find? fun e => e.1 == obj).map fun e => pageOff e.2.1 e.2.2.1 addr).getD 0
      let info := infoA off size
      let s1 := (s.post x.part (FaultRec.of 0x3D 5 0 x.handle n 0 0 info info 0 0)).flight 0x03 0x3D x.part info
      match s.homeCopyBad addr size with
      | some a => .next { s1.uncorrectable a false with busFault := true }
      | none => .next { s1 with busRead := BitVec.ofNat 64 (cellNat Config.memDefault s.mem addr size), busFault := false }

/-! ## The notify aperture (R56) -/

/-- A read of a word of a notify page. -/
def State.pageRead (s : State) (p off : Nat) : Nat :=
  if off < 0x400 then
    let q := off / 0x40
    let x := s.getQueue p q
    if !s.queueExists p q then 0
    else
      match off % 0x40 with
      | 0x00 => x.base
      | 0x08 => x.ctl
      | 0x10 => x.qwr
      | 0x18 => x.qrd
      | 0x20 => x.stat
      | _ => 0
  else if off < 0x800 ∧ off % 0x10 = 8 ∧ (off - 0x400) / 0x10 < (s.getPart p).desc.mailboxes then
    let m := ((s.getPart p).mailboxes[(off - 0x400) / 0x10]?).getD Mailbox.reset
    m.count + b2n m.overflow * 2 ^ 16
  else 0

/-- A write of a word of a notify page. -/
def State.pageWrite (s : State) (p off : Nat) (v : DWord) : State :=
  if off < 0x400 then
    let q := off / 0x40
    if !s.queueExists p q then s
    else
      match off % 0x40 with
      | 0x00 => s.writeQbase p q v.toNat
      | 0x08 => s.writeQctl p q (v.getLsbD 63) (bits v.toNat 55 52) (bits v.toNat 19 0)
      | 0x10 => s.writeQwr p q (bits v.toNat 19 0)
      | 0x28 => s.writeQretry p q
      | _ => s
  else if off < 0x800 then
    if off % 0x10 = 0 then s.arrival p ((off - 0x400) / 0x10) else s
  else
    match off with
    | 0x800 => s.writeFlipHnd p 0 v.toNat
    | 0x808 => s.writeFlipOff p 0 v.toNat
    | 0x810 => s.writeFlipHnd p 1 v.toNat
    | 0x818 => s.writeFlipOff p 1 v.toNat
    | _ => s

/-! ## System registers -/

/-- Word `i` of a number. -/
def word64 (n i : Nat) : Nat := n / 2 ^ (64 * i) % 2 ^ 64

/-- The boot registers (R44). -/
def State.bootRead (s : State) (off : Nat) : Nat :=
  if off = 0 then s.boot.stat + s.fuses.svc % 2 ^ 8 * 2 ^ 8 + b2n s.fuses.debugLock * 2 ^ 16
  else if 0x40 ≤ off ∧ off < 0x60 then word64 s.boot.idKey.toNat ((off - 0x40) / 8)
  else if 0x100 ≤ off ∧ off < 0x1A0 then field s.boot.aCert (off - 0x100) 8
  else 0

/-- The dispatcher registers (R72). -/
def State.dspRead (s : State) (off : Nat) : Nat :=
  let queue (base : Nat) : Nat := (off - base) / 8
  let isClient (base : Nat) : Bool := decide (16 ≤ queue base) && decide (queue base ≤ 2063)
  if off = 0 then s.ts + s.adv * 2 ^ 16 + s.starve * 2 ^ 24 + s.pslice * 2 ^ 40
  else if 0x100 ≤ off ∧ off < 0x140 then
    let w := (s.winch[(off - 0x100) / 8]?).getD Winch.reset
    w.stepUp + w.rise * 2 ^ 8 + w.fall * 2 ^ 16 + w.cap * 2 ^ 24
  else if 0x208 ≤ off ∧ off ≤ 0x600 then
    let p := s.getPart ((off - 0x200) / 8)
    p.balLen + p.balBase * 2 ^ 16
  else if 0x1000 ≤ off ∧ off < 0x8000 ∧ isClient 0x1000 then
    let q := s.getQueue (queue 0x1000 / 16) (queue 0x1000 % 16)
    match q.newCfg with
    | some (n, c) => c + n.toNat * 2 ^ 8
    | none => q.cls + q.quantum.toNat * 2 ^ 8
  else if 0x8000 ≤ off ∧ isClient 0x8000 then
    (BitVec.ofInt 64 (s.getQueue (queue 0x8000 / 16) (queue 0x8000 % 16)).deficit).toNat
  else 0

/-- Register offsets of a port (R17). -/
def Port.read (x : Port) (off : Nat) : Nat :=
  if off = 0 then x.speed + b2n x.en * 2 ^ 2 + b2n x.link * 2 ^ 4 + b2n x.preempt * 2 ^ 8 + x.express.toNat * 2 ^ 16
  else if off = 8 then x.gctlLen + b2n x.pending * 2 ^ 62
  else if off = 0x10 then x.gcycle
  else if off = 0x18 then x.gbase.toNat
  else if 0x20 ≤ off ∧ off < 0x40 then ((x.idle[(off - 0x20) / 8]?).getD 0).toNat
  else if 0x100 ≤ off ∧ off < 0x900 then (tableGet 0 x.gadmin ((off - 0x100) / 8)).toNat
  else if 0x900 ≤ off ∧ off < 0x1100 then x.oper ((off - 0x900) / 8)
  else 0

/-- A write to a register of a port other than GCTL (R17, R18). A gate entry is taken as written, one whose INTERVAL is 0 or no
multiple of 8 too (DESIGN CHOICE, log entry 84). -/
def Port.write (x : Port) (off : Nat) (v : DWord) : Port :=
  let n := v.toNat
  if off = 0 then
    let speed := if bits n 1 0 = 3 ∨ x.en then x.speed else bits n 1 0
    { x with express := BitVec.ofNat 8 (bits n 23 16), preempt := bit n 8, en := bit n 2, speed := speed }
  else if off = 0x10 then (if x.pending ∨ n < 1000 ∨ 1000000000 < n then x else { x with gcycle := n })
  else if off = 0x18 then (if x.pending then x else { x with gbase := v })
  else if 0x20 ≤ off ∧ off < 0x40 then { x with idle := modifyAt x.idle ((off - 0x20) / 8) fun _ => BitVec.ofNat 32 n }
  else if 0x100 ≤ off ∧ off < 0x900 then
    if x.pending then x else { x with gadmin := tableSet x.gadmin ((off - 0x100) / 8) (BitVec.ofNat 64 (bits n 39 0)) }
  else x

/-- The Ethernet registers (R17). -/
def State.ethRead (s : State) (off : Nat) : Nat :=
  if off < 0x4000 then (s.getPort (off / 0x2000)).read (off % 0x2000)
  else if off < 0x8000 then
    let i := (off - 0x4000) / 0x20
    word64 (((s.filters.find? fun f => f.idx == i).map fun f => f.entry.toNat).getD 0) (off % 0x20 / 8)
  else if off < 0xC080 then
    let i := (off - 0x8000) / 0x20
    word64 (s.stream (i / 4) (i % 4)) (off % 0x20 / 8)
  else if off = 0xF000 then s.ethSrc + b2n s.ethSync * 2
  else if off = 0xF008 then s.devTime.toNat
  else 0

def State.ethWrite (s : State) (off : Nat) (v : DWord) : State :=
  if off < 0x4000 then
    let n := off / 0x2000
    if off % 0x2000 = 8 then s.writeGctl n v else s.mapPort n fun x => x.write (off % 0x2000) v
  else if off < 0x8000 then s.writeFilter ((off - 0x4000) / 0x20) (off % 0x20 / 8) v.toNat
  else if off < 0xC080 then
    let i := (off - 0x8000) / 0x20
    s.writeStream (i / 4) (i % 4) (off % 0x20 / 8) v.toNat
  else if off = 0xF000 then s.writeEthTime v
  else s

/-- The memory-controller registers (R9). -/
def State.mcRead (s : State) (off : Nat) : Nat :=
  if off < 0x60 then ((s.cecnt[off / 8]?).getD 0).toNat
  else if 0x80 ≤ off ∧ off < 0xE0 then ((s.uecnt[(off - 0x80) / 8]?).getD 0).toNat
  else if off = 0x100 then s.sizeGiB
  else 0

/-- A system register as it reads, at an 8-byte aligned offset. In recovery only the boot registers answer (R46). -/
def State.sysGet (s : State) (off : Nat) : Nat :=
  let sub (base : Nat) : Nat := off - base
  if 0x400000 ≤ off ∧ off < 0x500000 then s.bootRead (sub 0x400000)
  else if s.boot.stat ≠ 0 then 0
  else if off = 0x0FFFF0 then s.flogNext
  else if 0x100000 ≤ off ∧ off < 0x110000 then
    let e := ((s.flog.find? fun x => x.1 == sub 0x100000 / 16).map fun x => x.2.toNat).getD 0
    word64 e (off % 16 / 8)
  else if 0x200000 ≤ off ∧ off < 0x204080 then (s.getPart (sub 0x200000 / 0x80)).descWord (off % 0x80 / 8)
  else if off = 0x300000 then s.tbl.arg0.toNat
  else if off = 0x300008 then s.tbl.arg1.toNat
  else if off = 0x300018 then s.tbl.stat
  else if 0x500000 ≤ off ∧ off < 0x600000 then s.dspRead (sub 0x500000)
  else if off = 0x600000 then s.ballast
  else if 0x600108 ≤ off ∧ off ≤ 0x600500 then (s.getPart (sub 0x600100 / 8)).pinUsed
  else if off = 0x700000 then s.parkLim
  else if 0x700110 ≤ off ∧ off < 0x700910 then
    let p := s.getPart (sub 0x700100 / 16)
    if off % 16 = 0 then p.fqWr else p.fqRd
  else if 0x800000 ≤ off ∧ off < 0x900000 then s.mcRead (sub 0x800000)
  else if 0x900000 ≤ off ∧ off < 0xA00000 then s.ethRead (sub 0x900000)
  else if 0xA00000 ≤ off ∧ off < 0xA00200 then (s.getOutput (sub 0xA00000 / 0x100)).read (off % 0x100)
  else if off = 0xB00000 then s.envBase
  else if off = 0xB00008 then s.envLen
  else 0

/-- What a read of a system register changes: DROP, and the sticky bits of DSTAT (R24, R36). -/
def State.sysRead (s : State) (off : Nat) : State :=
  if s.boot.stat ≠ 0 then s
  else if off = 0x300018 then { s with tbl := { s.tbl with drop := false } }
  else if off = 0xA00020 then s.clearDstat 0
  else if off = 0xA00120 then s.clearDstat 1
  else s

/-- DSP.CTL (R72). -/
def State.writeDspCtl (s : State) (n : Nat) : State :=
  if bits n 15 0 < 10 ∨ bits n 39 24 < 100 then s
  else { s with ts := bits n 15 0, adv := bits n 23 16, starve := bits n 39 24, pslice := bits n 55 40 }

/-- The dispatcher registers that partition 0 writes (R72, R131). -/
def State.dspWrite (s : State) (off n : Nat) : State :=
  let i := (off - 0x1000) / 8
  if off = 0 then s.writeDspCtl n
  else if 0x208 ≤ off ∧ off ≤ 0x600 then
    let p := (off - 0x200) / 8
    if (s.getPart p).st = .free ∨ (s.getPart p).st = .configured then
      s.mapPart p fun x => { x with balLen := bits n 15 0, balBase := bits n 31 16 }
    else s
  else if 0x1000 ≤ off ∧ off < 0x8000 ∧ 16 ≤ i ∧ i ≤ 2063 then
    s.mapQueue (i / 16) (i % 16) fun q => { q with newCfg := some (BitVec.ofNat 32 (bits n 39 8), bits n 1 0) }
  else s

/-- A client partition is RUNNABLE or STOPPED (R50). -/
def State.anyActive (s : State) : Bool :=
  (s.parts.drop 1).any fun p => decide (p.st = .runnable) || decide (p.st = .stopped)

/-- A write to a system register. `own` says that the gondola writes a register that is its own (R72, R131). In recovery a write
to BOOT.SVCSET is ignored, since no firmware runs whose version could bound it (DESIGN CHOICE, log entry 90). -/
def State.sysWrite (s : State) (own : Bool) (off : Nat) (v : DWord) : Out :=
  let n := v.toNat
  let sub (base : Nat) : Nat := off - base
  if off = 0x400008 then execBootRecover n s
  else if s.boot.stat ≠ 0 then .next s
  else if off = 0x400010 then execBootSvcset n s
  else if 0x200000 ≤ off ∧ off < 0x204080 then .next (s.writeDesc (sub 0x200000 / 0x80) (off % 0x80 / 8) n)
  else if off = 0x300000 then .next { s with tbl := { s.tbl with arg0 := v } }
  else if off = 0x300008 then .next { s with tbl := { s.tbl with arg1 := v } }
  else if off = 0x300010 then .next (s.writeCmd v)
  else if 0x500000 ≤ off ∧ off < 0x600000 then .next (s.dspWrite (sub 0x500000) n)
  else if off = 0x600000 then
    if own ∧ !s.ballastSet ∧ bits n 6 0 ≤ 64 then .next { s with ballast := bits n 6 0, ballastSet := true } else .next s
  else if off = 0x700000 then (if bits n 15 0 < 2 then .next s else .next { s with parkLim := bits n 15 0 })
  else if 0x700110 ≤ off ∧ off < 0x700910 ∧ off % 16 = 8 then
    let p := sub 0x700100 / 16
    if (s.getPart p).desc.fqLen ≤ bits n 15 0 then .next s else .next (s.mapPart p fun x => { x with fqRd := bits n 15 0 })
  else if 0x800000 ≤ off ∧ off < 0x800060 then execMcCecntClear (sub 0x800000 / 8) s
  else if 0x800080 ≤ off ∧ off < 0x8000E0 then execMcUecntClear (sub 0x800080 / 8) s
  else if 0x900000 ≤ off ∧ off < 0xA00000 then .next (s.ethWrite (sub 0x900000) v)
  else if 0xA00000 ≤ off ∧ off < 0xA00200 then
    .next (s.mapOutput (sub 0xA00000 / 0x100) fun x => x.write (off % 0x100) n)
  else if off = 0xB00000 then
    if s.anyActive ∨ n % 4096 ≠ 0 then .next s else .next { s with envBase := bits n 39 0 }
  else if off = 0xB00008 then
    if s.anyActive then .next s else .next { s with envLen := bits n 31 0 }
  else .next s

/-! ## The address map (R12) -/

/-- Where an address of the host physical space lies. -/
inductive Region40 where
  | gddr
  | page (p off : Nat)
  | sys (off : Nat)
  | none
  deriving DecidableEq, Repr

/-- The map of R12 for an access of `n` bytes. The notify aperture and the system registers take aligned 8-byte accesses only
(log entry 31). -/
def State.hostMap (s : State) (addr n : Nat) : Region40 :=
  if addr < s.capacity then (if 0 < n ∧ n ≤ 8 ∧ addr + n ≤ s.capacity then .gddr else .none)
  else if n ≠ 8 ∨ addr % 8 ≠ 0 then .none
  else if 0xF000000000 ≤ addr ∧ addr < 0xF000081000 then .page ((addr - 0xF000000000) / 4096) (addr % 4096)
  else if 0xF800000000 ≤ addr ∧ addr < 0xF801000000 then .sys (addr - 0xF800000000)
  else .none

/-- HOST_ACCESS (R10, R12, R13): a load puts its value in `busRead`. The device treats every hart alike; which software of the
harts may reach an address is their own paging's affair. -/
def execHostAccess (_hart : Nat) (write : Bool) (addr size : Nat) (data : DWord) (s : State) : Out :=
  let clean : State := { s with busFault := false }
  match s.hostMap addr size with
  | .none => .next { s with busFault := true }
  | .gddr => .next (if write then clean.hostStore addr size data else s.hostLoad addr size)
  | .page p off =>
    .next (if write then clean.pageWrite p off data else { s with busRead := BitVec.ofNat 64 (s.pageRead p off), busFault := false })
  | .sys off =>
    if write then clean.sysWrite false off data
    else .next { s.sysRead off with busRead := BitVec.ofNat 64 (s.sysGet off), busFault := false }

/-- REGISTER_WRITE (R33, R72, R131): a register is written by the agent whose it is, at a host physical address. -/
def execRegisterWrite (addr : Nat) (value : DWord) (s : State) : Out :=
  match s.hostMap addr 8 with
  | .none => .next s
  | .gddr => .next s
  | .page p off => .next (s.pageWrite p off value)
  | .sys off => s.sysWrite true off value

end Sys2Proof.Machine
end

