-- ==== Sys2Proof/Machine/Integer.lean ====
section
/-!
DEFINITION. The varying integer instructions, OP 0x18-0x28 (R285-R289).
-/
namespace Sys2Proof.Machine

/-- IADD, 32-bit form: a + b, wrapping (R285). -/
def execIadd32 (b : Bool) (d y : Spec) (s : State) : Out :=
  s.vary2a (encIadd32 b d y) d y (· + ·)

/-- IADD, 64-bit form, with the range treatment of MOD (R286). -/
def execIadd64 (b : Bool) (g : Guard) (d : Spec) (x y : Opd) (m : BitVec 2) (s : State) : Out :=
  s.varyMod2 (encIadd64 b g d x y m) g d x y m (· + ·)

/-- ISUB, 32-bit form: a − b, wrapping (R285). -/
def execIsub32 (b : Bool) (d y : Spec) (s : State) : Out :=
  s.vary2a (encIsub32 b d y) d y (· - ·)

/-- ISUB, 64-bit form, with the range treatment of MOD (R286). -/
def execIsub64 (b : Bool) (g : Guard) (d : Spec) (x y : Opd) (m : BitVec 2) (s : State) : Out :=
  s.varyMod2 (encIsub64 b g d x y m) g d x y m (· - ·)

/-- IMUL, 32-bit form: a × b, wrapping (R285). -/
def execImul32 (b : Bool) (d y : Spec) (s : State) : Out :=
  s.vary2a (encImul32 b d y) d y mulLow

/-- IMUL, 64-bit form, with the range treatment of MOD (R286). -/
def execImul64 (b : Bool) (g : Guard) (d : Spec) (x y : Opd) (m : BitVec 2) (s : State) : Out :=
  s.varyMod2 (encImul64 b g d x y m) g d x y m (· * ·)

/-- IMULH, 32-bit form: high 32 bits of the signed product (R285). -/
def execImulh32 (b : Bool) (d y : Spec) (s : State) : Out :=
  s.vary2a (encImulh32 b d y) d y mulHighS

/-- IMULH, 64-bit form (R285). -/
def execImulh64 (b : Bool) (g : Guard) (d : Spec) (x y : Opd) (s : State) : Out :=
  s.vary2 (encImulh64 b g d x y) g d x y immSext mulHighS

/-- IMULHU, 32-bit form: high 32 bits of the unsigned product (R285). -/
def execImulhu32 (b : Bool) (d y : Spec) (s : State) : Out :=
  s.vary2a (encImulhu32 b d y) d y mulHighU

/-- IMULHU, 64-bit form (R285). -/
def execImulhu64 (b : Bool) (g : Guard) (d : Spec) (x y : Opd) (s : State) : Out :=
  s.vary2 (encImulhu64 b g d x y) g d x y immSext mulHighU

/-- IMAD: a × b + c with the range treatment of MOD (R285, R286). With .SATU, c is taken unsigned too (DEDUCED, log entry 17). -/
def execImad (b : Bool) (g : Guard) (d : Spec) (x y : Opd) (z : Spec) (m : BitVec 2) (s : State) : Out :=
  s.varyMod (encImad b g d x y z m) g (opdUse 1 x ++ opdUse 2 y ++ [RegUse.src 3 .v z]) d m fun t =>
    List.zipWith (fun (p : Int × Int) (c : Word) => (p.1 + c.toInt, p.2 + (c.toNat : Int)))
      (List.zipWith (exact2 (· * ·)) (t.readOpd immSext x) (t.readOpd immSext y)) (t.readV z)

/-- IMIN, 32-bit form: signed minimum (R285). -/
def execImin32 (b : Bool) (d y : Spec) (s : State) : Out :=
  s.vary2a (encImin32 b d y) d y minS

/-- IMIN, 64-bit form (R285). -/
def execImin64 (b : Bool) (g : Guard) (d : Spec) (x y : Opd) (s : State) : Out :=
  s.vary2 (encImin64 b g d x y) g d x y immSext minS

/-- IMAX, 32-bit form: signed maximum (R285). -/
def execImax32 (b : Bool) (d y : Spec) (s : State) : Out :=
  s.vary2a (encImax32 b d y) d y maxS

/-- IMAX, 64-bit form (R285). -/
def execImax64 (b : Bool) (g : Guard) (d : Spec) (x y : Opd) (s : State) : Out :=
  s.vary2 (encImax64 b g d x y) g d x y immSext maxS

/-- IMINU, 32-bit form: unsigned minimum (R285). -/
def execIminu32 (b : Bool) (d y : Spec) (s : State) : Out :=
  s.vary2a (encIminu32 b d y) d y minU

/-- IMINU, 64-bit form (R285). -/
def execIminu64 (b : Bool) (g : Guard) (d : Spec) (x y : Opd) (s : State) : Out :=
  s.vary2 (encIminu64 b g d x y) g d x y immSext minU

/-- IMAXU, 32-bit form: unsigned maximum (R285). -/
def execImaxu32 (b : Bool) (d y : Spec) (s : State) : Out :=
  s.vary2a (encImaxu32 b d y) d y maxU

/-- IMAXU, 64-bit form (R285). -/
def execImaxu64 (b : Bool) (g : Guard) (d : Spec) (x y : Opd) (s : State) : Out :=
  s.vary2 (encImaxu64 b g d x y) g d x y immSext maxU

/-- IAND, 32-bit form: a ∧ b (R285). -/
def execIand32 (b : Bool) (d y : Spec) (s : State) : Out :=
  s.vary2a (encIand32 b d y) d y (· &&& ·)

/-- IAND, 64-bit form (R285). -/
def execIand64 (b : Bool) (g : Guard) (d : Spec) (x y : Opd) (s : State) : Out :=
  s.vary2 (encIand64 b g d x y) g d x y immSext (· &&& ·)

/-- IOR, 32-bit form: a ∨ b (R285). -/
def execIor32 (b : Bool) (d y : Spec) (s : State) : Out :=
  s.vary2a (encIor32 b d y) d y (· ||| ·)

/-- IOR, 64-bit form (R285). -/
def execIor64 (b : Bool) (g : Guard) (d : Spec) (x y : Opd) (s : State) : Out :=
  s.vary2 (encIor64 b g d x y) g d x y immSext (· ||| ·)

/-- IXOR, 32-bit form: a ⊕ b (R285). -/
def execIxor32 (b : Bool) (d y : Spec) (s : State) : Out :=
  s.vary2a (encIxor32 b d y) d y (· ^^^ ·)

/-- IXOR, 64-bit form (R285). -/
def execIxor64 (b : Bool) (g : Guard) (d : Spec) (x y : Opd) (s : State) : Out :=
  s.vary2 (encIxor64 b g d x y) g d x y immSext (· ^^^ ·)

/-- IANDN, 32-bit form: a ∧ ¬b (R285). -/
def execIandn32 (b : Bool) (d y : Spec) (s : State) : Out :=
  s.vary2a (encIandn32 b d y) d y andNot

/-- IANDN, 64-bit form (R285). -/
def execIandn64 (b : Bool) (g : Guard) (d : Spec) (x y : Opd) (s : State) : Out :=
  s.vary2 (encIandn64 b g d x y) g d x y immSext andNot

/-- INOT, 32-bit form: ¬a (R285). -/
def execInot32 (b : Bool) (d x : Spec) (s : State) : Out :=
  s.vary1 (encInot32 b d x) .always d x (~~~ ·)

/-- INOT, 64-bit form (R285). -/
def execInot64 (b : Bool) (g : Guard) (d : Spec) (x : Opd) (s : State) : Out :=
  s.vary1Opd (encInot64 b g d x) g d x (~~~ ·)

/-- ISHL, 32-bit form: shl(a, b) (R285). -/
def execIshl32 (b : Bool) (d y : Spec) (s : State) : Out :=
  s.vary2a (encIshl32 b d y) d y shl

/-- ISHL, 64-bit form (R285). -/
def execIshl64 (b : Bool) (g : Guard) (d : Spec) (x y : Opd) (s : State) : Out :=
  s.vary2 (encIshl64 b g d x y) g d x y immZext shl

/-- ISHR, 32-bit form: shr(a, b) (R285). -/
def execIshr32 (b : Bool) (d y : Spec) (s : State) : Out :=
  s.vary2a (encIshr32 b d y) d y shr

/-- ISHR, 64-bit form (R285). -/
def execIshr64 (b : Bool) (g : Guard) (d : Spec) (x y : Opd) (s : State) : Out :=
  s.vary2 (encIshr64 b g d x y) g d x y immZext shr

/-- ISAR, 32-bit form: sar(a, b) (R285). -/
def execIsar32 (b : Bool) (d y : Spec) (s : State) : Out :=
  s.vary2a (encIsar32 b d y) d y sar

/-- ISAR, 64-bit form (R285). -/
def execIsar64 (b : Bool) (g : Guard) (d : Spec) (x y : Opd) (s : State) : Out :=
  s.vary2 (encIsar64 b g d x y) g d x y immZext sar

/-- IROT, 32-bit form: rot(a, b) (R285). -/
def execIrot32 (b : Bool) (d y : Spec) (s : State) : Out :=
  s.vary2a (encIrot32 b d y) d y rot

/-- IROT, 64-bit form (R285). -/
def execIrot64 (b : Bool) (g : Guard) (d : Spec) (x y : Opd) (s : State) : Out :=
  s.vary2 (encIrot64 b g d x y) g d x y immZext rot

/-- IBFX, 32-bit form: extract_s(a, b) (R285). -/
def execIbfx32 (b : Bool) (d y : Spec) (s : State) : Out :=
  s.vary2a (encIbfx32 b d y) d y extractS

/-- IBFX, 64-bit form (R285). -/
def execIbfx64 (b : Bool) (g : Guard) (d : Spec) (x y : Opd) (s : State) : Out :=
  s.vary2 (encIbfx64 b g d x y) g d x y immZext extractS

/-- IBFXU, 32-bit form: extract_u(a, b) (R285). -/
def execIbfxu32 (b : Bool) (d y : Spec) (s : State) : Out :=
  s.vary2a (encIbfxu32 b d y) d y extractU

/-- IBFXU, 64-bit form (R285). -/
def execIbfxu64 (b : Bool) (g : Guard) (d : Spec) (x y : Opd) (s : State) : Out :=
  s.vary2 (encIbfxu64 b g d x y) g d x y immZext extractU

/-- IBFI: insert(a, b, c) (R285). -/
def execIbfi (b : Bool) (g : Guard) (d : Spec) (x y : Opd) (z : Spec) (s : State) : Out :=
  s.vary3 (encIbfi b g d x y z) g d x y z insertW

/-- IPOPC, 32-bit form: the number of 1 bits (R285). -/
def execIpopc32 (b : Bool) (d x : Spec) (s : State) : Out :=
  s.vary1 (encIpopc32 b d x) .always d x popc

/-- IPOPC, 64-bit form (R285). -/
def execIpopc64 (b : Bool) (g : Guard) (d : Spec) (x : Opd) (s : State) : Out :=
  s.vary1Opd (encIpopc64 b g d x) g d x popc

/-- ICLZ, 32-bit form: the number of leading 0 bits (R285). -/
def execIclz32 (b : Bool) (d x : Spec) (s : State) : Out :=
  s.vary1 (encIclz32 b d x) .always d x clz

/-- ICLZ, 64-bit form (R285). -/
def execIclz64 (b : Bool) (g : Guard) (d : Spec) (x : Opd) (s : State) : Out :=
  s.vary1Opd (encIclz64 b g d x) g d x clz

/-- IBREV, 32-bit form: bits in reverse order (R285). -/
def execIbrev32 (b : Bool) (d x : Spec) (s : State) : Out :=
  s.vary1 (encIbrev32 b d x) .always d x brev

/-- IBREV, 64-bit form (R285). -/
def execIbrev64 (b : Bool) (g : Guard) (d : Spec) (x : Opd) (s : State) : Out :=
  s.vary1Opd (encIbrev64 b g d x) g d x brev

/-- IADDC: a + b + Pi, carry out to Po (R287). -/
def execIaddc (b : Bool) (g : Guard) (d : Spec) (x y : Opd) (pi po : BitVec 3) (s : State) : Out :=
  s.varyingOp (encIaddc b g d x y pi po) g (RegUse.dest 0 .v d :: (opdUse 1 x ++ opdUse 2 y)) fun t m =>
    let cin := t.readP pi
    let lane (l : Nat) (p : Word × Word) : Word × Bool :=
      let a := p.1
      let b := p.2
      let c := cin.getLsbD l
      (BitVec.ofNat 32 (a.toNat + b.toNat + b2n c), decide (2 ^ 32 ≤ a.toNat + b.toNat + b2n c))
    let r := mapAt lane 0 (List.zipWith Prod.mk (t.readOpd immSext x) (t.readOpd immSext y))
    .team s ((t.writeP m po (mkMask (r.map (·.2)))).writeV m d (r.map (·.1)))

/-- ISUBB: a − b − Pi, borrow out to Po (R287). -/
def execIsubb (b : Bool) (g : Guard) (d : Spec) (x y : Opd) (pi po : BitVec 3) (s : State) : Out :=
  s.varyingOp (encIsubb b g d x y pi po) g (RegUse.dest 0 .v d :: (opdUse 1 x ++ opdUse 2 y)) fun t m =>
    let cin := t.readP pi
    let lane (l : Nat) (p : Word × Word) : Word × Bool :=
      let a := p.1
      let b := p.2
      let c := cin.getLsbD l
      (BitVec.ofNat 32 (a.toNat + 2 ^ 33 - b.toNat - b2n c), decide (a.toNat < b.toNat + b2n c))
    let r := mapAt lane 0 (List.zipWith Prod.mk (t.readOpd immSext x) (t.readOpd immSext y))
    .team s ((t.writeP m po (mkMask (r.map (·.2)))).writeV m d (r.map (·.1)))

/-- ISETP.cc: Pd[l] := a cc b (R288). -/
def execIsetp (b : Bool) (g : Guard) (cc d : BitVec 3) (x y : Opd) (s : State) : Out :=
  s.varyP (encIsetp b g cc d x y) g (opdUse 1 x ++ opdUse 2 y) d fun t =>
    mkMask (List.zipWith (condW cc) (t.readOpd immSext x) (t.readOpd immSext y))

/-- ISEL: a where Pc[l] is true, else b (R288). -/
def execIsel (b : Bool) (g : Guard) (d : Spec) (x y : Opd) (c : BitVec 3) (s : State) : Out :=
  s.varyRow (encIsel b g d x y c) g (opdUse 1 x ++ opdUse 2 y) d fun t =>
    mergeRow (t.readP c) 0 (t.readOpd immSext y) (t.readOpd immSext x)

/-- IMOV, 32-bit form (R285). -/
def execImov32 (b : Bool) (d x : Spec) (s : State) : Out :=
  s.vary1 (encImov32 b d x) .always d x id

/-- IMOV, 64-bit form: a register, or the sign-extended immediate (R285). -/
def execImov64 (b : Bool) (g : Guard) (d : Spec) (x : Opd) (s : State) : Out :=
  s.varyRow (encImov64 b g d x) g (opdUse 1 x) d fun t => t.readOpd immSext x

/-- IABS, 32-bit form: |a|, wrapping (R285). -/
def execIabs32 (b : Bool) (d x : Spec) (s : State) : Out :=
  s.vary1 (encIabs32 b d x) .always d x absW

/-- IABS, 64-bit form, with the range treatment of MOD (R286). -/
def execIabs64 (b : Bool) (g : Guard) (d x : Spec) (m : BitVec 2) (s : State) : Out :=
  s.varyMod (encIabs64 b g d x m) g [RegUse.src 1 .v x] d m fun t =>
    (t.readV x).map fun a => (((a.toInt.natAbs : Nat) : Int), ((a.toInt.natAbs : Nat) : Int))

/-- INEG, 32-bit form: 0 − a, wrapping (R285). -/
def execIneg32 (b : Bool) (d x : Spec) (s : State) : Out :=
  s.vary1 (encIneg32 b d x) .always d x (- ·)

/-- INEG, 64-bit form, with the range treatment of MOD (R286). -/
def execIneg64 (b : Bool) (g : Guard) (d x : Spec) (m : BitVec 2) (s : State) : Out :=
  s.varyMod (encIneg64 b g d x m) g [RegUse.src 1 .v x] d m fun t =>
    (t.readV x).map fun a => ((-a.toInt), (-a.toInt))

/-- IDP4: c plus the sum of four byte products (R289). -/
def execIdp4 (b : Bool) (g : Guard) (d : Spec) (x y : Opd) (z : Spec) (m : BitVec 2) (s : State) : Out :=
  s.vary3 (encIdp4 b g d x y z m) g d x y z (idp4 m)

/-- IPRMT: bytes of b:a chosen by c (R289). -/
def execIprmt (b : Bool) (g : Guard) (d : Spec) (x y : Opd) (z : Spec) (s : State) : Out :=
  s.vary3 (encIprmt b g d x y z) g d x y z iprmt

/-- ISAD: |a − b| + c (R289). -/
def execIsad (b : Bool) (g : Guard) (d : Spec) (x y : Opd) (z : Spec) (u : Bool) (s : State) : Out :=
  s.vary3 (encIsad b g d x y z u) g d x y z (isad u)

end Sys2Proof.Machine
end

