-- ==== Sys2Proof/Machine/Limb.lean ====
section
/-!
DEFINITION. Limb binding and the limb instructions (R113, R369-R374): groups of 2^LIMB lanes read as one number.
-/
namespace Sys2Proof.Machine

/-- LBIND (R369): with a group of n lanes held only in part by the launched or the active mask it has no effect. It is team-wide,
so LANE is 0 (R164). -/
def execLbind (b : Bool) (lg : BitVec 3) (s : State) : Out :=
  s.controlOp (encLbind b lg) [] fun t =>
    let probe : Team := { t with limb := lg.toNat }
    let shape (m : LaneMask) (l : Nat) : Res := .raise s 0x1B (infoM m l)
    match probe.limbShape t.launched, probe.limbShape t.active with
    | some l, none => shape t.launched l
    | some l, some k => if l / 2 ^ lg.toNat ≤ k / 2 ^ lg.toNat then shape t.launched l else shape t.active k
    | none, some k => shape t.active k
    | none, none => .team s probe

/-- LUNBIND (R369). -/
def execLunbind (b : Bool) (s : State) : Out :=
  s.controlOp (encLunbind b) [] fun t => .team s { t with limb := 0 }

/-- The frame of a limb instruction (R370): LIMB_UNBOUND, then LIMB_SHAPE, then the body with n. -/
def State.limbOp (s : State) (f : Fields) (g : Guard) (us : List RegUse) (body : Team → LaneMask → Nat → Res) : Out :=
  s.varyingOp f g us fun t m =>
    if t.limb = 0 then .raise s 0x1A (infoW f.word0 0 3)
    else
      match t.limbShape m with
      | some l => .trap s { code := 0x1B, info := infoM m l, lane := l, handle := 0, next := false }
      | none => body t m (2 ^ t.limb)

/-- The number of a register in the group whose first lane is `base` (R370). -/
def groupNum (n : Nat) (row : List Word) (base : Nat) : Nat :=
  leNat ((List.range n).flatMap fun i => leBytes 4 (laneWord row (base + i)).toNat)

/-- The limb of a lane in a number that each group has. -/
def limbRow (lanes n : Nat) (f : Nat → Nat) : List Word :=
  let nums := (List.range (lanes / n)).map fun k => f (k * n)
  (List.range lanes).map fun l => BitVec.ofNat 32 ((nums[l / n]?.getD 0) >>> (32 * (l % n)))

/-- A predicate with one value per group. -/
def groupMask (lanes n : Nat) (f : Nat → Bool) : LaneMask :=
  let bs := (List.range (lanes / n)).map fun k => f (k * n)
  mkMask ((List.range lanes).map fun l => bs[l / n]?.getD false)

/-- LIMB_CARRY_TRAP for the lowest group of the mask with a carry (R371). The mask word of form M is that of the groups that
carry, the mask this check judges (R165; DEDUCED, log entry 18). -/
def carryTrap (tc : Bool) (lanes : Nat) (m out : LaneMask) : List Cause :=
  match if tc then lowestLane lanes (m &&& out) else none with
  | none => []
  | some l => [{ code := 0x4E, info := infoM (m &&& out) l, lane := l, handle := 0, next := false }]

/-- LADD and LSUB (R371): `op` gives the exact result from A, B and the carry in. -/
def State.limbAdd (s : State) (f : Fields) (g : Guard) (d x y : Spec) (po : BitVec 3) (tc ci : Bool)
    (op : Nat → Nat → Nat → Int) : Out :=
  s.limbOp f g [RegUse.dest 0 .v d, RegUse.src 1 .v x, RegUse.src 2 .v y] fun t m n =>
    let a := t.readV x
    let c := t.readV y
    let p := t.readP po
    let exact (base : Nat) : Int := op (groupNum n a base) (groupNum n c base) (if ci then b2n (p.getLsbD base) else 0)
    let out := groupMask t.lanes n fun base => decide (exact base < 0) || decide (((2 ^ (32 * n) : Nat) : Int) ≤ exact base)
    let t1 := (t.writeV m d (limbRow t.lanes n fun base => ofSigned (32 * n) (exact base))).writeP m po out
    .ok { s := s.setTeam t1, pc := none, ends := false, after := carryTrap tc t.lanes m out }

/-- LADD (R371). -/
def execLadd (b : Bool) (g : Guard) (d x y : Spec) (po : BitVec 3) (tc ci : Bool) (s : State) : Out :=
  s.limbAdd (encLadd b g d x y po tc ci) g d x y po tc ci fun a b c => ((a + b + c : Nat) : Int)

/-- LSUB (R371). -/
def execLsub (b : Bool) (g : Guard) (d x y : Spec) (po : BitVec 3) (tc ci : Bool) (s : State) : Out :=
  s.limbAdd (encLsub b g d x y po tc ci) g d x y po tc ci fun a b c => (a : Int) - (b : Int) - (c : Int)

/-- LSHL and LSHR (R372): the shift is IMM8, or bits [4:0] of the group's first lane. -/
def State.limbShift (s : State) (f : Fields) (g : Guard) (d : Spec) (x y : Opd) (op : Nat → Nat → Nat → Nat) : Out :=
  s.limbOp f g (RegUse.dest 0 .v d :: (opdUse 1 x ++ opdUse 2 y)) fun t m n =>
    let a := t.readOpd immZext x
    let c := t.readOpd immZext y
    .team s (t.writeV m d (limbRow t.lanes n fun base => op n (groupNum n a base) ((laneWord c base).toNat % 32)))

/-- LSHL (R372). -/
def execLshl (b : Bool) (g : Guard) (d : Spec) (x y : Opd) (s : State) : Out :=
  s.limbShift (encLshl b g d x y) g d x y fun n a k => (a * 2 ^ k) % 2 ^ (32 * n)

/-- LSHR (R372). -/
def execLshr (b : Bool) (g : Guard) (d : Spec) (x y : Opd) (s : State) : Out :=
  s.limbShift (encLshr b g d x y) g d x y fun _ a k => a / 2 ^ k

/-- A condition of R261 on numbers of `w` bits (R373). -/
def condNum (cc : BitVec 3) (w a b : Nat) : Bool :=
  let x := toSigned w a
  let y := toSigned w b
  match cc.toNat with
  | 0 => a == b
  | 1 => a != b
  | 2 => decide (x < y)
  | 3 => decide (x ≤ y)
  | 4 => decide (y < x)
  | 5 => decide (y ≤ x)
  | 6 => decide (a < b)
  | _ => decide (a ≤ b)

/-- LCMP (R373). -/
def execLcmp (b : Bool) (g : Guard) (cc d : BitVec 3) (x y : Spec) (s : State) : Out :=
  s.limbOp (encLcmp b g cc d x y) g [RegUse.src 1 .v x, RegUse.src 2 .v y] fun t m n =>
    let a := t.readV x
    let c := t.readV y
    .team s (t.writeP m d (groupMask t.lanes n fun base => condNum cc (32 * n) (groupNum n a base) (groupNum n c base)))

/-- LMACS (R374). -/
def execLmacs (b : Bool) (g : Guard) (d x y dhi : Spec) (tc : Bool) (j : BitVec 5) (s : State) : Out :=
  s.limbOp (encLmacs b g d x y dhi tc j) g
    [RegUse.dest 0 .v d, RegUse.src 1 .v x, RegUse.src 2 .v y, RegUse.dest 3 .v dhi] fun t m n =>
    if n ≤ j.toNat then
      let l := (lowestLane t.lanes m).getD 0
      .trap s { code := 0x1B, info := infoM m l, lane := l, handle := 0, next := false }
    else
      let lo := t.readV d
      let hi := t.readV dhi
      let a := t.readV x
      let c := t.readV y
      let exact (base : Nat) : Nat :=
        groupNum n lo base + groupNum n hi base * 2 ^ (32 * n) +
          groupNum n a base * (laneWord c (base + j.toNat)).toNat * 2 ^ (32 * j.toNat)
      let out := groupMask t.lanes n fun base => decide (2 ^ (64 * n) ≤ exact base)
      let t1 := (t.putV m d (limbRow t.lanes n fun base => exact base % 2 ^ (32 * n))).putV m dhi
        (limbRow t.lanes n fun base => exact base / 2 ^ (32 * n) % 2 ^ (32 * n))
      .ok { s := s.setTeam t1, pc := none, ends := false, after := carryTrap tc t.lanes m out }

end Sys2Proof.Machine
end

