-- ==== Sys2Proof/Machine/Matrix.lean ====
section
/-!
DEFINITION. The matrix instructions (R219-R229, R360-R368): operands, pairings, exact block sums, line groups and the weight
buffer's order, and the AMAX drain.
-/
namespace Sys2Proof.Machine

/-- A code in half-units under a 4-bit encoding (R221). -/
def decode4 (enc c : Nat) : Int :=
  let mag (l : List Nat) : Int :=
    let v : Int := (l[c % 8]?.getD 0 : Nat)
    if 8 ≤ c then -v else v
  match enc with
  | 0 => 2 * toSigned 4 c
  | 1 => (2 * c : Nat)
  | 2 => mag [0, 1, 2, 3, 4, 6, 8, 12]
  | 3 => mag [0, 2, 4, 8, 16, 32, 64, 128]
  | _ => mag [0, 2, 4, 6, 8, 12, 16, 32]

/-- An integer-like code: half-units for a 4-bit encoding, units for the others (R221). -/
def decodeInt (enc c : Nat) : Int :=
  match enc with
  | 7 => toSigned 8 c
  | 8 => (c : Int)
  | 15 => toSigned 16 c
  | _ => decode4 enc c

/-- A NaN read as quiet (R219). -/
def FVal.quiet : FVal → FVal
  | .nan _ => .nan false
  | .inf n => .inf n
  | .fin n m e => .fin n m e

/-- A code of a float encoding (R219). -/
def decodeFloat (enc c : Nat) : FVal :=
  (match enc with
  | 5 => e2m3.unpack false c
  | 6 => e3m2.unpack false c
  | 9 => e4m3.unpack true c
  | 10 => e5m2.unpack true c
  | 11 => e3m4.unpack true c
  | 12 => fp16.unpack true c
  | 13 => bf16.unpack true c
  | _ => fp19.unpack true c).quiet

/-- Integer-like encodings (R219). -/
def intLike (enc : Nat) : Bool := decide (enc ≤ 4) || enc == 7 || enc == 8 || enc == 15

/-- Width groups of R225. -/
def widthGroup (enc : Nat) : Nat := if enc ≤ 4 then 0 else if enc ≤ 11 then 1 else 2

/-- A legal pairing (R225). -/
def pairOk (a b : Nat) : Bool := widthGroup a == widthGroup b && intLike a == intLike b

/-- Words of a row of `k` elements (R360). -/
def rowWords (enc k : Nat) : Nat :=
  match codeWidth enc with
  | 4 => ceilDiv k 8
  | 6 => 3 * ceilDiv k 16
  | 8 => ceilDiv k 4
  | 16 => ceilDiv k 2
  | _ => k

/-- Element `k` of packed words held as one number (R220, R360); FP19 lies in bits [31:13] of its word. -/
def element (enc x k : Nat) : Nat :=
  let w := codeWidth enc
  if w = 32 then (x >>> (32 * k + 13)) % 2 ^ 19 else (x >>> (w * k)) % 2 ^ w

/-- A tile as one number, of `units` units from `u` on. -/
def Core.tile (c : Core) (u units : Nat) : Nat := leNat ((List.range units).flatMap fun i => c.unit (u + i))

/-- The header of the tile at a unit. -/
def Core.header (c : Core) (u : Nat) : Nat := leNat (c.unit u)

/-- Column `n` of a tile as one number (R356). -/
def tileColumn (enc tile n : Nat) : Nat := (tile >>> (512 + n * 32 * codeWidth enc)) % 2 ^ (32 * codeWidth enc)

/-- The sum of exact products of finite values, on the smallest grid among them (R226). -/
def sumFin (ps : List FVal) : FVal :=
  let es := ps.filterMap fun p =>
    match p with
    | .fin _ _ e => some e
    | .inf _ => none
    | .nan _ => none
  let g := es.foldl min 0
  let z := ps.foldl (fun (acc : Int) p =>
    match p with
    | .fin n m e => acc + onGrid n m e g
    | .inf _ => acc
    | .nan _ => acc) 0
  .fin (decide (z < 0)) z.natAbs g

/-- block_value of a float pairing and whether it sets NV (R226). -/
def blockFloat (ps : List (FVal × FVal)) : FVal × FFlags :=
  let qs := ps.map fun p => mulV p.1 p.2
  let has (v : FVal) : Bool := qs.any fun q => q.1 == v
  let inv := qs.any fun q => q.2 != 0
  let both := has (.inf false) && has (.inf true)
  if qs.any (fun q => q.1.isNaN) || both then (.nan false, if inv || both then fNV else 0)
  else if has (.inf false) then (.inf false, 0)
  else if has (.inf true) then (.inf true, 0)
  else (sumFin (qs.map (·.1)), 0)

/-- s outside the signed 32-bit range sets IOV (R228). -/
def iovOf (s : Int) : FFlags := if outOfRange s then fIOV else 0

/-- The encodings of one block: of A and of B, and whether both are integer-like (R223, R225). -/
structure BlockFmt where
  ea : Nat
  eb : Nat
  isInt : Bool
  deriving DecidableEq, Repr

/-- The pairs of codes of a block (R361): elements 32j to the end of the block of row and column. -/
def blockCodes (fa fb row col j k : Nat) : List (Nat × Nat) :=
  (List.range (min 32 (k - 32 * j))).map fun i => (element fa row (32 * j + i), element fb col i)

/-- The exact sum of an integer-like block (R228). -/
def blockInt (b : BlockFmt) (cs : List (Nat × Nat)) : Int :=
  cs.foldl (fun acc c => acc + decodeInt b.ea c.1 * decodeInt b.eb c.2) 0

/-- A block sum as MMAS writes it (R226, R228, R366). -/
def blockSum (b : BlockFmt) (cs : List (Nat × Nat)) : Word × FFlags :=
  if b.isInt then
    let s := blockInt b cs
    (BitVec.ofInt 32 s, iovOf s)
  else
    let v := blockFloat (cs.map fun c => (decodeFloat b.ea c.1, decodeFloat b.eb c.2))
    let r := pk32 0 v.1
    (r.1, r.2 ||| v.2)

/-- The accumulation of one block (R226, R228). -/
def accBlock (b : BlockFmt) (acc : Word) (cs : List (Nat × Nat)) : Word × FFlags :=
  if b.isInt then
    let s := blockInt b cs
    (BitVec.ofInt 32 (acc.toInt + s), iovOf s ||| iovOf (acc.toInt + s))
  else
    let v := blockSum b cs
    let a := addV 0 (un32 acc).quiet (un32 v.1).quiet
    let r := pk32 0 a.1
    (r.1, r.2 ||| a.2 ||| v.2)

/-- scale_acc (R229). -/
def scaleAcc (isInt q4 : Bool) (acc part : Word) (ea eb : Nat) : Word × FFlags :=
  let sh : Int := (ea + eb : Nat) - 64 - 2 * (b2n q4 : Int)
  let x : FVal :=
    match if isInt then ofInt part.toInt else (un32 part).quiet with
    | .fin n m e => .fin n m (e + sh)
    | .inf n => .inf n
    | .nan _ => .nan false
  let a := addV 0 (un32 acc).quiet x
  let r := pk32 0 a.1
  (r.1, r.2 ||| a.2)

/-- What an instruction of the matrix engine works on (R360, R361). -/
structure MatOp where
  fa : Nat
  k : Nat
  u : Nat
  /-- the B format: FMT of tile 0 -/
  fb : Nat
  deriving DecidableEq, Repr

def MatOp.nb (o : MatOp) : Nat := ceilDiv o.k 32
def MatOp.units (o : MatOp) : Nat := tileUnits (o.fb % 16)
def MatOp.nw (o : MatOp) : Nat := rowWords (o.fa % 16) o.k
def MatOp.isInt (o : MatOp) : Bool := intLike (o.fa % 16) && intLike (o.fb % 16)
def MatOp.q4 (o : MatOp) : Bool := widthGroup (o.fa % 16) == 0

/-- The largest run of units that a weight-buffer entry may still write: tiles take at most 65 units (R356). -/
def Job.unitSpan (j : Job) : Nat × Nat :=
  match j with
  | .weightLoad _ _ _ u n => (u, u + 65 * n)
  | .weightGather _ _ _ _ u _ _ _ => (u, u + 65)
  | .pieces _ => (0, 0)
  | .tensor _ _ _ _ _ _ _ _ _ _ _ => (0, 0)
  | .multicast _ _ => (0, 0)
  | .fence _ _ => (0, 0)

/-- An earlier weight-buffer entry of the core may write units of a run (R157, log entry 26). -/
def Core.wbPending (c : Core) (lo hi : Nat) : Bool :=
  c.wbQ.any fun e => let p := e.job.unitSpan; decide (p.1 < hi) && decide (lo < p.2)

/-- A register group base: V0 to V239 only (R360); any other specifier fails as a register. -/
def vGroup (pos : Nat) (r : Spec) (dst : Bool) (n : Nat) : RegUse :=
  if r.toNat < 240 then ⟨pos, .v, r, dst, n, 1⟩ else ⟨pos, .l, r, dst, n, 1⟩

/-- A trap with an information word and no lane. -/
def plainFail (cause info : Nat) : Fail := { cause := cause, info := info, lane := 0, handle := 0, park := false, page := 0 }

/-- Steps 2 and 3 of R364 (R366, R367): shape, formats of every tile, then headers. `scaled` is what FA[4] and FMT[4] must be. -/
def Core.matFail (c : Core) (o : MatOp) (lanes : Nat) (scaled : Bool) (lineEnd : Nat) : Option Fail :=
  let heads := (List.range o.nb).map fun j => c.header (o.u + j * o.units)
  if 1024 < o.u + o.nb * o.units ∨ 8 < lineEnd then some (plainFail 0x4B lanes)
  else if bit o.fa 4 != scaled || bit o.fb 4 != scaled || (heads.any fun h => h % 32 != o.fb) || !pairOk (o.fa % 16) (o.fb % 16) then
    some (plainFail 0x4A (o.fa + o.fb * 2 ^ 8))
  else (heads.find? fun h => !headerOk h).map fun h => plainFail 0x48 (h % 2 ^ 32)

/-- The lines of a group (R360). -/
def Team.lineGroup (t : Team) (la n : Nat) : List (Nat × Line) :=
  (List.range n).map fun j => (la + j, t.lines[la + j]?.getD { entries := [], owed := [] })

/-- LINE_UNDERFLOW of a line group (R193, R364). -/
def Team.lineFail (t : Team) (la n p : Nat) : Option Fail :=
  ((t.lineGroup la n).find? fun q => decide (q.2.entries.length + q.2.owed.length < p)).map fun q => plainFail 0x1E q.1

/-- The requests of a team in its core's slots that owe some entries. -/
def State.owers (s : State) (t : Team) (owed : List Owed) : List IslandReq :=
  let c := s.getCore t.core
  (c.slotA.queue ++ c.slotB.queue).filter fun r => r.uid == t.uid && owed.any fun o => o.req == r.id && o.pass == r.pass

/-- What a reader of owed entries does, for every line of its group that lacks some (R194): none where each entry is present. A
parked request that owes one takes the reader with it; where a read of one has missed, or its page is absent and it waits for a
wait-table entry, the team sleeps; else the scoreboard holds the instruction. -/
def State.lineWait (s : State) (t : Team) (la n p : Nat) : Option Res :=
  match (t.lineGroup la n).filter fun q => decide (q.2.entries.length < p) with
  | [] => none
  | q :: qs =>
    let rs := s.owers t ((q :: qs).flatMap fun x => x.2.owed.take (p - x.2.entries.length))
    match rs.find? fun r => r.parked.isSome with
    | some r =>
      match (s.getCore t.core).waits.find? fun e => e.part == t.part && some e.token == r.parked with
      | some e => some (.join s e)
      | none => some (.stay s)
    | none =>
      if rs.any fun r => r.missed || r.asking.isSome then
        some (.sleep (s.setTeam { t with status := .waitLine ((q :: qs).map fun x => (x.1, p)) }))
      else some (.stay s)

/-- The row of a lane as one number (R360): from registers, or from the entries of its pass (R193). -/
def Team.matRow (t : Team) (ln : Bool) (a : Spec) (nw : Nat) (ps : List (List Nat)) (l : Nat) : Nat :=
  leNat ((List.range nw).flatMap fun j =>
    let w : Word :=
      if ln then
        ((((t.lines[a.toNat + j]?).map (·.entries)).getD [])[passOfLane ps l]?.getD [])[l % 32]?.getD 0
      else laneWord (t.readV (a + BitVec.ofNat 8 j)) l
    leBytes 4 w.toNat)

/-- The pop of a line group (R193). -/
def Team.popLines (t : Team) (ln : Bool) (la n p : Nat) : Team :=
  if ln then { t with lines := mapAt (fun i (x : Line) => if la ≤ i ∧ i < la + n then { x with entries := x.entries.drop p } else x) 0 t.lines }
  else t

/-- The tiles of an instruction, each as one number. -/
def Core.tiles (c : Core) (o : MatOp) : List Nat := (List.range o.nb).map fun j => c.tile (o.u + j * o.units) o.units

/-- The effective encodings of a block (R223). -/
def MatOp.blockFmt (o : MatOp) (scaled : Bool) (ra cb : Nat) : BlockFmt :=
  let four (ty : Nat) : Nat := if ty = 0 then 0 else ty + 1
  if scaled && o.q4 then { ea := four (ra / 64), eb := four (cb / 64), isInt := true }
  else { ea := o.fa % 16, eb := o.fb % 16, isInt := o.isInt }

/-- The scale byte of column `n` of a tile (R356). -/
def scaleByte (tile n : Nat) : Nat := (tile >>> (256 + 8 * n)) % 256

/-- SCALE_TYPE with a wide encoding (R223, R366): rows first, then columns. -/
def scaleFail (o : MatOp) (lanes : List Nat) (vs : List Word) (tiles : List Nat) : Option Fail :=
  if o.q4 then none
  else
    let rows := lanes.flatMap fun l => (List.range o.nb).map fun j => (l, j)
    match rows.find? fun p => (laneWord vs p.1).toNat >>> (8 * p.2) % 256 / 64 != 0 with
    | some p => some { plainFail 0x4C (p.1 + p.2 * 2 ^ 16) with lane := p.1 }
    | none =>
      let cols := (mapAt (fun j x => (j, x)) 0 tiles).flatMap fun q => (List.range 32).map fun n => (n, q.1, q.2)
      (cols.find? fun q => scaleByte q.2.2 q.1 / 64 != 0).map fun q => plainFail 0x4C (q.1 + 2 ^ 15 + q.2.1 * 2 ^ 16)

/-- A register group written in the lanes of a mask, Y untouched (R368). -/
def Team.putGroup (t : Team) (m : LaneMask) (r : Spec) (rows : List (List Word)) : Team :=
  (mapAt (fun i x => (i, x)) 0 rows).foldl (fun t p => t.putV m (r + BitVec.ofNat 8 p.1) p.2) t

/-- One word and its flags per lane, `f` evaluated in the lanes of a mask only. -/
def maskedRow (n : Nat) (m : LaneMask) (f : Nat → Word × FFlags) : List (Word × FFlags) :=
  (List.range n).map fun l => if m.getLsbD l then f l else (0, 0)

/-- Rows of results written: the registers, FLAGS, and the enabled traps (R363, R218). -/
def Team.putResults (t : Team) (m : LaneMask) (r : Spec) (rows : List (List (Word × FFlags))) : Team × List Cause :=
  let fl := (List.range t.lanes).map fun l => joinFlags (rows.map fun row => ((row[l]?).map (·.2)).getD 0)
  let raised := raisedIn m 0 fl
  ((t.putGroup m r (rows.map fun row => row.map (·.1))).raise raised, raised.causes t.prm.fptrap)

/-- The checks of a matrix instruction up to step 4 of R364, and what holds it: the operands once nothing does. -/
def State.matSetup (s : State) (t : Team) (m : LaneMask) (fa : BitVec 5) (km1 : BitVec 7) (su : Spec) (scaled ln : Bool) (a : Spec) :
    Except Res MatOp :=
  let c := s.getCore t.core
  let uw := (t.readS su).toNat
  let lanes := popMask t.lanes m
  if uw / 2 ^ 10 ≠ 0 then .error ((plainFail 0x4B lanes).res s)
  else if c.wbPending uw (uw + 1) then .error (.stay s)
  else
    let o : MatOp := { fa := fa.toNat, k := km1.toNat + 1, u := uw, fb := c.header uw % 32 }
    if c.wbPending uw (uw + o.nb * o.units) then .error (.stay s)
    else
      match c.matFail o lanes scaled (if ln then a.toNat + o.nw else 0) with
      | some e => .error (e.res s)
      | none =>
        match if ln then t.lineFail a.toNat o.nw (passCount m) else none with
        | some e => .error (e.res s)
        | none => .ok o

/-- The checks of an AMAX target (R365): the access that its drain makes. -/
def State.amaxTarget (s : State) (t : Team) (c : Cap) : Except Fail (List Acc) :=
  let h := Cap.handle c
  let b := Cap.base c
  match missingRight (Cap.rights c) [21, 22] with
  | some r => .error (failA (rightCause r) b r 0 h)
  | none =>
    if b % 4 ≠ 0 ∨ Cap.length c < 4 then .error (failA 0x4D b 4 0 h)
    else
      match s.homeChecks t.part h 4 [21, 22] 0x31 [(0, b)] with
      | .error e => .error e
      | .ok accs =>
        match s.foreignFail t h 4 accs with
        | some e => .error e
        | none => .ok accs

/-- m of an AMAX drain (R365). -/
def amaxOf (isInt : Bool) (m : LaneMask) (rows : List (List Word)) : Nat :=
  (rows.map fun row => (mapAt (fun l (x : Word) =>
    if m.getLsbD l then (if isInt then (absW x).toNat else (x &&& 0x7FFFFFFF).toNat) else 0) 0 row).foldl max 0).foldl max 0

/-- The registers that the A operand uses (R360). -/
def matUses (ln : Bool) (a : Spec) (fa : BitVec 5) (km1 : BitVec 7) : RegUse :=
  if ln then RegUse.src 1 .l a else vGroup 1 a false (rowWords (fa.toNat % 16) (km1.toNat + 1))

/-- MMA (R362-R365). -/
def execMma (b : Bool) (g : Guard) (a vc : Spec) (h : BitVec 2) (z amax : Bool) (su cn : Spec) (ln : Bool) (fa : BitVec 5)
    (km1 : BitVec 7) (s : State) : Out :=
  let us := [matUses ln a fa km1, vGroup 2 vc true 32, RegUse.src 4 .s su] ++ if amax then [RegUse.src 5 .c cn] else []
  s.varyingOp (encMma b g a vc h z amax su cn ln fa km1) g us fun t m =>
    match s.matSetup t m fa km1 su false ln a with
    | .error r => r
    | .ok o =>
      match if amax then s.amaxTarget t (t.readC cn) else .ok [] with
      | .error e => e.res s
      | .ok accs =>
        match if ln then s.lineWait t a.toNat o.nw (passCount m) else none with
        | some r => r
        | none =>
          let live := t.liveMask m
          let ps := passes m
          let tiles := (s.getCore t.core).tiles o
          let fmt := o.blockFmt false 0 0
          let vrow (l : Nat) : Nat := t.matRow ln a o.nw ps l
          let one (n l : Nat) : Word × FFlags :=
            let acc0 : Word := if z then 0 else laneWord (t.readV (vc + BitVec.ofNat 8 n)) l
            (mapAt (fun j x => (j, x)) 0 tiles).foldl (fun r p =>
              let q := accBlock fmt r.1 (blockCodes (o.fa % 16) (o.fb % 16) (vrow l) (tileColumn (o.fb % 16) p.2 n) p.1 o.k)
              (q.1, r.2 ||| q.2)) (acc0, 0)
          let rows := (List.range 32).map fun n => maskedRow t.lanes live (one n)
          let res := t.putResults live vc rows
          let t1 := res.1.popLines ln a.toNat o.nw (passCount m)
          let top := amaxOf fmt.isInt live (rows.map fun row => row.map (·.1))
          let cap := t.readC cn
          let drains : List PendAtomic := if live = 0 then [] else accs.map fun x =>
            { seq := s.nextSeq, place := .obj (Cap.handle cap) x.off x.xl.pa, size := 4, op := 4, b := BitVec.ofNat 64 top, c := 0,
              target := { cls := 0, reg := 0, lane := 0, ySlot := 2, first := false, n := 0 }, loc := false, acquire := false,
              release := false, hint := h.toNat }
          .ok { s := ((if live = 0 then s else s.noteAccs t 4 accs).setTeam { t1 with atomics := t1.atomics ++ drains }).stamp, pc := none, ends := false,
                after := res.2 ++ if live = 0 then [] else t.watch false true (Cap.handle cap) 4 accs }

/-- MMAS (R366). -/
def execMmas (b : Bool) (g : Guard) (d a vs su : Spec) (ln : Bool) (fa : BitVec 5) (km1 : BitVec 7) (s : State) : Out :=
  let nb := ceilDiv (km1.toNat + 1) 32
  let us := [vGroup 0 d true (32 * nb), matUses ln a fa km1, RegUse.src 3 .v vs, RegUse.src 4 .s su]
  s.varyingOp (encMmas b g d a vs su ln fa km1) g us fun t m =>
    match s.matSetup t m fa km1 su true ln a with
    | .error r => r
    | .ok o =>
      let live := t.liveMask m
      let tiles := (s.getCore t.core).tiles o
      match scaleFail o (lanesOf t.lanes live) (t.readV vs) tiles with
      | some e => e.res s
      | none =>
        match if ln then s.lineWait t a.toNat o.nw (passCount m) else none with
        | some r => r
        | none =>
          let ps := passes m
          let vrow (l : Nat) : Nat := t.matRow ln a o.nw ps l
          let one (j tile n l : Nat) : Word × FFlags :=
            let ra := (laneWord (t.readV vs) l).toNat >>> (8 * j) % 256
            blockSum (o.blockFmt true ra (scaleByte tile n))
              (blockCodes (o.fa % 16) (o.fb % 16) (vrow l) (tileColumn (o.fb % 16) tile n) j o.k)
          let rows := (mapAt (fun j x => (j, x)) 0 tiles).flatMap fun p =>
            (List.range 32).map fun n => maskedRow t.lanes live (one p.1 p.2 n)
          let res := t.putResults live d rows
          .ok { s := s.setTeam (res.1.popLines ln a.toNat o.nw (passCount m)), pc := none, ends := false, after := res.2 }

/-- SCACC (R367). -/
def execScacc (b : Bool) (g : Guard) (d vp vs : Spec) (z : Bool) (su : Spec) (fa : BitVec 5) (km1 : BitVec 7) (s : State) : Out :=
  let nb := ceilDiv (km1.toNat + 1) 32
  let us := [vGroup 0 d true 32, vGroup 1 vp false (32 * nb), RegUse.src 3 .v vs, RegUse.src 4 .s su]
  s.varyingOp (encScacc b g d vp vs z su fa km1) g us fun t m =>
    match s.matSetup t m fa km1 su true false 0 with
    | .error r => r
    | .ok o =>
      let live := t.liveMask m
      let c := s.getCore t.core
      let heads := (List.range o.nb).map fun j => c.header (o.u + j * o.units)
      let one (n l : Nat) : Word × FFlags :=
        let acc0 : Word := if z then 0 else laneWord (t.readV (d + BitVec.ofNat 8 n)) l
        (mapAt (fun j x => (j, x)) 0 heads).foldl (fun r p =>
          let q := scaleAcc o.isInt o.q4 r.1 (laneWord (t.readV (vp + BitVec.ofNat 8 (32 * p.1 + n))) l)
            ((laneWord (t.readV vs) l).toNat >>> (8 * p.1) % 64) (scaleByte p.2 n % 64)
          (q.1, r.2 ||| q.2)) (acc0, 0)
      let rows := (List.range 32).map fun n => maskedRow t.lanes live (one n)
      let res := t.putResults live d rows
      .ok { s := s.setTeam res.1, pc := none, ends := false, after := res.2 }

end Sys2Proof.Machine
end

