-- ==== Sys2Proof/Machine/Uniform.lean ====
section
/-!
DEFINITION. The uniform instructions, OP 0x02-0x0D (R272-R276); SLDC stands with the loads.
-/
namespace Sys2Proof.Machine

/-- SMOV, 32-bit form: Sd := a (R274). -/
def execSmov32 (b : Bool) (d x : Spec) (s : State) : Out :=
  s.uniform1 (encSmov32 b d x) .always d x id

/-- SMOV, 64-bit form: a register, or the sign-extended immediate (R274). -/
def execSmov64 (b : Bool) (g : Guard) (d : Spec) (x : Opd) (s : State) : Out :=
  s.uniformOp (encSmov64 b g d x) g (RegUse.dest 0 .s d :: opdUse 1 x) true fun t =>
    .team s (t.writeS d (match x with
      | .s r => t.readS r
      | .imm n => immSext n
      | .v _ => 0
      | .a _ => 0))

/-- SADD, 32-bit form: a + b (R274). -/
def execSadd32 (b : Bool) (d y : Spec) (s : State) : Out :=
  s.uniform2a (encSadd32 b d y) d y (· + ·)

/-- SADD, 64-bit form (R274). -/
def execSadd64 (b : Bool) (g : Guard) (d x y : Spec) (s : State) : Out :=
  s.uniform2 (encSadd64 b g d x y) g d x y (· + ·)

/-- SSUB, 32-bit form: a − b (R274). -/
def execSsub32 (b : Bool) (d y : Spec) (s : State) : Out :=
  s.uniform2a (encSsub32 b d y) d y (· - ·)

/-- SSUB, 64-bit form (R274). -/
def execSsub64 (b : Bool) (g : Guard) (d x y : Spec) (s : State) : Out :=
  s.uniform2 (encSsub64 b g d x y) g d x y (· - ·)

/-- SMUL, 32-bit form: low 32 bits of a × b (R274). -/
def execSmul32 (b : Bool) (d y : Spec) (s : State) : Out :=
  s.uniform2a (encSmul32 b d y) d y mulLow

/-- SMUL, 64-bit form (R274). -/
def execSmul64 (b : Bool) (g : Guard) (d x y : Spec) (s : State) : Out :=
  s.uniform2 (encSmul64 b g d x y) g d x y mulLow

/-- SMULH, 32-bit form: high 32 bits of the signed product (R274). -/
def execSmulh32 (b : Bool) (d y : Spec) (s : State) : Out :=
  s.uniform2a (encSmulh32 b d y) d y mulHighS

/-- SMULH, 64-bit form (R274). -/
def execSmulh64 (b : Bool) (g : Guard) (d x y : Spec) (s : State) : Out :=
  s.uniform2 (encSmulh64 b g d x y) g d x y mulHighS

/-- SMULHU, 32-bit form: high 32 bits of the unsigned product (R274). -/
def execSmulhu32 (b : Bool) (d y : Spec) (s : State) : Out :=
  s.uniform2a (encSmulhu32 b d y) d y mulHighU

/-- SMULHU, 64-bit form (R274). -/
def execSmulhu64 (b : Bool) (g : Guard) (d x y : Spec) (s : State) : Out :=
  s.uniform2 (encSmulhu64 b g d x y) g d x y mulHighU

/-- SAND, 32-bit form: a ∧ b (R274). -/
def execSand32 (b : Bool) (d y : Spec) (s : State) : Out :=
  s.uniform2a (encSand32 b d y) d y (· &&& ·)

/-- SAND, 64-bit form (R274). -/
def execSand64 (b : Bool) (g : Guard) (d x y : Spec) (s : State) : Out :=
  s.uniform2 (encSand64 b g d x y) g d x y (· &&& ·)

/-- SOR, 32-bit form: a ∨ b (R274). -/
def execSor32 (b : Bool) (d y : Spec) (s : State) : Out :=
  s.uniform2a (encSor32 b d y) d y (· ||| ·)

/-- SOR, 64-bit form (R274). -/
def execSor64 (b : Bool) (g : Guard) (d x y : Spec) (s : State) : Out :=
  s.uniform2 (encSor64 b g d x y) g d x y (· ||| ·)

/-- SXOR, 32-bit form: a ⊕ b (R274). -/
def execSxor32 (b : Bool) (d y : Spec) (s : State) : Out :=
  s.uniform2a (encSxor32 b d y) d y (· ^^^ ·)

/-- SXOR, 64-bit form (R274). -/
def execSxor64 (b : Bool) (g : Guard) (d x y : Spec) (s : State) : Out :=
  s.uniform2 (encSxor64 b g d x y) g d x y (· ^^^ ·)

/-- SANDN, 32-bit form: a ∧ ¬b (R274). -/
def execSandn32 (b : Bool) (d y : Spec) (s : State) : Out :=
  s.uniform2a (encSandn32 b d y) d y andNot

/-- SANDN, 64-bit form (R274). -/
def execSandn64 (b : Bool) (g : Guard) (d x y : Spec) (s : State) : Out :=
  s.uniform2 (encSandn64 b g d x y) g d x y andNot

/-- SNOT, 32-bit form: ¬a (R274). -/
def execSnot32 (b : Bool) (d x : Spec) (s : State) : Out :=
  s.uniform1 (encSnot32 b d x) .always d x (~~~ ·)

/-- SNOT, 64-bit form (R274). -/
def execSnot64 (b : Bool) (g : Guard) (d x : Spec) (s : State) : Out :=
  s.uniform1 (encSnot64 b g d x) g d x (~~~ ·)

/-- SSHL, 32-bit form: shl(a, b) (R274). -/
def execSshl32 (b : Bool) (d y : Spec) (s : State) : Out :=
  s.uniform2a (encSshl32 b d y) d y shl

/-- SSHL, 64-bit form (R274). -/
def execSshl64 (b : Bool) (g : Guard) (d x y : Spec) (s : State) : Out :=
  s.uniform2 (encSshl64 b g d x y) g d x y shl

/-- SSHR, 32-bit form: shr(a, b) (R274). -/
def execSshr32 (b : Bool) (d y : Spec) (s : State) : Out :=
  s.uniform2a (encSshr32 b d y) d y shr

/-- SSHR, 64-bit form (R274). -/
def execSshr64 (b : Bool) (g : Guard) (d x y : Spec) (s : State) : Out :=
  s.uniform2 (encSshr64 b g d x y) g d x y shr

/-- SSAR, 32-bit form: sar(a, b) (R274). -/
def execSsar32 (b : Bool) (d y : Spec) (s : State) : Out :=
  s.uniform2a (encSsar32 b d y) d y sar

/-- SSAR, 64-bit form (R274). -/
def execSsar64 (b : Bool) (g : Guard) (d x y : Spec) (s : State) : Out :=
  s.uniform2 (encSsar64 b g d x y) g d x y sar

/-- SMIN, 32-bit form: signed minimum (R274). -/
def execSmin32 (b : Bool) (d y : Spec) (s : State) : Out :=
  s.uniform2a (encSmin32 b d y) d y minS

/-- SMIN, 64-bit form (R274). -/
def execSmin64 (b : Bool) (g : Guard) (d x y : Spec) (s : State) : Out :=
  s.uniform2 (encSmin64 b g d x y) g d x y minS

/-- SMAX, 32-bit form: signed maximum (R274). -/
def execSmax32 (b : Bool) (d y : Spec) (s : State) : Out :=
  s.uniform2a (encSmax32 b d y) d y maxS

/-- SMAX, 64-bit form (R274). -/
def execSmax64 (b : Bool) (g : Guard) (d x y : Spec) (s : State) : Out :=
  s.uniform2 (encSmax64 b g d x y) g d x y maxS

/-- SMINU, 32-bit form: unsigned minimum (R274). -/
def execSminu32 (b : Bool) (d y : Spec) (s : State) : Out :=
  s.uniform2a (encSminu32 b d y) d y minU

/-- SMINU, 64-bit form (R274). -/
def execSminu64 (b : Bool) (g : Guard) (d x y : Spec) (s : State) : Out :=
  s.uniform2 (encSminu64 b g d x y) g d x y minU

/-- SMAXU, 32-bit form: unsigned maximum (R274). -/
def execSmaxu32 (b : Bool) (d y : Spec) (s : State) : Out :=
  s.uniform2a (encSmaxu32 b d y) d y maxU

/-- SMAXU, 64-bit form (R274). -/
def execSmaxu64 (b : Bool) (g : Guard) (d x y : Spec) (s : State) : Out :=
  s.uniform2 (encSmaxu64 b g d x y) g d x y maxU

/-- SCMP.cc: Qd := a cc b (R276). -/
def execScmp (b : Bool) (g : Guard) (cc d : BitVec 3) (x y : Spec) (s : State) : Out :=
  s.uniformQ (encScmp b g cc d x y) g [RegUse.src 1 .s x, RegUse.src 2 .s y] d fun t => condW cc (t.readS x) (t.readS y)

/-- SSEL: a where Qc is true, else b (R276). -/
def execSsel (b : Bool) (g : Guard) (d x y : Spec) (c : BitVec 3) (s : State) : Out :=
  s.uniformOp (encSsel b g d x y c) g [RegUse.dest 0 .s d, RegUse.src 1 .s x, RegUse.src 2 .s y] true fun t =>
    .team s (t.writeS d (if t.readQ c then t.readS x else t.readS y))

/-- SBFX, 32-bit form: extract_u(a, b) (R274). -/
def execSbfx32 (b : Bool) (d y : Spec) (s : State) : Out :=
  s.uniform2a (encSbfx32 b d y) d y extractU

/-- SBFX, 64-bit form (R274). -/
def execSbfx64 (b : Bool) (g : Guard) (d x y : Spec) (s : State) : Out :=
  s.uniform2 (encSbfx64 b g d x y) g d x y extractU

/-- SBFI: insert(a, b, c) (R274, R275). -/
def execSbfi (b : Bool) (g : Guard) (d x y z : Spec) (s : State) : Out :=
  s.uniformOp (encSbfi b g d x y z) g
    [RegUse.dest 0 .s d, RegUse.src 1 .s x, RegUse.src 2 .s y, RegUse.src 3 .s z] true fun t =>
    .team s (t.writeS d (insertW (t.readS x) (t.readS y) (t.readS z)))

/-- SPOPC, 32-bit form: the number of 1 bits (R274). -/
def execSpopc32 (b : Bool) (d x : Spec) (s : State) : Out :=
  s.uniform1 (encSpopc32 b d x) .always d x popc

/-- SPOPC, 64-bit form (R274). -/
def execSpopc64 (b : Bool) (g : Guard) (d x : Spec) (s : State) : Out :=
  s.uniform1 (encSpopc64 b g d x) g d x popc

/-- SCLZ, 32-bit form: the number of leading 0 bits (R274). -/
def execSclz32 (b : Bool) (d x : Spec) (s : State) : Out :=
  s.uniform1 (encSclz32 b d x) .always d x clz

/-- SCLZ, 64-bit form (R274). -/
def execSclz64 (b : Bool) (g : Guard) (d x : Spec) (s : State) : Out :=
  s.uniform1 (encSclz64 b g d x) g d x clz

/-- QAND, 32-bit form (R276). -/
def execQand32 (b : Bool) (d y : BitVec 3) (s : State) : Out :=
  s.uniformQ (encQand32 b d y) .always [] d fun t => t.readQ d && t.readQ y

/-- QAND, 64-bit form (R276). -/
def execQand64 (b : Bool) (g : Guard) (d x y : BitVec 3) (s : State) : Out :=
  s.uniformQ (encQand64 b g d x y) g [] d fun t => t.readQ x && t.readQ y

/-- QOR, 32-bit form (R276). -/
def execQor32 (b : Bool) (d y : BitVec 3) (s : State) : Out :=
  s.uniformQ (encQor32 b d y) .always [] d fun t => t.readQ d || t.readQ y

/-- QOR, 64-bit form (R276). -/
def execQor64 (b : Bool) (g : Guard) (d x y : BitVec 3) (s : State) : Out :=
  s.uniformQ (encQor64 b g d x y) g [] d fun t => t.readQ x || t.readQ y

/-- QXOR, 32-bit form (R276). -/
def execQxor32 (b : Bool) (d y : BitVec 3) (s : State) : Out :=
  s.uniformQ (encQxor32 b d y) .always [] d fun t => t.readQ d != t.readQ y

/-- QXOR, 64-bit form (R276). -/
def execQxor64 (b : Bool) (g : Guard) (d x y : BitVec 3) (s : State) : Out :=
  s.uniformQ (encQxor64 b g d x y) g [] d fun t => t.readQ x != t.readQ y

/-- QNOT, 32-bit form (R276). -/
def execQnot32 (b : Bool) (d x : BitVec 3) (s : State) : Out :=
  s.uniformQ (encQnot32 b d x) .always [] d fun t => !t.readQ x

/-- QNOT, 64-bit form (R276). -/
def execQnot64 (b : Bool) (g : Guard) (d x : BitVec 3) (s : State) : Out :=
  s.uniformQ (encQnot64 b g d x) g [] d fun t => !t.readQ x

end Sys2Proof.Machine
end

