-- ==== Sys2Proof/Machine/Issue.lean ====
section
/-!
DEFINITION. The meaning of the fields of a fetched group, and which team a free port takes (R95): one whose next instruction has
ready operands.
-/
namespace Sys2Proof.Machine

/-- The meaning of a row on the fields of its words. -/
def runRow (f : Fields) (s : State) : Row → Out
  | .smov32 => execSmov32 f.b f.d f.s1 s
  | .smov64 => execSmov64 f.b f.guard f.d (f.opUn .s) s
  | .sadd32 => execSadd32 f.b f.d f.s1 s
  | .sadd64 => execSadd64 f.b f.guard f.d f.s1 f.s2 s
  | .ssub32 => execSsub32 f.b f.d f.s1 s
  | .ssub64 => execSsub64 f.b f.guard f.d f.s1 f.s2 s
  | .smul32 => execSmul32 f.b f.d f.s1 s
  | .smul64 => execSmul64 f.b f.guard f.d f.s1 f.s2 s
  | .smulh32 => execSmulh32 f.b f.d f.s1 s
  | .smulh64 => execSmulh64 f.b f.guard f.d f.s1 f.s2 s
  | .smulhu32 => execSmulhu32 f.b f.d f.s1 s
  | .smulhu64 => execSmulhu64 f.b f.guard f.d f.s1 f.s2 s
  | .sand32 => execSand32 f.b f.d f.s1 s
  | .sand64 => execSand64 f.b f.guard f.d f.s1 f.s2 s
  | .sor32 => execSor32 f.b f.d f.s1 s
  | .sor64 => execSor64 f.b f.guard f.d f.s1 f.s2 s
  | .sxor32 => execSxor32 f.b f.d f.s1 s
  | .sxor64 => execSxor64 f.b f.guard f.d f.s1 f.s2 s
  | .sandn32 => execSandn32 f.b f.d f.s1 s
  | .sandn64 => execSandn64 f.b f.guard f.d f.s1 f.s2 s
  | .snot32 => execSnot32 f.b f.d f.s1 s
  | .snot64 => execSnot64 f.b f.guard f.d f.s1 s
  | .sshl32 => execSshl32 f.b f.d f.s1 s
  | .sshl64 => execSshl64 f.b f.guard f.d f.s1 f.s2 s
  | .sshr32 => execSshr32 f.b f.d f.s1 s
  | .sshr64 => execSshr64 f.b f.guard f.d f.s1 f.s2 s
  | .ssar32 => execSsar32 f.b f.d f.s1 s
  | .ssar64 => execSsar64 f.b f.guard f.d f.s1 f.s2 s
  | .smin32 => execSmin32 f.b f.d f.s1 s
  | .smin64 => execSmin64 f.b f.guard f.d f.s1 f.s2 s
  | .smax32 => execSmax32 f.b f.d f.s1 s
  | .smax64 => execSmax64 f.b f.guard f.d f.s1 f.s2 s
  | .sminu32 => execSminu32 f.b f.d f.s1 s
  | .sminu64 => execSminu64 f.b f.guard f.d f.s1 f.s2 s
  | .smaxu32 => execSmaxu32 f.b f.d f.s1 s
  | .smaxu64 => execSmaxu64 f.b f.guard f.d f.s1 f.s2 s
  | .scmp => execScmp f.b f.guard f.sub (f.d.setWidth 3) f.s1 f.s2 s
  | .ssel => execSsel f.b f.guard f.d f.s1 f.s2 (f.s3.setWidth 3) s
  | .sldcW32 => execSldcW32 f.b f.guard f.d f.s1 f.s2 s
  | .sldcW64 => execSldcW64 f.b f.guard f.d f.s1 f.s2 s
  | .sbfx32 => execSbfx32 f.b f.d f.s1 s
  | .sbfx64 => execSbfx64 f.b f.guard f.d f.s1 f.s2 s
  | .sbfi => execSbfi f.b f.guard f.d f.s1 f.s2 f.s3 s
  | .spopc32 => execSpopc32 f.b f.d f.s1 s
  | .spopc64 => execSpopc64 f.b f.guard f.d f.s1 s
  | .sclz32 => execSclz32 f.b f.d f.s1 s
  | .sclz64 => execSclz64 f.b f.guard f.d f.s1 s
  | .qand32 => execQand32 f.b (f.d.setWidth 3) (f.s1.setWidth 3) s
  | .qand64 => execQand64 f.b f.guard (f.d.setWidth 3) (f.s1.setWidth 3) (f.s2.setWidth 3) s
  | .qor32 => execQor32 f.b (f.d.setWidth 3) (f.s1.setWidth 3) s
  | .qor64 => execQor64 f.b f.guard (f.d.setWidth 3) (f.s1.setWidth 3) (f.s2.setWidth 3) s
  | .qxor32 => execQxor32 f.b (f.d.setWidth 3) (f.s1.setWidth 3) s
  | .qxor64 => execQxor64 f.b f.guard (f.d.setWidth 3) (f.s1.setWidth 3) (f.s2.setWidth 3) s
  | .qnot32 => execQnot32 f.b (f.d.setWidth 3) (f.s1.setWidth 3) s
  | .qnot64 => execQnot64 f.b f.guard (f.d.setWidth 3) (f.s1.setWidth 3) s
  | .amovS => execAmovS f.b f.guard f.d f.s1 s
  | .amovImm => execAmovImm f.b f.guard f.d f.s3 s
  | .amovLane => execAmovLane f.b f.d s
  | .amov32 => execAmov32 f.b f.d f.s1 s
  | .amov64 => execAmov64 f.b f.guard f.d f.s1 s
  | .aadd32 => execAadd32 f.b f.d f.s1 s
  | .aadd64 => execAadd64 f.b f.guard f.d f.opX f.opY s
  | .asub32 => execAsub32 f.b f.d f.s1 s
  | .asub64 => execAsub64 f.b f.guard f.d f.opX f.opY s
  | .amul => execAmul f.b f.guard f.d f.s1 f.s2 s
  | .ashl => execAshl f.b f.guard f.d f.s1 f.s2 s
  | .proma => execProma f.b f.guard f.d f.s1 f.s2 s
  | .promv => execPromv f.b f.guard f.d f.s2 s
  | .promb => execPromb f.b f.guard f.d f.s2 s
  | .promp => execPromp f.b f.guard (f.d.setWidth 3) (f.s1.setWidth 3) s
  | .rdfirst => execRdfirst f.b f.guard f.d f.s1 s
  | .rdlast => execRdlast f.b f.guard f.d f.s1 s
  | .rdlane => execRdlane f.b f.guard f.d f.s1 f.s2 s
  | .capnar => execCapnar f.b f.guard f.d f.s1 f.s2 f.s3 s
  | .caprst => execCaprst f.b f.guard f.d f.s1 f.s2 s
  | .capqryBase => execCapqryBase f.b f.guard f.d f.s1 s
  | .capqryLen => execCapqryLen f.b f.guard f.d f.s1 s
  | .capqryRights => execCapqryRights f.b f.guard f.d f.s1 s
  | .iadd32 => execIadd32 f.b f.d f.s1 s
  | .iadd64 => execIadd64 f.b f.guard f.d f.opX f.opY f.mod s
  | .isub32 => execIsub32 f.b f.d f.s1 s
  | .isub64 => execIsub64 f.b f.guard f.d f.opX f.opY f.mod s
  | .imul32 => execImul32 f.b f.d f.s1 s
  | .imul64 => execImul64 f.b f.guard f.d f.opX f.opY f.mod s
  | .imulh32 => execImulh32 f.b f.d f.s1 s
  | .imulh64 => execImulh64 f.b f.guard f.d f.opX f.opY s
  | .imulhu32 => execImulhu32 f.b f.d f.s1 s
  | .imulhu64 => execImulhu64 f.b f.guard f.d f.opX f.opY s
  | .imad => execImad f.b f.guard f.d f.opX f.opY f.s3 f.mod s
  | .imin32 => execImin32 f.b f.d f.s1 s
  | .imin64 => execImin64 f.b f.guard f.d f.opX f.opY s
  | .imax32 => execImax32 f.b f.d f.s1 s
  | .imax64 => execImax64 f.b f.guard f.d f.opX f.opY s
  | .iminu32 => execIminu32 f.b f.d f.s1 s
  | .iminu64 => execIminu64 f.b f.guard f.d f.opX f.opY s
  | .imaxu32 => execImaxu32 f.b f.d f.s1 s
  | .imaxu64 => execImaxu64 f.b f.guard f.d f.opX f.opY s
  | .iand32 => execIand32 f.b f.d f.s1 s
  | .iand64 => execIand64 f.b f.guard f.d f.opX f.opY s
  | .ior32 => execIor32 f.b f.d f.s1 s
  | .ior64 => execIor64 f.b f.guard f.d f.opX f.opY s
  | .ixor32 => execIxor32 f.b f.d f.s1 s
  | .ixor64 => execIxor64 f.b f.guard f.d f.opX f.opY s
  | .iandn32 => execIandn32 f.b f.d f.s1 s
  | .iandn64 => execIandn64 f.b f.guard f.d f.opX f.opY s
  | .inot32 => execInot32 f.b f.d f.s1 s
  | .inot64 => execInot64 f.b f.guard f.d f.off s
  | .ishl32 => execIshl32 f.b f.d f.s1 s
  | .ishl64 => execIshl64 f.b f.guard f.d f.opX f.opY s
  | .ishr32 => execIshr32 f.b f.d f.s1 s
  | .ishr64 => execIshr64 f.b f.guard f.d f.opX f.opY s
  | .isar32 => execIsar32 f.b f.d f.s1 s
  | .isar64 => execIsar64 f.b f.guard f.d f.opX f.opY s
  | .irot32 => execIrot32 f.b f.d f.s1 s
  | .irot64 => execIrot64 f.b f.guard f.d f.opX f.opY s
  | .ibfx32 => execIbfx32 f.b f.d f.s1 s
  | .ibfx64 => execIbfx64 f.b f.guard f.d f.opX f.opY s
  | .ibfxu32 => execIbfxu32 f.b f.d f.s1 s
  | .ibfxu64 => execIbfxu64 f.b f.guard f.d f.opX f.opY s
  | .ibfi => execIbfi f.b f.guard f.d f.opX f.opY f.s3 s
  | .ipopc32 => execIpopc32 f.b f.d f.s1 s
  | .ipopc64 => execIpopc64 f.b f.guard f.d f.off s
  | .iclz32 => execIclz32 f.b f.d f.s1 s
  | .iclz64 => execIclz64 f.b f.guard f.d f.off s
  | .ibrev32 => execIbrev32 f.b f.d f.s1 s
  | .ibrev64 => execIbrev64 f.b f.guard f.d f.off s
  | .iaddc => execIaddc f.b f.guard f.d f.opX f.opY (f.s3.setWidth 3) (f.x1.setWidth 3) s
  | .isubb => execIsubb f.b f.guard f.d f.opX f.opY (f.s3.setWidth 3) (f.x1.setWidth 3) s
  | .isetp => execIsetp f.b f.guard f.sub (f.d.setWidth 3) f.opX f.opY s
  | .isel => execIsel f.b f.guard f.d f.opX f.opY (f.s3.setWidth 3) s
  | .imov32 => execImov32 f.b f.d f.s1 s
  | .imov64 => execImov64 f.b f.guard f.d (f.opUn .v) s
  | .iabs32 => execIabs32 f.b f.d f.s1 s
  | .iabs64 => execIabs64 f.b f.guard f.d f.s1 f.mod s
  | .ineg32 => execIneg32 f.b f.d f.s1 s
  | .ineg64 => execIneg64 f.b f.guard f.d f.s1 f.mod s
  | .idp4 => execIdp4 f.b f.guard f.d f.opX f.opY f.s3 f.mod s
  | .iprmt => execIprmt f.b f.guard f.d f.opX f.opY f.s3 s
  | .isad => execIsad f.b f.guard f.d f.opX f.opY f.s3 (f.mod == 1) s
  | .nop32 => execNop32 f.b s
  | .nop64 => execNop64 f.b f.guard s
  | .nop96 => execNop96 f.b f.guard s
  | .pand32 => execPand32 f.b (f.d.setWidth 3) (f.s1.setWidth 3) s
  | .pand64 => execPand64 f.b f.guard (f.d.setWidth 3) (f.s1.setWidth 3) (f.s2.setWidth 3) s
  | .por32 => execPor32 f.b (f.d.setWidth 3) (f.s1.setWidth 3) s
  | .por64 => execPor64 f.b f.guard (f.d.setWidth 3) (f.s1.setWidth 3) (f.s2.setWidth 3) s
  | .pxor32 => execPxor32 f.b (f.d.setWidth 3) (f.s1.setWidth 3) s
  | .pxor64 => execPxor64 f.b f.guard (f.d.setWidth 3) (f.s1.setWidth 3) (f.s2.setWidth 3) s
  | .pandn32 => execPandn32 f.b (f.d.setWidth 3) (f.s1.setWidth 3) s
  | .pandn64 => execPandn64 f.b f.guard (f.d.setWidth 3) (f.s1.setWidth 3) (f.s2.setWidth 3) s
  | .pnot32 => execPnot32 f.b (f.d.setWidth 3) (f.s1.setWidth 3) s
  | .pnot64 => execPnot64 f.b f.guard (f.d.setWidth 3) (f.s1.setWidth 3) s
  | .pmov32 => execPmov32 f.b (f.d.setWidth 3) (f.s1.setWidth 3) s
  | .pmov64 => execPmov64 f.b f.guard (f.d.setWidth 3) (f.s1.setWidth 3) s
  | .pmovBit => execPmovBit f.b f.guard (f.d.setWidth 3) f.opX f.opY s
  | .pmovQ => execPmovQ f.b f.guard (f.d.setWidth 3) (f.s1.setWidth 3) s
  | .pmovHelp32 => execPmovHelp32 f.b (f.d.setWidth 3) s
  | .pmovHelp64 => execPmovHelp64 f.b f.guard (f.d.setWidth 3) s
  | .voteAll => execVoteAll f.b f.guard (f.d.setWidth 3) (f.s1.setWidth 3) s
  | .voteAny => execVoteAny f.b f.guard (f.d.setWidth 3) (f.s1.setWidth 3) s
  | .voteBal => execVoteBal f.b f.guard f.d (f.s1.setWidth 3) f.s2 s
  | .voteCnt => execVoteCnt f.b f.guard f.d (f.s1.setWidth 3) s
  | .shflIdx => execShflIdx f.b f.guard f.d f.opX f.opY s
  | .shflUp => execShflUp f.b f.guard f.d f.opX f.opY s
  | .shflDn => execShflDn f.b f.guard f.d f.opX f.opY s
  | .shflXor => execShflXor f.b f.guard f.d f.opX f.opY s
  | .shflQx => execShflQx f.b f.guard f.d f.s1 s
  | .shflQy => execShflQy f.b f.guard f.d f.s1 s
  | .redx => execRedx f.b f.guard f.sub f.d f.s1 s
  | .scan => execScan f.b f.guard f.sub f.d f.s1 (f.mod == 1) s
  | .barr => execBarr f.b f.sub f.d f.off f.x1 s
  | .bra => execBra f.b f.disp s
  | .brx => execBrx f.b (gTerm f.g1) f.disp f.joinDisp s
  | .join => execJoin f.b s
  | .loop => execLoop f.b f.disp s
  | .brk32 => execBrk32 f.b s
  | .brk64 => execBrk64 f.b f.guard s
  | .cont32 => execCont32 f.b s
  | .cont64 => execCont64 f.b f.guard s
  | .callDisp => execCallDisp f.b f.disp s
  | .callReg => execCallReg f.b f.s1 s
  | .ret => execRet f.b s
  | .exit32 => execExit32 f.b s
  | .exit64 => execExit64 f.b f.guard s
  | .yield => execYield f.b s
  | .trap32 => execTrap32 f.b s
  | .trap64 => execTrap64 f.b f.guard f.s3 s
  | .bkpt32 => execBkpt32 f.b s
  | .bkpt64 => execBkpt64 f.b f.guard f.s3 s
  | .sread32 => execSread32 f.b f.d f.s1 s
  | .sread64 => execSread64 f.b f.guard f.d f.s1 s
  | .swrite32 => execSwrite32 f.b f.d f.s1 s
  | .swrite64 => execSwrite64 f.b f.guard f.d f.s1 s
  | .fadd32 => execFadd32 f.b f.d f.s1 s
  | .fadd64 => execFadd64 f.b f.guard f.d f.opX f.opY f.mod s
  | .fsub32 => execFsub32 f.b f.d f.s1 s
  | .fsub64 => execFsub64 f.b f.guard f.d f.opX f.opY f.mod s
  | .fmul32 => execFmul32 f.b f.d f.s1 s
  | .fmul64 => execFmul64 f.b f.guard f.d f.opX f.opY f.mod s
  | .ffma => execFfma f.b f.guard f.d f.opX f.opY f.s3 f.mod s
  | .fmin32 => execFmin32 f.b f.d f.s1 s
  | .fmin64 => execFmin64 f.b f.guard f.d f.opX f.opY s
  | .fmax32 => execFmax32 f.b f.d f.s1 s
  | .fmax64 => execFmax64 f.b f.guard f.d f.opX f.opY s
  | .fabs32 => execFabs32 f.b f.d f.s1 s
  | .fabs64 => execFabs64 f.b f.guard f.d f.s1 s
  | .fneg32 => execFneg32 f.b f.d f.s1 s
  | .fneg64 => execFneg64 f.b f.guard f.d f.s1 s
  | .fcpsgn32 => execFcpsgn32 f.b f.d f.s1 s
  | .fcpsgn64 => execFcpsgn64 f.b f.guard f.d f.opX f.opY s
  | .fsetp => execFsetp f.b f.guard f.sub (f.d.setWidth 3) f.opX f.opY s
  | .frnd32 => execFrnd32 f.b f.d f.s1 s
  | .frnd64 => execFrnd64 f.b f.guard f.d f.s1 f.mod s
  | .fclass32 => execFclass32 f.b f.d f.s1 s
  | .fclass64 => execFclass64 f.b f.guard f.d f.s1 s
  | .fscl32 => execFscl32 f.b f.d f.s1 s
  | .fscl64 => execFscl64 f.b f.guard f.d f.opX f.opY f.mod s
  | .hadd232 => execHadd232 f.b f.d f.s1 s
  | .hadd264 => execHadd264 f.b f.guard f.d f.opX f.opY f.mod s
  | .hmul232 => execHmul232 f.b f.d f.s1 s
  | .hmul264 => execHmul264 f.b f.guard f.d f.opX f.opY f.mod s
  | .hfma2 => execHfma2 f.b f.guard f.d f.opX f.opY f.s3 f.mod s
  | .frcp32 => execFrcp32 f.b f.d f.s1 s
  | .frcp64 => execFrcp64 f.b f.guard f.d f.s1 f.mod s
  | .frsq32 => execFrsq32 f.b f.d f.s1 s
  | .frsq64 => execFrsq64 f.b f.guard f.d f.s1 f.mod s
  | .fsqrt32 => execFsqrt32 f.b f.d f.s1 s
  | .fsqrt64 => execFsqrt64 f.b f.guard f.d f.s1 f.mod s
  | .fexp232 => execFexp232 f.b f.d f.s1 s
  | .fexp264 => execFexp264 f.b f.guard f.d f.s1 s
  | .flog232 => execFlog232 f.b f.d f.s1 s
  | .flog264 => execFlog264 f.b f.guard f.d f.s1 s
  | .fsin32 => execFsin32 f.b f.d f.s1 s
  | .fsin64 => execFsin64 f.b f.guard f.d f.s1 s
  | .fcos32 => execFcos32 f.b f.d f.s1 s
  | .fcos64 => execFcos64 f.b f.guard f.d f.s1 s
  | .frandU3232 => execFrandU3232 f.b f.d s
  | .frandU3264 => execFrandU3264 f.b f.guard f.d s
  | .frandF3232 => execFrandF3232 f.b f.d s
  | .frandF3264 => execFrandF3264 f.b f.guard f.d s
  | .cvt => execCvt f.b f.guard f.d f.s1 f.s3 f.mod s
  | .cvtpPack => execCvtpPack f.b f.guard f.d f.s1 f.s2 (f.s3.setWidth 4) f.mod s
  | .cvtpPacksr => execCvtpPacksr f.b f.guard f.d f.s1 f.s2 (f.s3.setWidth 4) s
  | .cvtpUnpack => execCvtpUnpack f.b f.guard f.d f.s1 (f.s3.extractLsb' 6 2) (f.s3.setWidth 4) s
  | .ld => execLd f.b f.guard f.sub f.d f.off f.s2 f.s3 f.rq f.hint s
  | .st => execSt f.b f.guard f.sub f.d f.off f.s2 f.s3 f.rq f.hint s
  | .ldb => execLdb f.b f.guard f.sub f.d f.off f.s2 f.s3 f.hint f.mod s
  | .lds => execLds f.b f.guard f.sub f.d f.off f.s3 (f.rq == 1) s
  | .sts => execSts f.b f.guard f.sub f.d f.off f.s3 (f.rq == 1) s
  | .atom => execAtom f.b f.guard f.sub f.d f.off f.s2 f.s3 (f.rq == 1) f.hint f.mod f.s4 f.s5 f.x1 s
  | .red => execRed f.b f.guard f.sub f.off f.s2 f.s3 (f.rq == 1) f.hint (f.mod == 2) f.s4 f.x1 s
  | .atoms => execAtoms f.b f.guard f.sub f.d f.off f.s3 (f.rq == 1) f.mod f.s4 f.s5 f.x1 s
  | .fenceAcq => execFenceAcq f.b s
  | .fenceRel => execFenceRel f.b s
  | .fenceAr => execFenceAr f.b s
  | .rrel32 => execRrel32 f.b f.s1 s
  | .rrel64 => execRrel64 f.b f.guard f.s1 s
  | .invr => execInvr f.b f.guard f.s1 f.s2 f.s3 s
  | .wbr => execWbr f.b f.guard f.s1 f.s2 f.s3 s
  | .flr => execFlr f.b f.guard f.s1 f.s2 f.s3 s
  | .pref => execPref f.b f.guard f.s1 f.s2 f.s3 f.hint s
  | .cpy => execCpy f.b f.guard f.off f.s2 f.s3 f.hint f.mod f.s4 f.s5 (f.x1.extractLsb' 4 4) (f.x1.getLsbD 3) (f.x1.setWidth 3) (f.x2.extractLsb' 6 2) (f.x2.getLsbD 5) (f.x2.getLsbD 4) (f.x2.getLsbD 3) s
  | .cpyt => execCpyt f.b f.guard f.s1 f.s2 f.s3 f.hint f.s4 f.s5 (f.x1.getLsbD 5) (f.x1.getLsbD 4) (f.x1.getLsbD 3) (f.x1.setWidth 3) s
  | .cpymMc => execCpymMc f.b f.guard f.off f.dat f.s3 f.hint (f.mod == 1) f.s4 (f.x1.extractLsb' 5 3) (f.x1.getLsbD 4) f.x2 s
  | .cpymRd => execCpymRd f.b f.guard f.off f.dat f.s3 f.hint (f.mod == 1) f.s4 (f.x1.extractLsb' 5 3) (f.x1.getLsbD 4) (f.x1.setWidth 4) f.x2 s
  | .waitt32 => execWaitt32 f.b f.s1 s
  | .waitt64 => execWaitt64 f.b f.guard f.s1 s
  | .waitw => execWaitw f.b f.guard f.s1 f.s2 f.s3 f.mod s
  | .notify => execNotify f.b f.guard f.s1 f.s2 f.s3 s
  | .notifySt => execNotifySt f.b f.guard f.s1 f.s2 f.s3 s
  | .qfence => execQfence f.b (f.s1.setWidth 4) s
  | .isend => execIsend f.b f.guard f.s1 f.s2 f.s3 f.hint f.s4 f.s5 (f.x1.extractLsb' 6 2) (f.x1.extractLsb' 3 3) (f.x1.setWidth 3) (f.x2.getLsbD 7) (f.x2.extractLsb' 4 3) (f.x2.setWidth 4) s
  | .isendSync => execIsendSync f.b f.guard f.s1 f.s2 f.s3 f.hint f.s4 f.s5 (f.x1.extractLsb' 6 2) (f.x1.extractLsb' 3 3) (f.x1.setWidth 3) (f.x2.getLsbD 7) (f.x2.extractLsb' 4 3) (f.x2.setWidth 4) s
  | .lstat32 => execLstat32 f.b f.d f.s1 s
  | .lstat64 => execLstat64 f.b f.guard f.d f.s1 s
  | .tricls => execTricls f.b f.guard (f.d.setWidth 3) f.s1 (f.x1.extractLsb' 3 2) (f.x1.setWidth 3) f.x2 s
  | .wbld => execWbld f.b f.guard f.s1 f.s2 f.s3 f.hint s
  | .wbgth => execWbgth f.b f.guard f.s1 f.s2 f.s3 f.hint f.s4 s
  | .mma => execMma f.b f.guard f.s1 f.s2 f.hint (f.mod.getLsbD 1) (f.mod.getLsbD 0) f.s4 f.s5 (f.x1.getLsbD 5) (f.x1.setWidth 5) (f.x2.setWidth 7) s
  | .mmas => execMmas f.b f.guard f.d f.s1 f.s3 f.s4 (f.x1.getLsbD 5) (f.x1.setWidth 5) (f.x2.setWidth 7) s
  | .scacc => execScacc f.b f.guard f.d f.s1 f.s3 (f.mod == 1) f.s4 (f.x1.setWidth 5) (f.x2.setWidth 7) s
  | .lbind => execLbind f.b (f.s1.setWidth 3) s
  | .lunbind => execLunbind f.b s
  | .ladd => execLadd f.b f.guard f.d f.s1 f.s2 (f.s3.setWidth 3) (f.mod.getLsbD 1) (f.mod.getLsbD 0) s
  | .lsub => execLsub f.b f.guard f.d f.s1 f.s2 (f.s3.setWidth 3) (f.mod.getLsbD 1) (f.mod.getLsbD 0) s
  | .lshl => execLshl f.b f.guard f.d f.opX f.opY s
  | .lshr => execLshr f.b f.guard f.d f.opX f.opY s
  | .lmacs => execLmacs f.b f.guard f.d f.s1 f.s2 f.s3 (f.mod == 2) (f.x1.setWidth 5) s
  | .lcmp => execLcmp f.b f.guard f.sub (f.d.setWidth 3) f.s1 f.s2 s

/-- The meaning of a group. -/
def runFields (f : Fields) (s : State) : Out :=
  match classify f with
  | .ok r => runRow f s r
  | .bad cause idx bitPos => execIll cause f.word0 idx bitPos s

/-- The scoreboard would hold an instruction of a team (R96): asked at a port that no core has, the team lets go of it. -/
def State.scoreboarded (s : State) (t : Team) (f : Fields) : Bool :=
  match runFields f { s.setTeam { t with port := some 2, runLen := 0 } with cur := t.uid } with
  | .next v => ((v.team? t.uid).map fun x => x.port.isNone).getD false
  | .fault _ => false
  | .refused _ => false

/-- The line group that an instruction reads as a source (R193): MMA and MMAS with LN = 1. -/
def lineSource (f : Fields) : Option (Nat × Nat) :=
  match classify f with
  | .bad _ _ _ => none
  | .ok r =>
    if (r = .mma ∨ r = .mmas) ∧ f.x1.getLsbD 5 then
      some (f.s1.toNat, rowWords ((f.x1.setWidth 5).toNat % 16) ((f.x2.setWidth 7).toNat + 1))
    else none

/-- An entry that a line is still owed would hold an instruction of a team, on its port or asleep (R194). A reader of an entry that a
parked request owes is not held: it parks. -/
def State.lineHeld (s : State) (t : Team) (f : Fields) : Bool :=
  match lineSource f with
  | none => false
  | some (la, n) =>
    let m := t.execMask f.guard
    m != 0 && (t.lineFail la n (passCount m)).isNone &&
      match s.lineWait t la n (passCount m) with
      | none => false
      | some r => !r.joins

/-- The next instruction of a team has ready operands (R95): neither the scoreboard nor a line that lacks an entry would hold it.
What else an instruction waits for is no operand. A trap that waits for the team's next run needs none, and neither does a fetch that
fails. -/
def State.operandsReady (s : State) (t : Team) : Bool :=
  t.due.isSome || t.async.isSome ||
    match s.fetch { t with port := some 0, runLen := 0 } with
    | .next _ => true
    | .words f => !(s.scoreboarded t f || s.lineHeld t f)

/-- RUN_START (R95): a free port takes the team whose operands are ready, which no such team of its core precedes. -/
def execRunStart (team : Nat) (s : State) : Out :=
  match s.team? team with
  | none => .next s
  | some t =>
    let before := s.teams.any fun x => x.core == t.core && x.uid != t.uid && s.mayRun x && s.precedes x t && s.operandsReady x
    match (List.range 2).find? fun k => s.portFree t.core k with
    | none => .next s
    | some k =>
      if !s.mayRun t || before || !s.operandsReady t then .next s
      else .next (s.takeDue { t with port := some k, runLen := 0, runClk := s.clk, runs := t.runs + 1 })

end Sys2Proof.Machine
end

