-- ==== Sys2Proof/Machine/Texture.lean ====
section
/-!
DEFINITION. The island helpers shared by the contracts, and TEXF: texture descriptors, taps and filtering (R195-R198).
-/
namespace Sys2Proof.Machine

/-- A quotient num · 2^e / den rounded once to a format, RNE (R197, R201). -/
def ratRound (f : Fmt) (num : Int) (den : Nat) (e : Int) : Nat :=
  let n := num.natAbs
  let k := f.mb + 6 + bitLen den - bitLen n
  (f.round 0 (decide (num < 0)) (n <<< k / den) (e - k) (n <<< k % den != 0)).1

/-- A natural number in FP32. -/
def natF32 (n : Nat) : Word := (w32 (fp32.round 0 false n 0 false)).1

/-- FP32 operations whose flags nothing reads: an island sets none (R197, R206, R209, R211). -/
def xAdd (a b : Word) : Word := (fAdd 0 a b).1
def xSub (a b : Word) : Word := (fSub 0 a b).1
def xMul (a b : Word) : Word := (fMul 0 a b).1
def xFma (a b c : Word) : Word := (fFma 0 a b c).1

/-- An FP16 code in FP32, exact. -/
def halfF32 (h : Nat) : Word := (pk32 0 (fp16.unpack true h)).1

/-- A NaN or an infinity is taken as +0 (R197). -/
def sanitize (x : Word) : Word :=
  match un32 x with
  | .nan _ => 0
  | .inf _ => 0
  | .fin _ _ _ => x

/-- floor(256 · x), with an infinity beyond every clamp (R197). -/
def floor256 (x : Word) : Int :=
  match un32 x with
  | .nan _ => 0
  | .inf n => if n then -(2 ^ 200 : Nat) else (2 ^ 200 : Nat)
  | .fin n m e => if (0 : Int) ≤ e + 8 then onGrid n m (e + 8) 0 else onGrid n m 0 0 / (2 ^ (-(e + 8)).toNat : Nat)

def clampInt (lo hi x : Int) : Int := min hi (max lo x)

/-- A number of the register space of a slot, by byte offset and width. -/
def Slot.regNat (x : Slot) (o n : Nat) : Nat := leNat ((List.range (n / 4)).flatMap fun i => leBytes 4 (x.reg (o + 4 * i)).toNat)

/-- A texture descriptor (R195). -/
structure TexDesc where
  base : Nat
  w : Nat
  h : Nat
  levM1 : Nat
  fmt : Nat
  addrU : Nat
  addrV : Nat
  bind : Nat
  deriving DecidableEq, Repr

/-- The descriptor `d` of a slot, or none where a field is outside its limits (R195, R198). -/
def Slot.texDesc (x : Slot) (d : Nat) : Option TexDesc :=
  let v := x.regNat (0x80 + 32 * d) 32
  let t : TexDesc :=
    { base := bits v 63 0, w := bits v 76 64 + 1, h := bits v 92 80 + 1, levM1 := bits v 99 96, fmt := bits v 107 104,
      addrU := bits v 109 108, addrV := bits v 111 110, bind := bits v 114 112 }
  if v / 2 ^ 115 ≠ 0 ∨ bits v 79 77 ≠ 0 ∨ bits v 95 93 ≠ 0 ∨ bits v 103 100 ≠ 0 ∨ t.base % 64 ≠ 0 ∨ 13 < t.levM1 ∨
      2 < t.fmt ∨ t.addrU = 3 ∨ t.addrV = 3 then none
  else some t

def TexDesc.texel (t : TexDesc) : Nat := if t.fmt = 0 then 4 else if t.fmt = 1 then 8 else 1
def TexDesc.wm (t : TexDesc) (m : Nat) : Nat := max 1 (t.w / 2 ^ m)
def TexDesc.hm (t : TexDesc) (m : Nat) : Nat := max 1 (t.h / 2 ^ m)
def TexDesc.pitch (t : TexDesc) (m : Nat) : Nat := alignUp (t.wm m * t.texel) 64

/-- The offset of texel (i, j) of level m in the binding (R195). -/
def TexDesc.at (t : TexDesc) (m i j : Nat) : Nat :=
  t.base + ((List.range m).map fun k => t.pitch k * t.hm k).sum + t.pitch m * j + t.texel * i

/-- A weighted texel: weight, level, and the unaddressed column and row (R197). -/
structure Tap where
  weight : Nat
  level : Nat
  i : Int
  j : Int
  deriving DecidableEq, Repr

/-- The taps of bilin(m, u, v), weights over 65,536 (R197). -/
def TexDesc.bilin (t : TexDesc) (scale m : Nat) (u v : Word) : List Tap :=
  let half : Word := 0x3F000000
  let lim : Int := (2 ^ 30 : Nat)
  let x := clampInt (-lim) (lim - 1) (floor256 (xSub (xMul u (natF32 (t.wm m))) half))
  let y := clampInt (-lim) (lim - 1) (floor256 (xSub (xMul v (natF32 (t.hm m))) half))
  let i0 := x / 256
  let j0 := y / 256
  let a := (x % 256).toNat
  let b := (y % 256).toNat
  [⟨scale * ((256 - a) * (256 - b)), m, i0, j0⟩, ⟨scale * (a * (256 - b)), m, i0 + 1, j0⟩,
    ⟨scale * ((256 - a) * b), m, i0, j0 + 1⟩, ⟨scale * (a * b), m, i0 + 1, j0 + 1⟩]

/-- The taps of tril(u, v, lod), weights over 2^24 (R197). -/
def TexDesc.tril (t : TexDesc) (u v lod : Word) : List Tap :=
  let tt := (clampInt 0 (256 * t.levM1 : Nat) (floor256 lod)).toNat
  let m0 := tt / 256
  let f := tt % 256
  t.bilin (256 - f) m0 u v ++ t.bilin f (min (m0 + 1) t.levM1) u v

/-- The taps of KIND 3, weights over 2^24 · N (R197). -/
def TexDesc.aniso (t : TexDesc) (n : Nat) (u v lod du dv : Word) : List Tap :=
  (List.range n).flatMap fun k =>
    let c : Word := BitVec.ofNat 32 (ratRound fp32 ((2 * k + 1 : Nat) - (n : Int)) (2 * n) 0)
    t.tril (sanitize (xAdd u (xMul du c))) (sanitize (xAdd v (xMul dv c))) lod

/-- A column or row under its addressing; none is a border texel outside (R197). -/
def texAddr (mode n : Nat) (i : Int) : Option Nat :=
  if mode = 0 then some (i % (n : Int)).toNat
  else if mode = 1 then some (clampInt 0 (n - 1 : Nat) i).toNat
  else if 0 ≤ i ∧ i < n then some i.toNat
  else none

/-- The sum of a channel over the extended reals (R197): the finite part as a multiple of 1/255 or 2^-24, and which of NaN,
+∞ and −∞ took part. -/
structure ChanSum where
  num : Int
  nan : Bool
  pinf : Bool
  ninf : Bool
  deriving DecidableEq, Repr

def ChanSum.zero : ChanSum := ⟨0, false, false, false⟩

/-- Add a weighted channel of a texel. -/
def ChanSum.add (c : ChanSum) (half : Bool) (weight code : Nat) : ChanSum :=
  if !half then { c with num := c.num + (weight * code : Nat) }
  else
    match fp16.unpack true code with
    | .nan _ => { c with nan := true }
    | .inf n => if n then { c with ninf := true } else { c with pinf := true }
    | .fin n m e => { c with num := c.num + weight * onGrid n m e (-24) }

/-- The channels R, G, B, A of a texel as codes, and whether they are FP16 (R195). -/
def texCodes (fmt x : Nat) : List Nat :=
  if fmt = 0 then (List.range 4).map fun i => bits x (8 * i + 7) (8 * i)
  else if fmt = 1 then (List.range 4).map fun i => bits x (16 * i + 15) (16 * i)
  else [x, 0, 0, 255]

/-- `round` of a channel to FP16 or E4M3 (R196, R197): `den` is the denominator of the weights. -/
def ChanSum.round (c : ChanSum) (half : Bool) (den : Nat) (e4 : Bool) : Nat :=
  if c.nan || (c.pinf && c.ninf) then (if e4 then 0x7F else 0x7E00)
  else if c.pinf then (if e4 then 0x7E else 0x7C00)
  else if c.ninf then (if e4 then 0xFE else 0xFC00)
  else
    let f := if e4 then e4m3 else fp16
    if half then ratRound f c.num den (-24) else ratRound f c.num (255 * den) 0

/-- Read the taps of a lane and sum them; a texel of weight zero is not read (R197). -/
def State.sumTaps (core k part : Nat) (rd : Reader) (lane : Nat) (cap : Cap) (t : TexDesc) :
    List Tap → State → List ChanSum → Except EngStop (State × List ChanSum)
  | [], s, acc => .ok (s, acc)
  | p :: ps, s, acc =>
    if p.weight = 0 then State.sumTaps core k part rd lane cap t ps s acc
    else
      match texAddr t.addrU (t.wm p.level) p.i, texAddr t.addrV (t.hm p.level) p.j with
      | some i, some j =>
        match s.islRead core k part rd lane cap (t.at p.level i j) t.texel with
        | .error e => .error e
        | .ok (s1, x) =>
          State.sumTaps core k part rd lane cap t ps s1
            ((List.zip acc (texCodes t.fmt x)).map fun q => q.1.add (t.fmt == 1) p.weight q.2)
      | some _, none => State.sumTaps core k part rd lane cap t ps s acc
      | none, some _ => State.sumTaps core k part rd lane cap t ps s acc
      | none, none => State.sumTaps core k part rd lane cap t ps s acc

/-- A TEXF request of one lane (R196, R197). -/
def State.texf (core k : Nat) (s : State) (r : IslandReq) (l : LaneReq) : Except EngStop (State × List Word) :=
  let w0 := l.word 0
  let x := s.getSlot core k
  let kind := l.kind
  let n := bits w0 15 12 + 1
  if bits w0 7 4 ≠ 0 ∨ w0 / 2 ^ 16 ≠ 0 ∨ (kind ≠ 3 ∧ n ≠ 1) then .error (formatError l.lane)
  else
    match x.texDesc (bits w0 9 8) with
    | none => .error (formatError l.lane)
    | some t =>
      let u := sanitize (BitVec.ofNat 32 (l.word 1))
      let v := sanitize (BitVec.ofNat 32 (l.word 2))
      let lod := sanitize (BitVec.ofNat 32 (l.word 3))
      let w4 := l.word 4
      let taps :=
        if kind = 1 then t.bilin 1 0 u v
        else if kind = 2 then t.tril u v lod
        else t.aniso n u v lod (halfF32 (bits w4 15 0)) (halfF32 (bits w4 31 16))
      let den := if kind = 1 then 2 ^ 16 else if kind = 2 then 2 ^ 24 else 2 ^ 24 * n
      match State.sumTaps core k r.part r.reader l.lane (x.binding t.bind) t taps s (List.replicate 4 ChanSum.zero) with
      | .error e => .error e
      | .ok (s1, cs) =>
        let e4 := bit w0 10
        let ch (i : Nat) : Nat := (cs[i]?.getD ChanSum.zero).round (t.fmt == 1) den e4
        let word :=
          if e4 then ch 0 + ch 1 * 2 ^ 8 + ch 2 * 2 ^ 16 + ch 3 * 2 ^ 24
          else if bit w0 11 then ch 2 + ch 3 * 2 ^ 16
          else ch 0 + ch 1 * 2 ^ 16
        .ok (s1, [BitVec.ofNat 32 word])

/-- TEXF_BILINEAR (R197): KIND 1. -/
def execTexfBilinear (core slot : Nat) (s : State) : Out :=
  .next (s.island core slot (fun r l => r.cls == 1 && l.kind == 1) (State.texf core slot))

/-- TEXF_TRILINEAR (R197): KIND 2. -/
def execTexfTrilinear (core slot : Nat) (s : State) : Out :=
  .next (s.island core slot (fun r l => r.cls == 1 && l.kind == 2) (State.texf core slot))

/-- TEXF_ANISOTROPIC (R197): KIND 3. -/
def execTexfAnisotropic (core slot : Nat) (s : State) : Out :=
  .next (s.island core slot (fun r l => r.cls == 1 && l.kind == 3) (State.texf core slot))

end Sys2Proof.Machine
end

