-- ==== Sys2Proof/Machine/Raster.lean ====
section
/-!
DEFINITION. RAST (R199-R203): the checks of a triangle, coverage and interpolants, quads in order, and pixel teams.
-/
namespace Sys2Proof.Machine

/-- A vertex: 16.8 coordinates and z. -/
structure Vertex where
  x : Int
  y : Int
  z : Word
  deriving DecidableEq, Repr

/-- The edge function of (i, j) at p (R201). -/
def edgeFn (i j : Vertex) (px py : Int) : Int := (j.x - i.x) * (py - i.y) - (j.y - i.y) * (px - i.x)

/-- A top-left edge (R201). -/
def topLeft (i j : Vertex) : Bool := decide (j.y - i.y < 0) || (decide (j.y = i.y) && decide (0 < j.x - i.x))

/-- A pixel centre against one edge. -/
def edgeIn (i j : Vertex) (px py : Int) : Bool :=
  decide (0 < edgeFn i j px py) || (decide (edgeFn i j px py = 0) && topLeft i j)

/-- A triangle with its vertices in the order of step 2 of R201, and the scissor, inclusive. -/
structure TriSetup where
  v0 : Vertex
  v1 : Vertex
  v2 : Vertex
  area : Nat
  x0 : Int
  x1 : Int
  y0 : Int
  y1 : Int
  deriving DecidableEq, Repr

/-- A pixel is covered (R201). -/
def TriSetup.covers (t : TriSetup) (x y : Nat) : Bool :=
  let px : Int := (256 * x + 128 : Nat)
  let py : Int := (256 * y + 128 : Nat)
  decide (t.x0 ≤ x) && decide ((x : Int) ≤ t.x1) && decide (t.y0 ≤ y) && decide ((y : Int) ≤ t.y1) &&
    edgeIn t.v0 t.v1 px py && edgeIn t.v1 t.v2 px py && edgeIn t.v2 t.v0 px py

/-- z at a pixel (R201): the exact interpolant rounded once. A z that is not finite gives a value that the spec does not
state (log entry 23). -/
def TriSetup.zAt (t : TriSetup) (x y : Nat) : Word :=
  let px : Int := (256 * x + 128 : Nat)
  let py : Int := (256 * y + 128 : Nat)
  let e1 := edgeFn t.v2 t.v0 px py
  let e2 := edgeFn t.v0 t.v1 px py
  match un32 t.v0.z, un32 t.v1.z, un32 t.v2.z with
  | .fin n0 m0 q0, .fin n1 m1 q1, .fin n2 m2 q2 =>
    let g := min q0 (min q1 q2)
    let z0 := onGrid n0 m0 q0 g
    let num := z0 * t.area + e1 * (onGrid n1 m1 q1 g - z0) + e2 * (onGrid n2 m2 q2 g - z0)
    BitVec.ofNat 32 (ratRound fp32 num t.area g)
  | _, _, _ => Config.openWord 0 [t.v0.z.toNat, t.v1.z.toNat, t.v2.z.toNat, ofSigned 64 e1, ofSigned 64 e2, t.area]

/-- λ1 and λ2 at a pixel (R201). -/
def TriSetup.lamAt (t : TriSetup) (i j : Vertex) (x y : Nat) : Word :=
  BitVec.ofNat 32 (ratRound fp32 (edgeFn i j (256 * x + 128 : Nat) (256 * y + 128 : Nat)) t.area 0)

/-- The quad at an even origin, if it covers a pixel (R202). -/
def TriSetup.quad (t : TriSetup) (x y : Nat) : Option Quad :=
  let ps : List (Nat × Nat) := [(x, y), (x + 1, y), (x, y + 1), (x + 1, y + 1)]
  let cover := ps.map fun p => t.covers p.1 p.2
  if cover.any id then
    some { x := x, y := y, cover := cover, l1 := ps.map fun p => t.lamAt t.v2 t.v0 p.1 p.2,
           l2 := ps.map fun p => t.lamAt t.v0 t.v1 p.1 p.2, z := ps.map fun p => t.zAt p.1 p.2 }
  else none

/-- The quads of a triangle: tiles of 8 by 8 in row-major order, quads of a tile in row-major order (R202). -/
def TriSetup.quads (t : TriSetup) : List Quad :=
  if t.x1 < t.x0 ∨ t.y1 < t.y0 ∨ t.x0 < 0 ∨ t.y0 < 0 then []
  else
    let tx := t.x0.toNat / 8
    let ty := t.y0.toNat / 8
    (List.range (t.y1.toNat / 8 - ty + 1)).flatMap fun j =>
      (List.range (t.x1.toNat / 8 - tx + 1)).flatMap fun i =>
        (List.range 16).filterMap fun q => t.quad (8 * (tx + i) + 2 * (q % 4)) (8 * (ty + j) + 2 * (q / 4))

/-- A triangle from its vertices under CULL and the scissor (R199, R201); none where it produces no quads. -/
def triSetup (cull : Nat) (scx scy : Nat) (v0 v1 v2 : Vertex) : Option TriSetup :=
  let a := edgeFn v0 v1 v2.x v2.y
  if a = 0 ∨ (cull = 1 ∧ a < 0) ∨ (cull = 2 ∧ 0 < a) then none
  else
    let lo3 (p q r : Int) : Int := min p (min q r)
    let hi3 (p q r : Int) : Int := max p (max q r)
    let w1 := if a < 0 then v2 else v1
    let w2 := if a < 0 then v1 else v2
    some
      { v0 := v0, v1 := w1, v2 := w2, area := a.natAbs
        x0 := max (bits scx 12 0 : Nat) ((lo3 v0.x v1.x v2.x - 128) / 256)
        x1 := min (bits scx 28 16 : Nat) (hi3 v0.x v1.x v2.x / 256)
        y0 := max (bits scy 12 0 : Nat) ((lo3 v0.y v1.y v2.y - 128) / 256)
        y1 := min (bits scy 28 16 : Nat) (hi3 v0.y v1.y v2.y / 256) }

/-- The limits of a pixel launch record beside those of R63 (R202). -/
def pixelRecordOk (b : List Byte) : Bool :=
  field b 0x12 1 == 1 && field b 0x13 1 == 1 && field b 0x14 1 == 1 && field b 0x18 2 == 1 && field b 0x1A 2 == 1 &&
    [32, 64, 96, 128].contains (field b 0x10 2) && (recordLimit b).isNone

/-- A failed check of the pixel launch record as the island's failure. -/
def QFail.stop (e : QFail) (lane : Nat) : EngStop :=
  if e.cause = 0x03 then formatError lane
  else .fail { cause := e.cause, info := e.info, lane := lane, handle := e.handle, park := e.key.isSome,
               page := (e.key.map (·.2)).getD 0 }

/-- The launch record of the pixel teams (R202), read through its binding and checked as a LAUNCH's is. -/
def State.pixelRecord (core k : Nat) (s : State) (r : IslandReq) (lane : Nat) : Except EngStop (State × LaunchRec) :=
  let x := s.getSlot core k
  let off := x.regNat 0x90 8
  let b := x.regNat 0x98 4
  if off % 256 ≠ 0 ∨ 7 < b then .error (formatError lane)
  else
    match s.islRead core k r.part r.reader lane (x.binding b) off 256 with
    | .error e => .error e
    | .ok (s1, v) =>
      let bs := leBytes 256 v
      if !pixelRecordOk bs then .error (formatError lane)
      else
        match s1.checkRecord r.part bs with
        | .error e => .error (e.stop lane)
        | .ok p => .ok (s1, p)

/-- A coordinate of the triangle record. -/
def triCoord (v i : Nat) : Int := toSigned 32 (bits v (32 * i + 31) (32 * i))

/-- A coordinate outside −2^23 to 2^23 − 1 (R200). -/
def coordBad (x : Int) : Bool := decide (x < -(2 ^ 23 : Nat)) || decide (((2 ^ 23 : Nat) : Int) ≤ x)

/-- The registers and words of a RAST request inside the contract (R199, R200). -/
def rastOk (x : Slot) (l : LaneReq) : Bool :=
  let sc (v : Nat) : Bool := bits v 15 13 == 0 && v / 2 ^ 29 == 0
  decide (l.word 0 / 2 ^ 7 = 0) && l.word 1 % 16 == 0 && decide (x.regNat 0x80 4 ≤ 2) && sc (x.regNat 0x84 4) && sc (x.regNat 0x88 4)

/-- RAST_TRIANGLE (R200-R202): a triangle is accepted, and its quads wait for their pixel teams. -/
def State.rast (core k : Nat) (s : State) (r : IslandReq) (l : LaneReq) : Except EngStop (State × List Word) :=
  let x := s.getSlot core k
  if !rastOk x l then .error (formatError l.lane)
  else
    match s.islRead core k r.part r.reader l.lane (x.binding (bits (l.word 0) 6 4)) (l.word 1) 48 with
    | .error e => .error e
    | .ok (s1, v) =>
      if v / 2 ^ 288 ≠ 0 ∨ ((List.range 6).any fun i => coordBad (triCoord v i)) then .error (formatError l.lane)
      else
        match State.pixelRecord core k s1 r l.lane with
        | .error e => .error e
        | .ok (s2, p) =>
          let vert (i : Nat) : Vertex :=
            { x := triCoord v (2 * i), y := triCoord v (2 * i + 1), z := BitVec.ofNat 32 (bits v (32 * i + 223) (32 * i + 192)) }
          let qs := ((triSetup (x.regNat 0x80 4) (x.regNat 0x84 4) (x.regNat 0x88 4) (vert 0) (vert 1) (vert 2)).map
            TriSetup.quads).getD []
          let from? := (s2.nb? r.nb).bind fun n => s2.launch? n.launch
          match from?, qs with
          | some la, q :: rest =>
            let t : Tri := { req := r.id, uid := r.uid, tag := r.tag, part := r.part, queue := la.queue, cls := la.cls,
                             ident := BitVec.ofNat 32 (l.word 2), pc := r.pc, prm := p, quads := q :: rest }
            .ok (s2.mapSlot core k fun x => { x with tris := x.tris ++ [t] }, [])
          | some _, [] => .ok (s2, [])
          | none, _ => .ok (s2, [])

/-- RAST_TRIANGLE (R200-R202); with 64 triangles under way the request waits (R200). -/
def execRastTriangle (core slot : Nat) (s : State) : Out :=
  if 64 ≤ (s.getSlot core slot).tris.length then .next s
  else .next (s.island core slot (fun r l => r.cls == 2 && l.kind == 1) (State.rast core slot))

/-- RAST_PIXEL_TEAM_OFFER (R202): the next LANES/4 quads of the oldest triangle become a launch of one neighbourhood. -/
def execRastPixelTeamOffer (core slot : Nat) (s : State) : Out :=
  match (s.getSlot core slot).tris with
  | [] => .next s
  | t :: rest =>
    let n := t.prm.lanes / 4
    let (id, s1) := s.fresh
    let la : Launch :=
      { id := id, part := t.part, queue := t.queue, mailbox := none, cls := t.cls, prm := t.prm,
        handlerSeq := some t.ident, rast := some (t.req, t.uid, t.tag), quads := t.quads.take n, finished := 0,
        started := false, startNo := 0 }
    let left := t.quads.drop n
    let s2 := s1.mapSlot core slot fun x => { x with tris := if left.isEmpty then rest else { t with quads := left } :: rest }
    let s3 : State := { s2 with launches := s2.launches ++ [la] }
    .next (s3.mapPart t.part fun p => { p with offers := p.offers ++ [id] })

end Sys2Proof.Machine
end

