-- ==== Sys2Proof/Machine/Rv32.lean ====
section
/-!
DEFINITION. The base RV32IMC words of a gondola core. The spec names the set ("four RV32IMC cores … in machine mode", before
R53) and defines only Xgnd; what stands here is PRESUMED from the published RISC-V specification (log entry 7). The opcode table
has no row for these words.
-/
namespace Sys2Proof.Machine

/-- What a base instruction leaves: the core and the gondola's memory, or an exception with mcause and mtval. -/
inductive RvRes where
  | done (g : GCore) (m : List Host.Cell)
  | trap (mcause : Nat) (mtval : Word)
  deriving DecidableEq, Repr

/-- Put fields together: each is a width and a value, the lowest first. -/
def joinBits : List (Nat × Nat) → Nat
  | [] => 0
  | (n, v) :: r => v % 2 ^ n + 2 ^ n * joinBits r

/-- A sign-extended immediate of `n` bits. -/
def rvSext (n v : Nat) : Word := BitVec.ofInt 32 (toSigned n v)

/-- The I, S, B, U and J immediates of a word. -/
def rvImmI (w : Nat) : Word := rvSext 12 (bits w 31 20)
def rvImmS (w : Nat) : Word := rvSext 12 (joinBits [(5, bits w 11 7), (7, bits w 31 25)])
def rvImmB (w : Nat) : Word := rvSext 13 (joinBits [(1, 0), (4, bits w 11 8), (6, bits w 30 25), (1, bits w 7 7), (1, bits w 31 31)])
def rvImmU (w : Nat) : Word := BitVec.ofNat 32 (bits w 31 12 * 2 ^ 12)
def rvImmJ (w : Nat) : Word := rvSext 21 (joinBits [(1, 0), (10, bits w 30 21), (1, bits w 20 20), (8, bits w 19 12), (1, bits w 31 31)])

/-- A word from its fields: opcode, rd, funct3, rs1, rs2, funct7. -/
def rvWord (op rd f3 rs1 rs2 f7 : Nat) : Nat := joinBits [(7, op), (5, rd), (3, f3), (5, rs1), (5, rs2), (7, f7)]

/-- An I-type, S-type, B-type and J-type word; immediates are taken modulo their width. -/
def rvWordI (op rd f3 rs1 imm : Nat) : Nat := joinBits [(7, op), (5, rd), (3, f3), (5, rs1), (12, imm)]
def rvWordS (f3 rs1 rs2 imm : Nat) : Nat := rvWord 0x23 (bits imm 4 0) f3 rs1 rs2 (bits imm 11 5)
def rvWordB (f3 rs1 imm : Nat) : Nat :=
  rvWord 0x63 (joinBits [(1, bits imm 11 11), (4, bits imm 4 1)]) f3 rs1 0 (joinBits [(6, bits imm 10 5), (1, bits imm 12 12)])
def rvWordJ (rd imm : Nat) : Nat :=
  joinBits [(7, 0x6F), (5, rd), (8, bits imm 19 12), (1, bits imm 11 11), (10, bits imm 10 1), (1, bits imm 20 20)]

/-- A compressed word (RV32C without F and D) as the 32-bit word that it stands for, none where it is reserved. -/
def rvExpand (c : Nat) : Option Nat :=
  let f3 := bits c 15 13
  let rd := bits c 11 7
  let rs := bits c 6 2
  let hi := 8 + bits c 9 7
  let lo := 8 + bits c 4 2
  let b12 := bits c 12 12
  let imm6 := (rvSext 6 (joinBits [(5, rs), (1, b12)])).toNat
  let jump := (rvSext 12 (joinBits [(1, 0), (3, bits c 5 3), (1, bits c 11 11), (1, bits c 2 2), (1, bits c 7 7), (1, bits c 6 6),
    (2, bits c 10 9), (1, bits c 8 8), (1, b12)])).toNat
  let branch := (rvSext 9 (joinBits [(1, 0), (2, bits c 4 3), (2, bits c 11 10), (1, bits c 2 2), (2, bits c 6 5), (1, b12)])).toNat
  let lw := joinBits [(2, 0), (1, bits c 6 6), (3, bits c 12 10), (1, bits c 5 5)]
  let shift (f3 f7 r : Nat) : Option Nat := if b12 = 0 then some (rvWord 0x13 r f3 r rs f7) else none
  match c % 4, f3 with
  | 0, 0 =>
    let n := joinBits [(2, 0), (1, bits c 6 6), (1, bits c 5 5), (2, bits c 12 11), (4, bits c 10 7)]
    if n = 0 then none else some (rvWordI 0x13 lo 0 2 n)
  | 0, 2 => some (rvWordI 0x03 lo 2 hi lw)
  | 0, 6 => some (rvWordS 2 hi lo lw)
  | 1, 0 => some (rvWordI 0x13 rd 0 rd imm6)
  | 1, 1 => some (rvWordJ 1 jump)
  | 1, 2 => some (rvWordI 0x13 rd 0 0 imm6)
  | 1, 3 =>
    if rs = 0 ∧ b12 = 0 then none
    else if rd = 2 then
      some (rvWordI 0x13 2 0 2 (rvSext 10 (joinBits [(4, 0), (1, bits c 6 6), (1, bits c 2 2), (1, bits c 5 5), (2, bits c 4 3), (1, b12)])).toNat)
    else some (joinBits [(7, 0x37), (5, rd), (20, imm6)])
  | 1, 4 =>
    match bits c 11 10 with
    | 0 => shift 5 0 hi
    | 1 => shift 5 0x20 hi
    | 2 => some (rvWordI 0x13 hi 7 hi imm6)
    | _ =>
      if b12 ≠ 0 then none
      else
        match bits c 6 5 with
        | 0 => some (rvWord 0x33 hi 0 hi lo 0x20)
        | 1 => some (rvWord 0x33 hi 4 hi lo 0)
        | 2 => some (rvWord 0x33 hi 6 hi lo 0)
        | _ => some (rvWord 0x33 hi 7 hi lo 0)
  | 1, 5 => some (rvWordJ 0 jump)
  | 1, 6 => some (rvWordB 0 hi branch)
  | 1, 7 => some (rvWordB 1 hi branch)
  | 2, 0 => shift 1 0 rd
  | 2, 2 =>
    if rd = 0 then none else some (rvWordI 0x03 rd 2 2 (joinBits [(2, 0), (3, bits c 6 4), (1, b12), (2, bits c 3 2)]))
  | 2, 4 =>
    if rs = 0 then
      if rd = 0 then (if b12 = 1 then some 0x00100073 else none) else some (rvWordI 0x67 b12 0 rd 0)
    else some (rvWord 0x33 rd 0 (if b12 = 1 then rd else 0) rs 0)
  | 2, 6 => some (rvWordS 2 2 rs (joinBits [(2, 0), (4, bits c 12 9), (2, bits c 8 7)]))
  | _, _ => none

/-- The multiplications and divisions, with the results that the standard states for a divisor of 0 and for the overflow. -/
def rvMulDiv (f3 : Nat) (a b : Word) : Word :=
  match f3 with
  | 0 => a * b
  | 1 => BitVec.ofInt 32 (a.toInt * b.toInt / (2 ^ 32 : Nat))
  | 2 => BitVec.ofInt 32 (a.toInt * (b.toNat : Int) / (2 ^ 32 : Nat))
  | 3 => BitVec.ofNat 32 (a.toNat * b.toNat / 2 ^ 32)
  | 4 => if b = 0 then 0xFFFFFFFF else BitVec.ofInt 32 (Int.tdiv a.toInt b.toInt)
  | 5 => if b = 0 then 0xFFFFFFFF else BitVec.ofNat 32 (a.toNat / b.toNat)
  | 6 => if b = 0 then a else BitVec.ofInt 32 (Int.tmod a.toInt b.toInt)
  | _ => if b = 0 then a else BitVec.ofNat 32 (a.toNat % b.toNat)

/-- The other integer operations by funct3; `alt` is subtraction or an arithmetic shift. -/
def rvAlu (f3 : Nat) (alt : Bool) (a b : Word) : Word :=
  let sh := b.toNat % 32
  match f3 with
  | 0 => if alt then a - b else a + b
  | 1 => a <<< sh
  | 2 => if a.toInt < b.toInt then 1 else 0
  | 3 => if a.toNat < b.toNat then 1 else 0
  | 4 => a ^^^ b
  | 5 => if alt then a.sshiftRight sh else a >>> sh
  | 6 => a ||| b
  | _ => a &&& b

/-- A branch's condition, none where funct3 is reserved. -/
def rvBranch (f3 : Nat) (a b : Word) : Option Bool :=
  match f3 with
  | 0 => some (a == b)
  | 1 => some (a != b)
  | 4 => some (decide (a.toInt < b.toInt))
  | 5 => some (decide (b.toInt ≤ a.toInt))
  | 6 => some (decide (a.toNat < b.toNat))
  | 7 => some (decide (b.toNat ≤ a.toNat))
  | _ => none

/-- The control and status registers that the model holds: their value, and the core with another value. A write to one that only
reads, or a register not listed, is an illegal instruction. -/
def GCore.csr (g : GCore) (core n : Nat) : Option Word :=
  match n with
  | 0x305 => some g.mtvec
  | 0x341 => some g.mepc
  | 0x342 => some g.mcause
  | 0x343 => some g.mtval
  | 0xF14 => some (BitVec.ofNat 32 core)
  | _ => none

def GCore.setCsr (g : GCore) (n : Nat) (v : Word) : Option GCore :=
  match n with
  | 0x305 => some { g with mtvec := v }
  | 0x341 => some { g with mepc := v &&& 0xFFFFFFFE }
  | 0x342 => some { g with mcause := v }
  | 0x343 => some { g with mtval := v }
  | _ => none

/-- Bytes of the gondola's memory at an address; addresses wrap at 2^32. -/
def rvRead (m : List Host.Cell) (a : Word) (n : Nat) : Nat :=
  leNat ((List.range n).map fun i => cellGet 0 m (a + BitVec.ofNat 32 i).toNat)

def rvWrite (m : List Host.Cell) (a v : Word) (n : Nat) : List Host.Cell :=
  (List.range n).foldl (fun m i => cellSet 0 m (a + BitVec.ofNat 32 i).toNat [BitVec.ofNat 8 (v.toNat / 2 ^ (8 * i))]) m

/-- The privileged words and CSR accesses (SYSTEM). -/
def rvSystem (g : GCore) (m : List Host.Cell) (core w : Nat) (next bad : Word) : RvRes :=
  let rd := BitVec.ofNat 5 (bits w 11 7)
  let rs := bits w 19 15
  let f3 := bits w 14 12
  if f3 = 0 then
    match w with
    | 0x00000073 => .trap 11 0
    | 0x00100073 => .trap 3 g.pc
    | 0x30200073 => .done { g with pc := g.mepc } m
    | 0x10500073 => .done { g with pc := next } m
    | _ => .trap 2 bad
  else if f3 = 4 then .trap 2 bad
  else
    let n := bits w 31 20
    let x : Word := if f3 < 4 then g.reg (BitVec.ofNat 5 rs) else BitVec.ofNat 32 rs
    match g.csr core n with
    | none => .trap 2 bad
    | some old =>
      let new := match f3 % 4 with
        | 1 => x
        | 2 => old ||| x
        | _ => old &&& ~~~x
      match if f3 % 4 = 1 ∨ rs ≠ 0 then g.setCsr n new else some g with
      | none => .trap 2 bad
      | some h => .done { h.setReg rd old with pc := next } m

/-- One base instruction: `w` is its 32-bit word, `next` the pc past it, `bad` what mtval holds where it is illegal. -/
def rvExec (g : GCore) (m : List Host.Cell) (core w : Nat) (next bad : Word) : RvRes :=
  let rd := BitVec.ofNat 5 (bits w 11 7)
  let f3 := bits w 14 12
  let f7 := bits w 31 25
  let a := g.reg (BitVec.ofNat 5 (bits w 19 15))
  let b := g.reg (BitVec.ofNat 5 (bits w 24 20))
  let put (v : Word) : RvRes := .done { g.setReg rd v with pc := next } m
  match bits w 6 0 with
  | 0x37 => put (rvImmU w)
  | 0x17 => put (g.pc + rvImmU w)
  | 0x6F => .done { g.setReg rd next with pc := g.pc + rvImmJ w } m
  | 0x67 => if f3 = 0 then .done { g.setReg rd next with pc := (a + rvImmI w) &&& 0xFFFFFFFE } m else .trap 2 bad
  | 0x63 =>
    match rvBranch f3 a b with
    | some taken => .done { g with pc := if taken then g.pc + rvImmB w else next } m
    | none => .trap 2 bad
  | 0x03 =>
    let x := a + rvImmI w
    match f3 with
    | 0 => put (rvSext 8 (rvRead m x 1))
    | 1 => put (rvSext 16 (rvRead m x 2))
    | 2 => put (BitVec.ofNat 32 (rvRead m x 4))
    | 4 => put (BitVec.ofNat 32 (rvRead m x 1))
    | 5 => put (BitVec.ofNat 32 (rvRead m x 2))
    | _ => .trap 2 bad
  | 0x23 => if f3 < 3 then .done { g with pc := next } (rvWrite m (a + rvImmS w) b (2 ^ f3)) else .trap 2 bad
  | 0x13 =>
    if f3 = 1 ∧ f7 ≠ 0 ∨ f3 = 5 ∧ f7 ≠ 0 ∧ f7 ≠ 0x20 then .trap 2 bad
    else put (rvAlu f3 (decide (f3 = 5) && decide (f7 = 0x20)) a (rvImmI w))
  | 0x33 =>
    if f7 = 1 then put (rvMulDiv f3 a b)
    else if f7 = 0 ∨ f7 = 0x20 ∧ (f3 = 0 ∨ f3 = 5) then put (rvAlu f3 (decide (f7 = 0x20)) a b)
    else .trap 2 bad
  | 0x0F => if f3 = 0 then .done { g with pc := next } m else .trap 2 bad
  | 0x73 => rvSystem g m core w next bad
  | _ => .trap 2 bad

/-- A gondola core executes a base word; one whose low two bits are not 11 is 16 bits long. -/
def execRv32 (core : Nat) (w : Word) (s : State) : Out :=
  match s.gcores[core]? with
  | none => .fault .noGondolaCore
  | some g =>
    let r : RvRes :=
      if w.toNat % 4 = 3 then rvExec g s.gmem core w.toNat (g.pc + 4) w
      else
        let c := w.toNat % 2 ^ 16
        match rvExpand c with
        | some v => rvExec g s.gmem core v (g.pc + 2) (BitVec.ofNat 32 c)
        | none => .trap 2 (BitVec.ofNat 32 c)
    match r with
    | .done h m => .next { s with gcores := modifyAt s.gcores core (fun _ => h), gmem := m }
    | .trap c v => .next (s.gondolaTrap core (BitVec.ofNat 32 c) v)

end Sys2Proof.Machine
end

