-- ==== Sys2Proof/Machine/Shade.lean ====
section
/-!
DEFINITION. SPLAT (R208, R209), BLND (R210, R211) and title envelopes (R212).
-/
namespace Sys2Proof.Machine

/-- A Gaussian of a tile list (R208). -/
structure Splat where
  key : Nat
  mx : Word
  my : Word
  ca : Word
  cb : Word
  cc : Word
  o : Word
  rgb : List Word
  deriving DecidableEq, Repr

def splatOf (v : Nat) : Splat :=
  let w (i : Nat) : Word := BitVec.ofNat 32 (bits v (32 * i + 31) (32 * i))
  let h (i : Nat) : Word := halfF32 (bits v (192 + 16 * i + 15) (192 + 16 * i))
  { key := bits v 31 0, mx := w 1, my := w 2, ca := w 3, cb := w 4, cc := w 5, o := h 0, rgb := [h 1, h 2, h 3] }

/-- Insert by ascending key, after equals (R209: the sort is stable). -/
def insertSplat (x : Splat) : List Splat → List Splat
  | [] => [x]
  | y :: ys => if x.key < y.key then x :: y :: ys else y :: insertSplat x ys

def sortSplats (l : List Splat) : List Splat := l.foldl (fun acc x => insertSplat x acc) []

/-- The compositing of one pixel (R209): the colour and the transmittance. -/
def compose (opth amax amin px py : Word) : List Splat → List Word → Word → List Word × Word
  | [], c, tr => (c, tr)
  | g :: gs, c, tr =>
    let dx := xSub px g.mx
    let dy := xSub py g.my
    let q := xMul 0xBF000000 (xAdd (xMul g.ca (xMul dx dx)) (xMul g.cc (xMul dy dy)))
    let pw := xSub q (xMul g.cb (xMul dx dy))
    let pv := un32 pw
    if pv.isNaN || cmpV pv (un32 0) == .gt then compose opth amax amin px py gs c tr
    else
      let al := (fMinMax false amax (xMul g.o (fExp2 (xMul pw 0x3FB8AA3B)).1)).1
      let less := !(un32 al).isNaN && !(un32 amin).isNaN && cmpV (un32 al) (un32 amin) == .lt
      if less then compose opth amax amin px py gs c tr
      else
        let k := xMul tr al
        let c1 := (List.zip c g.rgb).map fun p => xFma k p.2 p.1
        let tr1 := xMul tr (xSub 0x3F800000 al)
        let op := xSub 0x3F800000 tr1
        let stop := !(un32 op).isNaN && !(un32 opth).isNaN && cmpV (un32 op) (un32 opth) != .lt
        if stop then (c1, tr1) else compose opth amax amin px py gs c1 tr1

/-- The records of a tile list. -/
def State.splats (core k part : Nat) (rd : Reader) (lane : Nat) (cap : Cap) : Nat → State → Nat → Except EngStop (State × List Splat)
  | 0, s, _ => .ok (s, [])
  | n + 1, s, off =>
    match s.islRead core k part rd lane cap off 32 with
    | .error e => .error e
    | .ok (s1, v) =>
      match State.splats core k part rd lane cap n s1 (off + 32) with
      | .error e => .error e
      | .ok (s2, l) => .ok (s2, splatOf v :: l)

/-- An FP32 code rounded RNE to FP16. -/
def toHalf (x : Word) : Nat := (fp16.pack 0 (un32 x)).1

/-- The centre of a pixel column or row in FP32: x + 0.5, exact. -/
def pixelCentre (n : Nat) : Word := xAdd (natF32 n) 0x3F000000

/-- A SPLAT request of one lane (R208, R209). -/
def State.splat (core k : Nat) (s : State) (r : IslandReq) (l : LaneReq) : Except EngStop (State × List Word) :=
  let x := s.getSlot core k
  let w2 := l.word 2
  if l.word 0 / 2 ^ 7 ≠ 0 ∨ l.word 1 % 64 ≠ 0 ∨ w2 / 2 ^ 26 ≠ 0 then .error (formatError l.lane)
  else
    let cap := x.binding (bits (l.word 0) 6 4)
    match s.islRead core k r.part r.reader l.lane cap (l.word 1) 64 with
    | .error e => .error e
    | .ok (s1, h) =>
      let n := h % 2 ^ 32
      if 4096 < n then
        .error (.fail { cause := 0x53, info := 4096, lane := l.lane, handle := 0, park := false, page := 0 })
      else if h / 2 ^ 32 ≠ 0 then .error (formatError l.lane)
      else
        match State.splats core k r.part r.reader l.lane cap n s1 (l.word 1 + 64) with
        | .error e => .error e
        | .ok (s2, gs) =>
          let res := compose (x.reg 0x80) (x.reg 0x84) (x.reg 0x88) (pixelCentre (bits w2 12 0)) (pixelCentre (bits w2 25 13))
            (sortSplats gs) [0, 0, 0] 0x3F800000
          let c (i : Nat) : Nat := toHalf (res.1[i]?.getD 0)
          .ok (s2, [BitVec.ofNat 32 (c 0 + c 1 * 2 ^ 16), BitVec.ofNat 32 (c 2 + toHalf res.2 * 2 ^ 16)])

/-- SPLAT_COMPOSITE (R209). -/
def execSplatComposite (core slot : Nat) (s : State) : Out :=
  .next (s.island core slot (fun r l => r.cls == 4 && l.kind == 1) (State.splat core slot))

/-- An access of BLND at the homes (R387, R211): the checks over the whole range, then the address of each byte. -/
def State.blndAddrs (s : State) (part lane : Nat) (cap : Cap) (off n : Nat) (rights : List Nat) : Except EngStop (List Nat) :=
  match s.islCheck part lane cap off n rights with
  | .error e => .error e
  | .ok _ =>
    let rs := (List.range n).map fun i => s.islCheck part lane cap (off + i) 1 rights
    match rs.findSome? fun r =>
      match r with
      | .error e => some e
      | .ok _ => none with
    | some e => .error e
    | none => .ok (rs.filterMap fun r =>
        match r with
        | .error _ => none
        | .ok a => some a)

/-- A number read at the homes, as an .N load reads (R211), with its requests to the stacked cache (R130). -/
def State.blndNat (s : State) (part hint : Nat) (cap : Cap) (off : Nat) (as : List Nat) : Except EngStop (State × Nat) :=
  match as.findSome? fun a => s.badIn a 1 with
  | some a => .error (.ecc a)
  | none => .ok (s.touch part (Cap.handle cap) (Cap.base cap + off) as.length hint, leNat (as.map s.homeByte))

/-- A write of BLND or of a title's island (R211, R139): the foreign-write check, then a .W store of the island's core. -/
def State.islStore (s : State) (core part lane hint : Nat) (cap : Cap) (off : Nat) (as : List Nat) (bs : List Byte) :
    Except EngStop State :=
  let h := Cap.handle cap
  let o := Cap.base cap + off
  match s.lookupHandle part h with
  | .error c => .error (.fail { cause := c, info := infoA o bs.length, lane := lane, handle := h, park := false, page := 0 })
  | .ok (obj, d) =>
    if s.foreignWrite part obj d o bs.length none then
      .error (.fail { cause := 0x3E, info := infoA o bs.length, lane := lane, handle := h, park := false, page := 0 })
    else .ok ((mapAt (fun i (p : Nat × Byte) => (i, p)) 0 (List.zip as bs)).foldl
      (fun (s : State) q => s.engineStore core part h (o + q.1) q.2.1 hint [q.2.2]) s)

/-- The channels of a pixel in FP32 (R211): c/255 rounded RNE, or FP16 exact. -/
def blndChans (half : Bool) (v : Nat) : List Word :=
  (List.range 4).map fun i =>
    if half then halfF32 (bits v (16 * i + 15) (16 * i))
    else BitVec.ofNat 32 (ratRound fp32 (bits v (8 * i + 7) (8 * i) : Nat) 255 0)

/-- A factor (R210, R211) for a channel: source and destination value of the channel, and the alphas. -/
def blndFactor (code : Nat) (sc dc sa da : Word) : Word :=
  let inv (x : Word) : Word := xSub 0x3F800000 x
  match code with
  | 0 => 0
  | 1 => 0x3F800000
  | 2 => sa
  | 3 => inv sa
  | 4 => da
  | 5 => inv da
  | 6 => sc
  | 7 => inv sc
  | 8 => dc
  | _ => inv dc

/-- One channel of a blend (R211). -/
def blndOp (op sf df : Nat) (sc dc sa da : Word) : Word :=
  let a := xMul sc (blndFactor sf sc dc sa da)
  let b := xMul dc (blndFactor df sc dc sa da)
  match op with
  | 0 => xAdd a b
  | 1 => xSub a b
  | 2 => xSub b a
  | 3 => (fMinMax false sc dc).1
  | _ => (fMinMax true sc dc).1

/-- round_rne(clamp(v, 0, 1) × 255) of an FP32 code, NaN giving 0 (R211). -/
def unorm8 (x : Word) : Nat :=
  match un32 x with
  | .nan _ => 0
  | .inf n => if n then 0 else 255
  | .fin n m e =>
    if n then 0
    else
      let r := (roundAt 0 false (m * 255) e 0 false).1
      min 255 r

/-- A pixel of four channels, written out. -/
def blndPixel (half : Bool) (cs : List Word) : List Byte :=
  cs.flatMap fun c => if half then leBytes 2 (toHalf c) else [BitVec.ofNat 8 (unorm8 c)]

/-- A BLND blend of one lane (R210, R211). -/
def State.blend (core k : Nat) (s : State) (r : IslandReq) (l : LaneReq) : Except EngStop (State × List Word) :=
  let w0 := l.word 0
  let fmt := bits w0 9 8
  let size := if fmt = 1 then 8 else 4
  if bit w0 7 || decide (w0 / 2 ^ 21 ≠ 0) || decide (1 < fmt) || decide (9 < bits w0 13 10) || decide (9 < bits w0 17 14) ||
      decide (4 < bits w0 20 18) || l.word 1 % size != 0 then .error (formatError l.lane)
  else
    let cap := (s.getSlot core k).binding (bits w0 6 4)
    match s.blndAddrs r.part l.lane cap (l.word 1) size [20, 21] with
    | .error e => .error e
    | .ok as =>
      match s.blndNat r.part r.hint cap (l.word 1) as with
      | .error e => .error e
      | .ok (s0, v) =>
        let src := blndChans true (l.word 2 + l.word 3 * 2 ^ 32)
        let dst := blndChans (fmt == 1) v
        let out := (List.zip src dst).map fun p =>
          blndOp (bits w0 20 18) (bits w0 13 10) (bits w0 17 14) p.1 p.2 (comp4 src) (comp4 dst)
        match s0.islStore core r.part l.lane r.hint cap (l.word 1) as (blndPixel (fmt == 1) out) with
        | .error e => .error e
        | .ok s1 => .ok (s1, [])
where
  /-- the alpha channel -/
  comp4 (ws : List Word) : Word := ws[3]?.getD 0

/-- The sum of four FP16 channels divided by 4 and rounded once (R211): NaN where a sample is NaN or infinities of both signs
meet. -/
def average16 (cs : List Nat) : Nat :=
  let sum := cs.foldl (fun acc c => (addV 0 acc (fp16.unpack true c)).1) (FVal.fin true 0 0)
  match sum with
  | .nan _ => 0x7E00
  | .inf n => fp16.infCode n
  | .fin n m e => (fp16.round 0 n m (e - 2) false).1

/-- Channel averages of four samples (R211). -/
def average (half : Bool) (v : Nat) : List Byte :=
  (List.range 4).flatMap fun c =>
    let ch (i : Nat) : Nat := if half then bits v (64 * i + 16 * c + 15) (64 * i + 16 * c) else bits v (32 * i + 8 * c + 7) (32 * i + 8 * c)
    if half then leBytes 2 (average16 [ch 0, ch 1, ch 2, ch 3])
    else [BitVec.ofNat 8 (roundAt 0 false (ch 0 + ch 1 + ch 2 + ch 3) (-2) 0 false).1]

/-- A BLND resolve of one lane (R210, R211). -/
def State.resolve (core k : Nat) (s : State) (r : IslandReq) (l : LaneReq) : Except EngStop (State × List Word) :=
  let w0 := l.word 0
  let fmt := bits w0 9 8
  let size := if fmt = 1 then 8 else 4
  if bit w0 7 || decide (w0 / 2 ^ 10 ≠ 0) || decide (1 < fmt) || decide (l.word 3 ≠ 0) then .error (formatError l.lane)
  else
    let cap := (s.getSlot core k).binding (bits w0 6 4)
    match s.blndAddrs r.part l.lane cap (l.word 2) (4 * size) [20] with
    | .error e => .error e
    | .ok src =>
      match s.blndAddrs r.part l.lane cap (l.word 1) size [21] with
      | .error e => .error e
      | .ok dst =>
        match s.blndNat r.part r.hint cap (l.word 2) src with
        | .error e => .error e
        | .ok (s0, v) =>
          match s0.islStore core r.part l.lane r.hint cap (l.word 1) dst (average (fmt == 1) v) with
          | .error e => .error e
          | .ok s1 => .ok (s1, [])

/-- BLND_BLEND (R211): KIND 1. -/
def execBlndBlend (core slot : Nat) (s : State) : Out :=
  .next (s.island core slot (fun r l => r.cls == 5 && l.kind == 1) (State.blend core slot))

/-- BLND_RESOLVE (R211): KIND 2. -/
def execBlndResolve (core slot : Nat) (s : State) : Out :=
  .next (s.island core slot (fun r l => r.cls == 5 && l.kind == 2) (State.resolve core slot))

/-- The stores of a title's request through its bindings, each checked (R212, R387). -/
def State.titleWrites (core k part lane hint : Nat) : List (Nat × Nat × List Byte) → State → Except EngStop State
  | [], s => .ok s
  | (b, off, bs) :: rest, s =>
    let cap := (s.getSlot core k).binding (b % 8)
    match s.blndAddrs part lane cap off bs.length [21] with
    | .error e => .error e
    | .ok as =>
      match s.islStore core part lane hint cap off as bs with
      | .error e => .error e
      | .ok s1 => State.titleWrites core k part lane hint rest s1

/-- The reads of a title's request through its bindings, each checked, in order (R212, R185). -/
def State.titleData (core k : Nat) (r : IslandReq) (lane : Nat) : List (Nat × Nat × Nat) → State → Except EngStop (State × List Nat)
  | [], s => .ok (s, [])
  | (b, off, n) :: rest, s =>
    match s.islRead core k r.part r.reader lane ((s.getSlot core k).binding (b % 8)) off n with
    | .error e => .error e
    | .ok (s1, v) =>
      match State.titleData core k r lane rest s1 with
      | .error e => .error e
      | .ok (s2, vs) => .ok (s2, v :: vs)

/-- A title's request of one lane (R212): its reads, the stores of a KIND that writes, and the K words are the title's own, free
values here (log entry 14). -/
def State.title (core k : Nat) (s : State) (r : IslandReq) (l : LaneReq) : Except EngStop (State × List Word) :=
  let dig := r.env
  let n := s.freeCtr
  let s1 : State := { s with freeCtr := n + 1 }
  match State.titleData core k r l.lane (Config.titleReads n dig l.words) s1 with
  | .error e => .error e
  | .ok (s2, vs) =>
    let stores := if Config.titleKindWrites dig l.kind then Config.titleStores n dig l.words vs else []
    match State.titleWrites core k r.part l.lane r.hint stores s2 with
    | .error e => .error e
    | .ok s3 => .ok (s3, (List.range r.k).map (Config.titleWord n dig l.words vs))

/-- TITLE_REQUEST (R212). -/
def execTitleRequest (core slot : Nat) (s : State) : Out :=
  .next (s.island core slot (fun r l => r.cls == 6 && l.kind != 0xE && l.kind != 0xF) (State.title core slot))

end Sys2Proof.Machine
end

