-- ==== Sys2Proof/Machine/Traverse.lean ====
section
/-!
DEFINITION. TRAV (R204-R207): node formats, the slab, triangle, k-d, octree, B-tree and key-leaf tests, and the traversal.
-/
namespace Sys2Proof.Machine

/-- a ≤ b on FP32 codes; a NaN answers false. -/
def leF (a b : Word) : Bool := !(un32 a).isNaN && !(un32 b).isNaN && cmpV (un32 a) (un32 b) != .gt

def ltF (a b : Word) : Bool := !(un32 a).isNaN && !(un32 b).isNaN && cmpV (un32 a) (un32 b) == .lt

def minF (a b : Word) : Word := if ltF b a then b else a
def maxF (a b : Word) : Word := if ltF a b then b else a
def absF (a : Word) : Word := a &&& 0x7FFFFFFF
def negF (a : Word) : Word := a ^^^ 0x80000000

/-- FP32 division, correctly rounded. PRESUMED for the published test of Woop, Benthin and Wald (log entry 24). -/
def divF (a b : Word) : Word :=
  match un32 a, un32 b with
  | .nan _, _ => 0x7FC00000
  | _, .nan _ => 0x7FC00000
  | .inf _, .inf _ => 0x7FC00000
  | .inf m, .fin n _ _ => if m = n then 0x7F800000 else 0xFF800000
  | .fin m _ _, .inf n => if m = n then 0 else 0x80000000
  | .fin na ma ea, .fin nb mb eb =>
    if mb = 0 then (if ma = 0 then 0x7FC00000 else if na = nb then 0x7F800000 else 0xFF800000)
    else if ma = 0 then (if na = nb then 0 else 0x80000000)
    else BitVec.ofNat 32 (ratRound fp32 (if na = nb then (ma : Int) else -(ma : Int)) mb (ea - eb))

/-- FP64, for the edge values that are recomputed (R206). -/
def fp64 : Fmt := ⟨11, 52, 1023, true, 0x7FF8000000000000⟩

/-- a·b − c·d with each product exact in FP64, the difference rounded to FP64 and then to FP32 (R206). -/
def edge64 (a b c d : Word) : Word :=
  let p := (mulV (un32 a) (un32 b)).1
  let q := (mulV (un32 c) (un32 d)).1
  let r := (fp64.pack 0 (addV 0 p q.negate).1).1
  (pk32 0 (fp64.unpack true r)).1

/-- A ray (R204). -/
structure Ray where
  o : List Word
  d : List Word
  tmin : Word
  tmax : Word
  deriving DecidableEq, Repr

/-- Component `i` of a vector. -/
def comp (v : List Word) (i : Nat) : Word := v[i]?.getD 0

/-- The slab test (R206): the entry distance where the box is hit. -/
def slabTest (r : Ray) (tcur : Word) (lo hi : List Word) : Option Word :=
  let axis (i : Nat) : Word × Word :=
    let inv := (fRcp 0 (comp r.d i)).1
    let t1 := xMul (xSub (comp lo i) (comp r.o i)) inv
    let t2 := xMul (xSub (comp hi i) (comp r.o i)) inv
    if (un32 t1).isNaN || (un32 t2).isNaN then (0xFF800000, 0x7F800000) else (minF t1 t2, maxF t1 t2)
  let a := axis 0
  let b := axis 1
  let c := axis 2
  let tn := maxF a.1 (maxF b.1 c.1)
  let tf := minF a.2 (minF b.2 c.2)
  if leF tn tf && leF r.tmin tf && leF tn tcur then some (maxF tn r.tmin) else none

/-- The axis of the largest magnitude, the lowest of equals. -/
def maxAxis (d : List Word) : Nat :=
  let k := if ltF (absF (comp d 0)) (absF (comp d 1)) then 1 else 0
  if ltF (absF (comp d k)) (absF (comp d 2)) then 2 else k

/-- The watertight triangle test (R206; PRESUMED from the publication that R206 names, log entry 24): t, u and v of a hit. -/
def triTest (r : Ray) (tcur : Word) (v : List Word) : Option (Word × Word × Word) :=
  let kz := maxAxis r.d
  let ka := (kz + 1) % 3
  let kb := (kz + 2) % 3
  let flip := ltF (comp r.d kz) 0
  let kx := if flip then kb else ka
  let ky := if flip then ka else kb
  let sx := divF (comp r.d kx) (comp r.d kz)
  let sy := divF (comp r.d ky) (comp r.d kz)
  let sz := divF 0x3F800000 (comp r.d kz)
  let rel (i k : Nat) : Word := xSub (comp v (3 * i + k)) (comp r.o k)
  let px (i : Nat) : Word := xSub (rel i kx) (xMul sx (rel i kz))
  let py (i : Nat) : Word := xSub (rel i ky) (xMul sy (rel i kz))
  let e32 (i j : Nat) : Word := xSub (xMul (px i) (py j)) (xMul (py i) (px j))
  let zero (x : Word) : Bool := x &&& 0x7FFFFFFF == 0
  let u0 := e32 2 1
  let v0 := e32 0 2
  let w0 := e32 1 0
  let wide := zero u0 || zero v0 || zero w0
  let e64 (i j : Nat) : Word := edge64 (px i) (py j) (py i) (px j)
  let eu := if wide then e64 2 1 else u0
  let ev := if wide then e64 0 2 else v0
  let ew := if wide then e64 1 0 else w0
  let neg := ltF eu 0 || ltF ev 0 || ltF ew 0
  let pos := ltF 0 eu || ltF 0 ev || ltF 0 ew
  let det := xAdd (xAdd eu ev) ew
  if (neg && pos) || zero det then none
  else
    let tt := xAdd (xAdd (xMul eu (xMul sz (rel 0 kz))) (xMul ev (xMul sz (rel 1 kz)))) (xMul ew (xMul sz (rel 2 kz)))
    let inv := divF 0x3F800000 det
    let t := xMul tt inv
    if leF r.tmin t && leF t tcur then some (t, xMul eu inv, xMul ev inv) else none

/-- A node format (R205). -/
structure NodeFmt where
  test : Nat
  fan : Nat
  child : Nat
  data : Nat
  deriving DecidableEq, Repr

/-- FAN of a test kind (R206). -/
def fanOk (test fan : Nat) : Bool :=
  match test with
  | 1 => decide (2 ≤ fan ∧ fan ≤ 16)
  | 2 => decide (1 ≤ fan ∧ fan ≤ 16)
  | 3 => fan == 2
  | 4 => fan == 8
  | 5 => decide (2 ≤ fan ∧ fan ≤ 16)
  | 6 => decide (1 ≤ fan ∧ fan ≤ 16)
  | _ => false

/-- An entry of the node-format table, or none where it is illegal (R205). -/
def nodeFmt (x : Nat) : Option NodeFmt :=
  let n : NodeFmt := { test := bits x 7 0, fan := bits x 15 8, child := bits x 31 16, data := bits x 47 32 }
  if fanOk n.test n.fan && n.child % 4 == 0 && n.data % 4 == 0 && x / 2 ^ 64 == 0 then some n else none

/-- A hit: t, identifier or value, barycentric u and v. -/
structure TravHit where
  t : Word
  id : Word
  u : Word
  v : Word
  deriving DecidableEq, Repr

/-- The traversal of a lane: tcur, the hit kept, the deferred nodes, and whether it has ended at a hit. -/
structure Trav where
  tcur : Word
  hit : Option TravHit
  stack : List Nat
  stopped : Bool
  deriving DecidableEq, Repr

/-- Where a lane's traversal reads: slot, partition, lane, B0. -/
structure TravEnv where
  core : Nat
  slot : Nat
  part : Nat
  rd : Reader
  lane : Nat
  b0 : Cap
  kind : Nat
  ray : Ray
  key : Word
  deriving DecidableEq, Repr

/-- Words of a node (R204). -/
def State.nodeWords (s : State) (e : TravEnv) : Nat → Nat → Except EngStop (State × List Word)
  | 0, _ => .ok (s, [])
  | n + 1, off =>
    match s.islRead e.core e.slot e.part e.rd e.lane e.b0 off 4 with
    | .error x => .error x
    | .ok (s1, v) =>
      match State.nodeWords s1 e n (off + 4) with
      | .error x => .error x
      | .ok (s2, ws) => .ok (s2, BitVec.ofNat 32 v :: ws)

/-- Insert by ascending entry distance, after equals (R206). -/
def insertByDist (x : Word × Nat) : List (Word × Nat) → List (Word × Nat)
  | [] => [x]
  | y :: ys => if ltF x.1 y.1 then x :: y :: ys else y :: insertByDist x ys

def sortByDist (l : List (Word × Nat)) : List (Word × Nat) := l.foldl (fun acc x => insertByDist x acc) []

/-- A zero of either sign: a ray with it as a direction component runs beside the plane and never crosses it (R206). -/
def isZeroF (x : Word) : Bool := decide (x &&& 0x7FFFFFFF = 0)

/-- The children of a node that are visited, in order, as positions in its child array, and the traversal after the node's own
hits (R206, R207). A key test acts only for KIND 3, the others only for KIND 1 and 2 (log entry 24). -/
def visit (e : TravEnv) (n : NodeFmt) (prim : Nat) (ws : List Word) (t : Trav) : List Nat × Trav :=
  let sub (i k : Nat) : List Word := (ws.drop i).take k
  let geo := e.kind != 3
  match n.test with
  | 1 =>
    if !geo then ([], t)
    else
      let hits := (List.range n.fan).filterMap fun i =>
        (slabTest e.ray t.tcur (sub (6 * i) 3) (sub (6 * i + 3) 3)).map fun d => (d, i)
      ((sortByDist hits).map (·.2), t)
  | 2 =>
    if !geo then ([], t)
    else
      ([], (List.range n.fan).foldl (fun (t : Trav) i =>
        if t.stopped then t
        else
          match triTest e.ray t.tcur (sub (9 * i) 9) with
          | none => t
          | some (tt, u, v) =>
            let better := match t.hit with
              | none => true
              | some h => ltF tt h.t
            if better then
              { t with tcur := tt, hit := some { t := tt, id := BitVec.ofNat 32 (prim + i), u := u, v := v }, stopped := e.kind == 2 }
            else t) t)
  | 3 =>
    let axis := (comp ws 0).toNat % 4
    let split := comp ws 1
    let o := comp e.ray.o axis
    let d := comp e.ray.d axis
    let same := !(un32 o).isNaN && !(un32 split).isNaN && cmpV (un32 o) (un32 split) == .eq
    let near := if ltF o split || (same && leF d 0) then 0 else 1
    let tp := xMul (xSub split o) (fRcp 0 d).1
    if !geo || decide (3 ≤ axis) then ([], t)
    else (if !isZeroF d && leF e.ray.tmin tp && leF tp t.tcur then [near, 1 - near] else [near], t)
  | 4 =>
    if !geo then ([], t)
    else
      let h := comp ws 3
      let mask := (comp ws 4).toNat
      let present := (List.range 8).filter fun c => bit mask c
      let lo (c k : Nat) : Word := if bit c k then comp ws k else xSub (comp ws k) h
      let hi (c k : Nat) : Word := if bit c k then xAdd (comp ws k) h else comp ws k
      let hits := (mapAt (fun i c => (i, c)) 0 present).filterMap fun p =>
        (slabTest e.ray t.tcur [lo p.2 0, lo p.2 1, lo p.2 2] [hi p.2 0, hi p.2 1, hi p.2 2]).map fun x => (x, p.1)
      ((sortByDist hits).map (·.2), t)
  | 5 =>
    if geo then ([], t)
    else ([((sub 0 (n.fan - 1)).filter fun k => decide (k.toNat ≤ e.key.toNat)).length], t)
  | _ =>
    if geo then ([], t)
    else
      match indexWhere (fun k => k == e.key) (sub 0 n.fan) with
      | none => ([], t)
      | some i => ([], { t with hit := some { t := 0, id := comp ws (n.fan + i), u := 0, v := 0 }, stopped := true })

/-- How many words of test data a node has (R206). -/
def dataWords (n : NodeFmt) : Nat :=
  match n.test with
  | 1 => 6 * n.fan
  | 2 => 9 * n.fan
  | 3 => 2
  | 4 => 5
  | 5 => n.fan - 1
  | _ => 2 * n.fan

/-- The offsets of children, without the absent ones. -/
def State.childOffsets (s : State) (e : TravEnv) (base : Nat) : List Nat → Except EngStop (State × List Nat)
  | [] => .ok (s, [])
  | i :: is =>
    match s.islRead e.core e.slot e.part e.rd e.lane e.b0 (base + 4 * i) 4 with
    | .error x => .error x
    | .ok (s1, v) =>
      match State.childOffsets s1 e base is with
      | .error x => .error x
      | .ok (s2, l) => .ok (s2, if v = 0xFFFFFFFF then l else v :: l)

/-- A contract failure of a lane: ISL_NODE_TABLE, ISL_DEPTH or ISL_RESOURCE, with its number (R166). -/
def islFail (cause info lane : Nat) : EngStop :=
  .fail { cause := cause, info := info, lane := lane, handle := 0, park := false, page := 0 }

/-- One node (R205-R207): the traversal after it and the next node, if any. -/
def State.travNode (s : State) (e : TravEnv) (b1 : Cap) (nft off : Nat) (t : Trav) :
    Except EngStop (State × Trav × Option Nat) :=
  match s.islRead e.core e.slot e.part e.rd e.lane e.b0 off 4 with
  | .error x => .error x
  | .ok (s1, h) =>
    match s1.islRead e.core e.slot e.part e.rd e.lane b1 (nft + 16 * (h % 16)) 16 with
    | .error x => .error x
    | .ok (s2, f) =>
      match nodeFmt f with
      | none => .error (islFail 0x54 (h % 16) e.lane)
      | some n =>
        match s2.nodeWords e (dataWords n) (off + n.data) with
        | .error x => .error x
        | .ok (s3, ws) =>
          let (cs, t1) := visit e n (h / 16) ws t
          match s3.childOffsets e (off + n.child) cs with
          | .error x => .error x
          | .ok (s4, offs) =>
            match offs ++ t1.stack with
            | [] => .ok (s4, t1, none)
            | o :: rest =>
              if 64 < rest.length then .error (islFail 0x55 e.lane e.lane)
              else .ok (s4, { t1 with stack := rest }, if t1.stopped then none else some o)

/-- The traversal from a node on; a tree that does not end within the bound of the slot hangs it (R212). -/
def State.travRun (e : TravEnv) (b1 : Cap) (nft : Nat) : Nat → State → Nat → Trav → Except EngStop (State × Trav)
  | 0, _, _, _ => .error .hang
  | fuel + 1, s, off, t =>
    match s.travNode e b1 nft off t with
    | .error x => .error x
    | .ok (s1, t1, none) => .ok (s1, t1)
    | .ok (s1, t1, some o) => State.travRun e b1 nft fuel s1 o t1

/-- The words that a lane returns (R207). -/
def travWords (kind : Nat) (uv : Bool) (t : Trav) : List Word :=
  let base : List Word :=
    match t.hit with
    | some h => [h.t, h.id, h.u, h.v]
    | none => [if kind = 3 then 0 else 0x7F800000, 0xFFFFFFFF, 0, 0]
  if uv then base else base.take 2

/-- The ray record of a lane (R204); KIND 3 has none. -/
def State.travRay (s : State) (core k part : Nat) (rd : Reader) (lane : Nat) (b0 : Cap) (kind off : Nat) : Except EngStop (State × Ray) :=
  if kind = 3 then .ok (s, { o := [], d := [], tmin := 0, tmax := 0 })
  else
    match s.islRead core k part rd lane b0 off 32 with
    | .error e => .error e
    | .ok (s1, v) =>
      let w (i : Nat) : Word := BitVec.ofNat 32 (bits v (32 * i + 31) (32 * i))
      .ok (s1, { o := [w 0, w 1, w 2], d := [w 3, w 4, w 5], tmin := w 6, tmax := w 7 })

/-- A TRAV request of one lane (R204-R207). -/
def State.trav (core k : Nat) (s : State) (r : IslandReq) (l : LaneReq) : Except EngStop (State × List Word) :=
  let x := s.getSlot core k
  let kind := l.kind
  let nft := x.regNat 0x80 8
  if l.word 0 / 2 ^ 5 ≠ 0 ∨ l.word 2 % 16 ≠ 0 ∨ nft % 256 ≠ 0 ∨ (kind ≠ 3 ∧ l.word 1 % 32 ≠ 0) then .error (formatError l.lane)
  else
    let b0 := x.binding 0
    match s.travRay core k r.part r.reader l.lane b0 kind (l.word 1) with
    | .error e => .error e
    | .ok (s1, ray) =>
      let e : TravEnv := { core := core, slot := k, part := r.part, rd := r.reader, lane := l.lane, b0 := b0, kind := kind, ray := ray,
                           key := BitVec.ofNat 32 (l.word 1) }
      let fuel := (((x.env.map (·.hangBound)).getD 0) + 2 ^ 20) / 40 + 1
      match State.travRun e (x.binding 1) nft fuel s1 (l.word 2) { tcur := ray.tmax, hit := none, stack := [], stopped := false } with
      | .error e => .error e
      | .ok (s2, t) => .ok (s2, travWords kind (bit (l.word 0) 4) t)

/-- TRAV_CLOSEST_HIT (R207): KIND 1. -/
def execTravClosestHit (core slot : Nat) (s : State) : Out :=
  .next (s.island core slot (fun r l => r.cls == 3 && l.kind == 1) (State.trav core slot))

/-- TRAV_ANY_HIT (R207): KIND 2. -/
def execTravAnyHit (core slot : Nat) (s : State) : Out :=
  .next (s.island core slot (fun r l => r.cls == 3 && l.kind == 2) (State.trav core slot))

/-- TRAV_KEY_LOOKUP (R207): KIND 3. -/
def execTravKeyLookup (core slot : Nat) (s : State) : Out :=
  .next (s.island core slot (fun r l => r.cls == 3 && l.kind == 3) (State.trav core slot))

end Sys2Proof.Machine
end

