-- ==== Sys2Proof/Machine/Dispatch.lean ====
section
/-!
DEFINITION. One arm per constructor of Instr: a direct call of its meaning.
-/
namespace Sys2Proof.Machine

def exec (i : Instr) (s : State) : Host.Outcome State Fault Refusal :=
  match i with
  | .coldReset => Sys2Proof.Machine.execColdReset s
  | .warmReset cause => Sys2Proof.Machine.execWarmReset cause s
  | .freeze on => Sys2Proof.Machine.execFreeze on s
  | .bootRecover addr => Sys2Proof.Machine.execBootRecover addr s
  | .bootSvcset n => Sys2Proof.Machine.execBootSvcset n s
  | .eccRegfile core arr parts => Sys2Proof.Machine.execEccRegfile core arr parts s
  | .patrolScrub addr kind => Sys2Proof.Machine.execPatrolScrub addr kind s
  | .mcCecntClear c => Sys2Proof.Machine.execMcCecntClear c s
  | .mcUecntClear c => Sys2Proof.Machine.execMcUecntClear c s
  | .hostAccess hart write addr size data => Sys2Proof.Machine.execHostAccess hart write addr size data s
  | .hostCoherenceTimeout addr size => Sys2Proof.Machine.execHostCoherenceTimeout addr size s
  | .linkUp port => Sys2Proof.Machine.execLinkUp port s
  | .linkDown port => Sys2Proof.Machine.execLinkDown port s
  | .ethFrameReceive port frame crcOk => Sys2Proof.Machine.execEthFrameReceive port frame crcOk s
  | .txRingPoll p st => Sys2Proof.Machine.execTxRingPoll p st s
  | .txFrameStart p st => Sys2Proof.Machine.execTxFrameStart p st s
  | .txFrameSent port => Sys2Proof.Machine.execTxFrameSent port s
  | .gateEntryChange port => Sys2Proof.Machine.execGateEntryChange port s
  | .gctlSwap port value => Sys2Proof.Machine.execGctlSwap port value s
  | .gateListSwap port => Sys2Proof.Machine.execGateListSwap port s
  | .streamFilterClear f word => Sys2Proof.Machine.execStreamFilterClear f word s
  | .streamEntryWrite p st word value => Sys2Proof.Machine.execStreamEntryWrite p st word value s
  | .ethTimeWrite value => Sys2Proof.Machine.execEthTimeWrite value s
  | .deviceTimeSync ns => Sys2Proof.Machine.execDeviceTimeSync ns s
  | .flipHndWrite p o value => Sys2Proof.Machine.execFlipHndWrite p o value s
  | .flipOffWrite p o value => Sys2Proof.Machine.execFlipOffWrite p o value s
  | .displayVblank o => Sys2Proof.Machine.execDisplayVblank o s
  | .scanoutRefresh o => Sys2Proof.Machine.execScanoutRefresh o s
  | .dstatRead o => Sys2Proof.Machine.execDstatRead o s
  | .registerWrite addr value => Sys2Proof.Machine.execRegisterWrite addr value s
  | .claim => Sys2Proof.Machine.execClaim s
  | .activate => Sys2Proof.Machine.execActivate s
  | .retire => Sys2Proof.Machine.execRetire s
  | .reset => Sys2Proof.Machine.execReset s
  | .release => Sys2Proof.Machine.execRelease s
  | .setHandle => Sys2Proof.Machine.execSetHandle s
  | .revoke => Sys2Proof.Machine.execRevoke s
  | .setDesc => Sys2Proof.Machine.execSetDesc s
  | .setFrame => Sys2Proof.Machine.execSetFrame s
  | .attest => Sys2Proof.Machine.execAttest s
  | .tblStatRead => Sys2Proof.Machine.execTblStatRead s
  | .qwrWrite p q value => Sys2Proof.Machine.execQwrWrite p q value s
  | .qretryWrite p q => Sys2Proof.Machine.execQretryWrite p q s
  | .qctlWrite p q value => Sys2Proof.Machine.execQctlWrite p q value s
  | .mboxWrite p m => Sys2Proof.Machine.execMboxWrite p m s
  | .apertureWake => Sys2Proof.Machine.execApertureWake s
  | .gondolaTimer core => Sys2Proof.Machine.execGondolaTimer core s
  | .nopPacket p q => Sys2Proof.Machine.execNopPacket p q s
  | .launch p q => Sys2Proof.Machine.execLaunch p q s
  | .launchComplete id => Sys2Proof.Machine.execLaunchComplete id s
  | .signalStore p q => Sys2Proof.Machine.execSignalStore p q s
  | .signalAdd p q => Sys2Proof.Machine.execSignalAdd p q s
  | .wait p q => Sys2Proof.Machine.execWait p q s
  | .waitReread p q => Sys2Proof.Machine.execWaitReread p q s
  | .copyPacket p q => Sys2Proof.Machine.execCopyPacket p q s
  | .copyPacketComplete p q => Sys2Proof.Machine.execCopyPacketComplete p q s
  | .replayByPage p q => Sys2Proof.Machine.execReplayByPage p q s
  | .replayByToken p q => Sys2Proof.Machine.execReplayByToken p q s
  | .envelopeLoad p q => Sys2Proof.Machine.execEnvelopeLoad p q s
  | .envelopeDrop p q => Sys2Proof.Machine.execEnvelopeDrop p q s
  | .envelopeDropComplete p q => Sys2Proof.Machine.execEnvelopeDropComplete p q s
  | .pin p q => Sys2Proof.Machine.execPin p q s
  | .unpin p q => Sys2Proof.Machine.execUnpin p q s
  | .fencePacket p q => Sys2Proof.Machine.execFencePacket p q s
  | .timestamp p q => Sys2Proof.Machine.execTimestamp p q s
  | .tetherBind p q => Sys2Proof.Machine.execTetherBind p q s
  | .tetherUnbind p q => Sys2Proof.Machine.execTetherUnbind p q s
  | .mailboxHandlerLaunch p m => Sys2Proof.Machine.execMailboxHandlerLaunch p m s
  | .rfetch rd rs => Sys2Proof.Machine.execRfetch rd rs s
  | .bfx rd rs pos len1 => Sys2Proof.Machine.execBfx rd rs pos len1 s
  | .sigw rd rs => Sys2Proof.Machine.execSigw rd rs s
  | .dspt rd rs => Sys2Proof.Machine.execDspt rd rs s
  | .qpark rs rt => Sys2Proof.Machine.execQpark rs rt s
  | .qwake rs => Sys2Proof.Machine.execQwake rs s
  | .placeNeighbourhood => Sys2Proof.Machine.execPlaceNeighbourhood s
  | .starvationPromote c => Sys2Proof.Machine.execStarvationPromote c s
  | .winchWindow y => Sys2Proof.Machine.execWinchWindow y s
  | .winchWrite y value => Sys2Proof.Machine.execWinchWrite y value s
  | .neighbourhoodStart id => Sys2Proof.Machine.execNeighbourhoodStart id s
  | .envelopeReload core slot => Sys2Proof.Machine.execEnvelopeReload core slot s
  | .sliceOut p => Sys2Proof.Machine.execSliceOut p s
  | .partitionSwitch p scope => Sys2Proof.Machine.execPartitionSwitch p scope s
  | .runStart team => Sys2Proof.Machine.execRunStart team s
  | .forcedBoundary team => Sys2Proof.Machine.execForcedBoundary team s
  | .teamRetire team => Sys2Proof.Machine.execTeamRetire team s
  | .teamWatchdog team => Sys2Proof.Machine.execTeamWatchdog team s
  | .l1WayAdjust core => Sys2Proof.Machine.execL1WayAdjust core s
  | .storeDrain team idx => Sys2Proof.Machine.execStoreDrain team idx s
  | .loadPerform team idx => Sys2Proof.Machine.execLoadPerform team idx s
  | .atomicPerform team idx => Sys2Proof.Machine.execAtomicPerform team idx s
  | .l1Drop core addr => Sys2Proof.Machine.execL1Drop core addr s
  | .registryRecall addr => Sys2Proof.Machine.execRegistryRecall addr s
  | .rrelPerform team idx => Sys2Proof.Machine.execRrelPerform team idx s
  | .staleTimeout team => Sys2Proof.Machine.execStaleTimeout team s
  | .faultBatchClose core => Sys2Proof.Machine.execFaultBatchClose core s
  | .faultRecordPost p => Sys2Proof.Machine.execFaultRecordPost p s
  | .parkLimitEvict team => Sys2Proof.Machine.execParkLimitEvict team s
  | .evictedTeamReturn p => Sys2Proof.Machine.execEvictedTeamReturn p s
  | .engineParkEntryGrant core queue => Sys2Proof.Machine.execEngineParkEntryGrant core queue s
  | .enginePerform core => Sys2Proof.Machine.execEnginePerform core s
  | .copyCompletion core => Sys2Proof.Machine.execCopyCompletion core s
  | .wbldPerform core => Sys2Proof.Machine.execWbldPerform core s
  | .wbgthPerform core => Sys2Proof.Machine.execWbgthPerform core s
  | .bind core slot => Sys2Proof.Machine.execBind core slot s
  | .regw core slot => Sys2Proof.Machine.execRegw core slot s
  | .texfBilinear core slot => Sys2Proof.Machine.execTexfBilinear core slot s
  | .texfTrilinear core slot => Sys2Proof.Machine.execTexfTrilinear core slot s
  | .texfAnisotropic core slot => Sys2Proof.Machine.execTexfAnisotropic core slot s
  | .rastTriangle core slot => Sys2Proof.Machine.execRastTriangle core slot s
  | .rastPixelTeamOffer core slot => Sys2Proof.Machine.execRastPixelTeamOffer core slot s
  | .travClosestHit core slot => Sys2Proof.Machine.execTravClosestHit core slot s
  | .travAnyHit core slot => Sys2Proof.Machine.execTravAnyHit core slot s
  | .travKeyLookup core slot => Sys2Proof.Machine.execTravKeyLookup core slot s
  | .splatComposite core slot => Sys2Proof.Machine.execSplatComposite core slot s
  | .blndBlend core slot => Sys2Proof.Machine.execBlndBlend core slot s
  | .blndResolve core slot => Sys2Proof.Machine.execBlndResolve core slot s
  | .titleRequest core slot => Sys2Proof.Machine.execTitleRequest core slot s
  | .islandEntryWrite core slot => Sys2Proof.Machine.execIslandEntryWrite core slot s
  | .islHang core slot => Sys2Proof.Machine.execIslHang core slot s
  | .waitwReread team => Sys2Proof.Machine.execWaitwReread team s
  | .waitTimeout team => Sys2Proof.Machine.execWaitTimeout team s
  | .smov32 b d x => Sys2Proof.Machine.execSmov32 b d x s
  | .smov64 b g d x => Sys2Proof.Machine.execSmov64 b g d x s
  | .sadd32 b d y => Sys2Proof.Machine.execSadd32 b d y s
  | .sadd64 b g d x y => Sys2Proof.Machine.execSadd64 b g d x y s
  | .ssub32 b d y => Sys2Proof.Machine.execSsub32 b d y s
  | .ssub64 b g d x y => Sys2Proof.Machine.execSsub64 b g d x y s
  | .smul32 b d y => Sys2Proof.Machine.execSmul32 b d y s
  | .smul64 b g d x y => Sys2Proof.Machine.execSmul64 b g d x y s
  | .smulh32 b d y => Sys2Proof.Machine.execSmulh32 b d y s
  | .smulh64 b g d x y => Sys2Proof.Machine.execSmulh64 b g d x y s
  | .smulhu32 b d y => Sys2Proof.Machine.execSmulhu32 b d y s
  | .smulhu64 b g d x y => Sys2Proof.Machine.execSmulhu64 b g d x y s
  | .sand32 b d y => Sys2Proof.Machine.execSand32 b d y s
  | .sand64 b g d x y => Sys2Proof.Machine.execSand64 b g d x y s
  | .sor32 b d y => Sys2Proof.Machine.execSor32 b d y s
  | .sor64 b g d x y => Sys2Proof.Machine.execSor64 b g d x y s
  | .sxor32 b d y => Sys2Proof.Machine.execSxor32 b d y s
  | .sxor64 b g d x y => Sys2Proof.Machine.execSxor64 b g d x y s
  | .sandn32 b d y => Sys2Proof.Machine.execSandn32 b d y s
  | .sandn64 b g d x y => Sys2Proof.Machine.execSandn64 b g d x y s
  | .snot32 b d x => Sys2Proof.Machine.execSnot32 b d x s
  | .snot64 b g d x => Sys2Proof.Machine.execSnot64 b g d x s
  | .sshl32 b d y => Sys2Proof.Machine.execSshl32 b d y s
  | .sshl64 b g d x y => Sys2Proof.Machine.execSshl64 b g d x y s
  | .sshr32 b d y => Sys2Proof.Machine.execSshr32 b d y s
  | .sshr64 b g d x y => Sys2Proof.Machine.execSshr64 b g d x y s
  | .ssar32 b d y => Sys2Proof.Machine.execSsar32 b d y s
  | .ssar64 b g d x y => Sys2Proof.Machine.execSsar64 b g d x y s
  | .smin32 b d y => Sys2Proof.Machine.execSmin32 b d y s
  | .smin64 b g d x y => Sys2Proof.Machine.execSmin64 b g d x y s
  | .smax32 b d y => Sys2Proof.Machine.execSmax32 b d y s
  | .smax64 b g d x y => Sys2Proof.Machine.execSmax64 b g d x y s
  | .sminu32 b d y => Sys2Proof.Machine.execSminu32 b d y s
  | .sminu64 b g d x y => Sys2Proof.Machine.execSminu64 b g d x y s
  | .smaxu32 b d y => Sys2Proof.Machine.execSmaxu32 b d y s
  | .smaxu64 b g d x y => Sys2Proof.Machine.execSmaxu64 b g d x y s
  | .scmp b g cc d x y => Sys2Proof.Machine.execScmp b g cc d x y s
  | .ssel b g d x y c => Sys2Proof.Machine.execSsel b g d x y c s
  | .sldcW32 b g d x y => Sys2Proof.Machine.execSldcW32 b g d x y s
  | .sldcW64 b g d x y => Sys2Proof.Machine.execSldcW64 b g d x y s
  | .sbfx32 b d y => Sys2Proof.Machine.execSbfx32 b d y s
  | .sbfx64 b g d x y => Sys2Proof.Machine.execSbfx64 b g d x y s
  | .sbfi b g d x y z => Sys2Proof.Machine.execSbfi b g d x y z s
  | .spopc32 b d x => Sys2Proof.Machine.execSpopc32 b d x s
  | .spopc64 b g d x => Sys2Proof.Machine.execSpopc64 b g d x s
  | .sclz32 b d x => Sys2Proof.Machine.execSclz32 b d x s
  | .sclz64 b g d x => Sys2Proof.Machine.execSclz64 b g d x s
  | .qand32 b d y => Sys2Proof.Machine.execQand32 b d y s
  | .qand64 b g d x y => Sys2Proof.Machine.execQand64 b g d x y s
  | .qor32 b d y => Sys2Proof.Machine.execQor32 b d y s
  | .qor64 b g d x y => Sys2Proof.Machine.execQor64 b g d x y s
  | .qxor32 b d y => Sys2Proof.Machine.execQxor32 b d y s
  | .qxor64 b g d x y => Sys2Proof.Machine.execQxor64 b g d x y s
  | .qnot32 b d x => Sys2Proof.Machine.execQnot32 b d x s
  | .qnot64 b g d x => Sys2Proof.Machine.execQnot64 b g d x s
  | .amovS b g d x => Sys2Proof.Machine.execAmovS b g d x s
  | .amovImm b g d n => Sys2Proof.Machine.execAmovImm b g d n s
  | .amovLane b d => Sys2Proof.Machine.execAmovLane b d s
  | .amov32 b d x => Sys2Proof.Machine.execAmov32 b d x s
  | .amov64 b g d x => Sys2Proof.Machine.execAmov64 b g d x s
  | .aadd32 b d y => Sys2Proof.Machine.execAadd32 b d y s
  | .aadd64 b g d x y => Sys2Proof.Machine.execAadd64 b g d x y s
  | .asub32 b d y => Sys2Proof.Machine.execAsub32 b d y s
  | .asub64 b g d x y => Sys2Proof.Machine.execAsub64 b g d x y s
  | .amul b g d x y => Sys2Proof.Machine.execAmul b g d x y s
  | .ashl b g d x y => Sys2Proof.Machine.execAshl b g d x y s
  | .proma b g d x y => Sys2Proof.Machine.execProma b g d x y s
  | .promv b g d y => Sys2Proof.Machine.execPromv b g d y s
  | .promb b g d y => Sys2Proof.Machine.execPromb b g d y s
  | .promp b g d x => Sys2Proof.Machine.execPromp b g d x s
  | .rdfirst b g d x => Sys2Proof.Machine.execRdfirst b g d x s
  | .rdlast b g d x => Sys2Proof.Machine.execRdlast b g d x s
  | .rdlane b g d x y => Sys2Proof.Machine.execRdlane b g d x y s
  | .capnar b g d x y z => Sys2Proof.Machine.execCapnar b g d x y z s
  | .caprst b g d x y => Sys2Proof.Machine.execCaprst b g d x y s
  | .capqryBase b g d x => Sys2Proof.Machine.execCapqryBase b g d x s
  | .capqryLen b g d x => Sys2Proof.Machine.execCapqryLen b g d x s
  | .capqryRights b g d x => Sys2Proof.Machine.execCapqryRights b g d x s
  | .iadd32 b d y => Sys2Proof.Machine.execIadd32 b d y s
  | .iadd64 b g d x y m => Sys2Proof.Machine.execIadd64 b g d x y m s
  | .isub32 b d y => Sys2Proof.Machine.execIsub32 b d y s
  | .isub64 b g d x y m => Sys2Proof.Machine.execIsub64 b g d x y m s
  | .imul32 b d y => Sys2Proof.Machine.execImul32 b d y s
  | .imul64 b g d x y m => Sys2Proof.Machine.execImul64 b g d x y m s
  | .imulh32 b d y => Sys2Proof.Machine.execImulh32 b d y s
  | .imulh64 b g d x y => Sys2Proof.Machine.execImulh64 b g d x y s
  | .imulhu32 b d y => Sys2Proof.Machine.execImulhu32 b d y s
  | .imulhu64 b g d x y => Sys2Proof.Machine.execImulhu64 b g d x y s
  | .imad b g d x y z m => Sys2Proof.Machine.execImad b g d x y z m s
  | .imin32 b d y => Sys2Proof.Machine.execImin32 b d y s
  | .imin64 b g d x y => Sys2Proof.Machine.execImin64 b g d x y s
  | .imax32 b d y => Sys2Proof.Machine.execImax32 b d y s
  | .imax64 b g d x y => Sys2Proof.Machine.execImax64 b g d x y s
  | .iminu32 b d y => Sys2Proof.Machine.execIminu32 b d y s
  | .iminu64 b g d x y => Sys2Proof.Machine.execIminu64 b g d x y s
  | .imaxu32 b d y => Sys2Proof.Machine.execImaxu32 b d y s
  | .imaxu64 b g d x y => Sys2Proof.Machine.execImaxu64 b g d x y s
  | .iand32 b d y => Sys2Proof.Machine.execIand32 b d y s
  | .iand64 b g d x y => Sys2Proof.Machine.execIand64 b g d x y s
  | .ior32 b d y => Sys2Proof.Machine.execIor32 b d y s
  | .ior64 b g d x y => Sys2Proof.Machine.execIor64 b g d x y s
  | .ixor32 b d y => Sys2Proof.Machine.execIxor32 b d y s
  | .ixor64 b g d x y => Sys2Proof.Machine.execIxor64 b g d x y s
  | .iandn32 b d y => Sys2Proof.Machine.execIandn32 b d y s
  | .iandn64 b g d x y => Sys2Proof.Machine.execIandn64 b g d x y s
  | .inot32 b d x => Sys2Proof.Machine.execInot32 b d x s
  | .inot64 b g d x => Sys2Proof.Machine.execInot64 b g d x s
  | .ishl32 b d y => Sys2Proof.Machine.execIshl32 b d y s
  | .ishl64 b g d x y => Sys2Proof.Machine.execIshl64 b g d x y s
  | .ishr32 b d y => Sys2Proof.Machine.execIshr32 b d y s
  | .ishr64 b g d x y => Sys2Proof.Machine.execIshr64 b g d x y s
  | .isar32 b d y => Sys2Proof.Machine.execIsar32 b d y s
  | .isar64 b g d x y => Sys2Proof.Machine.execIsar64 b g d x y s
  | .irot32 b d y => Sys2Proof.Machine.execIrot32 b d y s
  | .irot64 b g d x y => Sys2Proof.Machine.execIrot64 b g d x y s
  | .ibfx32 b d y => Sys2Proof.Machine.execIbfx32 b d y s
  | .ibfx64 b g d x y => Sys2Proof.Machine.execIbfx64 b g d x y s
  | .ibfxu32 b d y => Sys2Proof.Machine.execIbfxu32 b d y s
  | .ibfxu64 b g d x y => Sys2Proof.Machine.execIbfxu64 b g d x y s
  | .ibfi b g d x y z => Sys2Proof.Machine.execIbfi b g d x y z s
  | .ipopc32 b d x => Sys2Proof.Machine.execIpopc32 b d x s
  | .ipopc64 b g d x => Sys2Proof.Machine.execIpopc64 b g d x s
  | .iclz32 b d x => Sys2Proof.Machine.execIclz32 b d x s
  | .iclz64 b g d x => Sys2Proof.Machine.execIclz64 b g d x s
  | .ibrev32 b d x => Sys2Proof.Machine.execIbrev32 b d x s
  | .ibrev64 b g d x => Sys2Proof.Machine.execIbrev64 b g d x s
  | .iaddc b g d x y pi po => Sys2Proof.Machine.execIaddc b g d x y pi po s
  | .isubb b g d x y pi po => Sys2Proof.Machine.execIsubb b g d x y pi po s
  | .isetp b g cc d x y => Sys2Proof.Machine.execIsetp b g cc d x y s
  | .isel b g d x y c => Sys2Proof.Machine.execIsel b g d x y c s
  | .imov32 b d x => Sys2Proof.Machine.execImov32 b d x s
  | .imov64 b g d x => Sys2Proof.Machine.execImov64 b g d x s
  | .iabs32 b d x => Sys2Proof.Machine.execIabs32 b d x s
  | .iabs64 b g d x m => Sys2Proof.Machine.execIabs64 b g d x m s
  | .ineg32 b d x => Sys2Proof.Machine.execIneg32 b d x s
  | .ineg64 b g d x m => Sys2Proof.Machine.execIneg64 b g d x m s
  | .idp4 b g d x y z m => Sys2Proof.Machine.execIdp4 b g d x y z m s
  | .iprmt b g d x y z => Sys2Proof.Machine.execIprmt b g d x y z s
  | .isad b g d x y z u => Sys2Proof.Machine.execIsad b g d x y z u s
  | .nop32 b => Sys2Proof.Machine.execNop32 b s
  | .nop64 b g => Sys2Proof.Machine.execNop64 b g s
  | .nop96 b g => Sys2Proof.Machine.execNop96 b g s
  | .pand32 b d y => Sys2Proof.Machine.execPand32 b d y s
  | .pand64 b g d x y => Sys2Proof.Machine.execPand64 b g d x y s
  | .por32 b d y => Sys2Proof.Machine.execPor32 b d y s
  | .por64 b g d x y => Sys2Proof.Machine.execPor64 b g d x y s
  | .pxor32 b d y => Sys2Proof.Machine.execPxor32 b d y s
  | .pxor64 b g d x y => Sys2Proof.Machine.execPxor64 b g d x y s
  | .pandn32 b d y => Sys2Proof.Machine.execPandn32 b d y s
  | .pandn64 b g d x y => Sys2Proof.Machine.execPandn64 b g d x y s
  | .pnot32 b d x => Sys2Proof.Machine.execPnot32 b d x s
  | .pnot64 b g d x => Sys2Proof.Machine.execPnot64 b g d x s
  | .pmov32 b d x => Sys2Proof.Machine.execPmov32 b d x s
  | .pmov64 b g d x => Sys2Proof.Machine.execPmov64 b g d x s
  | .pmovBit b g d x y => Sys2Proof.Machine.execPmovBit b g d x y s
  | .pmovQ b g d x => Sys2Proof.Machine.execPmovQ b g d x s
  | .pmovHelp32 b d => Sys2Proof.Machine.execPmovHelp32 b d s
  | .pmovHelp64 b g d => Sys2Proof.Machine.execPmovHelp64 b g d s
  | .voteAll b g d x => Sys2Proof.Machine.execVoteAll b g d x s
  | .voteAny b g d x => Sys2Proof.Machine.execVoteAny b g d x s
  | .voteBal b g d x y => Sys2Proof.Machine.execVoteBal b g d x y s
  | .voteCnt b g d x => Sys2Proof.Machine.execVoteCnt b g d x s
  | .shflIdx b g d x y => Sys2Proof.Machine.execShflIdx b g d x y s
  | .shflUp b g d x y => Sys2Proof.Machine.execShflUp b g d x y s
  | .shflDn b g d x y => Sys2Proof.Machine.execShflDn b g d x y s
  | .shflXor b g d x y => Sys2Proof.Machine.execShflXor b g d x y s
  | .shflQx b g d x => Sys2Proof.Machine.execShflQx b g d x s
  | .shflQy b g d x => Sys2Proof.Machine.execShflQy b g d x s
  | .redx b g o d x => Sys2Proof.Machine.execRedx b g o d x s
  | .scan b g o d x excl => Sys2Proof.Machine.execScan b g o d x excl s
  | .barr b o d x span => Sys2Proof.Machine.execBarr b o d x span s
  | .bra b disp => Sys2Proof.Machine.execBra b disp s
  | .brx b pd taken join => Sys2Proof.Machine.execBrx b pd taken join s
  | .join b => Sys2Proof.Machine.execJoin b s
  | .loop b disp => Sys2Proof.Machine.execLoop b disp s
  | .brk32 b => Sys2Proof.Machine.execBrk32 b s
  | .brk64 b g => Sys2Proof.Machine.execBrk64 b g s
  | .cont32 b => Sys2Proof.Machine.execCont32 b s
  | .cont64 b g => Sys2Proof.Machine.execCont64 b g s
  | .callDisp b disp => Sys2Proof.Machine.execCallDisp b disp s
  | .callReg b x => Sys2Proof.Machine.execCallReg b x s
  | .ret b => Sys2Proof.Machine.execRet b s
  | .exit32 b => Sys2Proof.Machine.execExit32 b s
  | .exit64 b g => Sys2Proof.Machine.execExit64 b g s
  | .yield b => Sys2Proof.Machine.execYield b s
  | .trap32 b => Sys2Proof.Machine.execTrap32 b s
  | .trap64 b g n => Sys2Proof.Machine.execTrap64 b g n s
  | .bkpt32 b => Sys2Proof.Machine.execBkpt32 b s
  | .bkpt64 b g n => Sys2Proof.Machine.execBkpt64 b g n s
  | .sread32 b d n => Sys2Proof.Machine.execSread32 b d n s
  | .sread64 b g d n => Sys2Proof.Machine.execSread64 b g d n s
  | .swrite32 b n x => Sys2Proof.Machine.execSwrite32 b n x s
  | .swrite64 b g n x => Sys2Proof.Machine.execSwrite64 b g n x s
  | .fadd32 b d y => Sys2Proof.Machine.execFadd32 b d y s
  | .fadd64 b g d x y m => Sys2Proof.Machine.execFadd64 b g d x y m s
  | .fsub32 b d y => Sys2Proof.Machine.execFsub32 b d y s
  | .fsub64 b g d x y m => Sys2Proof.Machine.execFsub64 b g d x y m s
  | .fmul32 b d y => Sys2Proof.Machine.execFmul32 b d y s
  | .fmul64 b g d x y m => Sys2Proof.Machine.execFmul64 b g d x y m s
  | .ffma b g d x y z m => Sys2Proof.Machine.execFfma b g d x y z m s
  | .fmin32 b d y => Sys2Proof.Machine.execFmin32 b d y s
  | .fmin64 b g d x y => Sys2Proof.Machine.execFmin64 b g d x y s
  | .fmax32 b d y => Sys2Proof.Machine.execFmax32 b d y s
  | .fmax64 b g d x y => Sys2Proof.Machine.execFmax64 b g d x y s
  | .fabs32 b d x => Sys2Proof.Machine.execFabs32 b d x s
  | .fabs64 b g d x => Sys2Proof.Machine.execFabs64 b g d x s
  | .fneg32 b d x => Sys2Proof.Machine.execFneg32 b d x s
  | .fneg64 b g d x => Sys2Proof.Machine.execFneg64 b g d x s
  | .fcpsgn32 b d y => Sys2Proof.Machine.execFcpsgn32 b d y s
  | .fcpsgn64 b g d x y => Sys2Proof.Machine.execFcpsgn64 b g d x y s
  | .fsetp b g cc d x y => Sys2Proof.Machine.execFsetp b g cc d x y s
  | .frnd32 b d x => Sys2Proof.Machine.execFrnd32 b d x s
  | .frnd64 b g d x m => Sys2Proof.Machine.execFrnd64 b g d x m s
  | .fclass32 b d x => Sys2Proof.Machine.execFclass32 b d x s
  | .fclass64 b g d x => Sys2Proof.Machine.execFclass64 b g d x s
  | .fscl32 b d y => Sys2Proof.Machine.execFscl32 b d y s
  | .fscl64 b g d x y m => Sys2Proof.Machine.execFscl64 b g d x y m s
  | .hadd232 b d y => Sys2Proof.Machine.execHadd232 b d y s
  | .hadd264 b g d x y m => Sys2Proof.Machine.execHadd264 b g d x y m s
  | .hmul232 b d y => Sys2Proof.Machine.execHmul232 b d y s
  | .hmul264 b g d x y m => Sys2Proof.Machine.execHmul264 b g d x y m s
  | .hfma2 b g d x y z m => Sys2Proof.Machine.execHfma2 b g d x y z m s
  | .frcp32 b d x => Sys2Proof.Machine.execFrcp32 b d x s
  | .frcp64 b g d x m => Sys2Proof.Machine.execFrcp64 b g d x m s
  | .frsq32 b d x => Sys2Proof.Machine.execFrsq32 b d x s
  | .frsq64 b g d x m => Sys2Proof.Machine.execFrsq64 b g d x m s
  | .fsqrt32 b d x => Sys2Proof.Machine.execFsqrt32 b d x s
  | .fsqrt64 b g d x m => Sys2Proof.Machine.execFsqrt64 b g d x m s
  | .fexp232 b d x => Sys2Proof.Machine.execFexp232 b d x s
  | .fexp264 b g d x => Sys2Proof.Machine.execFexp264 b g d x s
  | .flog232 b d x => Sys2Proof.Machine.execFlog232 b d x s
  | .flog264 b g d x => Sys2Proof.Machine.execFlog264 b g d x s
  | .fsin32 b d x => Sys2Proof.Machine.execFsin32 b d x s
  | .fsin64 b g d x => Sys2Proof.Machine.execFsin64 b g d x s
  | .fcos32 b d x => Sys2Proof.Machine.execFcos32 b d x s
  | .fcos64 b g d x => Sys2Proof.Machine.execFcos64 b g d x s
  | .frandU3232 b d => Sys2Proof.Machine.execFrandU3232 b d s
  | .frandU3264 b g d => Sys2Proof.Machine.execFrandU3264 b g d s
  | .frandF3232 b d => Sys2Proof.Machine.execFrandF3232 b d s
  | .frandF3264 b g d => Sys2Proof.Machine.execFrandF3264 b g d s
  | .cvt b g d x pair m => Sys2Proof.Machine.execCvt b g d x pair m s
  | .cvtpPack b g d x y el m => Sys2Proof.Machine.execCvtpPack b g d x y el m s
  | .cvtpPacksr b g d x y el => Sys2Proof.Machine.execCvtpPacksr b g d x y el s
  | .cvtpUnpack b g d x j el => Sys2Proof.Machine.execCvtpUnpack b g d x j el s
  | .ld b g wd d off c n rq h => Sys2Proof.Machine.execLd b g wd d off c n rq h s
  | .st b g wd d off c n rq h => Sys2Proof.Machine.execSt b g wd d off c n rq h s
  | .ldb b g wd d off c n h m => Sys2Proof.Machine.execLdb b g wd d off c n h m s
  | .lds b g wd d off n win => Sys2Proof.Machine.execLds b g wd d off n win s
  | .sts b g wd d off n win => Sys2Proof.Machine.execSts b g wd d off n win s
  | .atom b g wd d off c n loc h m y z o => Sys2Proof.Machine.execAtom b g wd d off c n loc h m y z o s
  | .red b g wd off c n loc h rel y o => Sys2Proof.Machine.execRed b g wd off c n loc h rel y o s
  | .atoms b g wd d off n win m y z o => Sys2Proof.Machine.execAtoms b g wd d off n win m y z o s
  | .fenceAcq b => Sys2Proof.Machine.execFenceAcq b s
  | .fenceRel b => Sys2Proof.Machine.execFenceRel b s
  | .fenceAr b => Sys2Proof.Machine.execFenceAr b s
  | .rrel32 b c => Sys2Proof.Machine.execRrel32 b c s
  | .rrel64 b g c => Sys2Proof.Machine.execRrel64 b g c s
  | .invr b g x c y => Sys2Proof.Machine.execInvr b g x c y s
  | .wbr b g x c y => Sys2Proof.Machine.execWbr b g x c y s
  | .flr b g x c y => Sys2Proof.Machine.execFlr b g x c y s
  | .pref b g x c y h => Sys2Proof.Machine.execPref b g x c y h s
  | .cpy b g off sc cnt h z dof dc cwc cw tag dcls ssp dsp win => Sys2Proof.Machine.execCpy b g off sc cnt h z dof dc cwc cw tag dcls ssp dsp win s
  | .cpyt b g sd sp sc h dc cwc ssp dsp cw tag => Sys2Proof.Machine.execCpyt b g sd sp sc h dc cwc ssp dsp cw tag s
  | .cpymMc b g off dat k h cw cwc tag dsp span => Sys2Proof.Machine.execCpymMc b g off dat k h cw cwc tag dsp span s
  | .cpymRd b g off dat k h cw cwc tag dsp o span => Sys2Proof.Machine.execCpymRd b g off dat k h cw cwc tag dsp o span s
  | .waitt32 b mask => Sys2Proof.Machine.execWaitt32 b mask s
  | .waitt64 b g mask => Sys2Proof.Machine.execWaitt64 b g mask s
  | .waitw b g x y c m => Sys2Proof.Machine.execWaitw b g x y c m s
  | .notify b g x y c => Sys2Proof.Machine.execNotify b g x y c s
  | .notifySt b g x y c => Sys2Proof.Machine.execNotifySt b g x y c s
  | .qfence b set => Sys2Proof.Machine.execQfence b set s
  | .isend b g w0 w1 w2 h w3 w4 ks ld cls slot tag cn => Sys2Proof.Machine.execIsend b g w0 w1 w2 h w3 w4 ks ld cls slot tag cn s
  | .isendSync b g w0 w1 w2 h w3 w4 ks ld cls slot tag cn => Sys2Proof.Machine.execIsendSync b g w0 w1 w2 h w3 w4 ks ld cls slot tag cn s
  | .lstat32 b d x => Sys2Proof.Machine.execLstat32 b d x s
  | .lstat64 b g d x => Sys2Proof.Machine.execLstat64 b g d x s
  | .tricls b g d x cull pe lim => Sys2Proof.Machine.execTricls b g d x cull pe lim s
  | .wbld b g x y c h => Sys2Proof.Machine.execWbld b g x y c h s
  | .wbgth b g x y c h z => Sys2Proof.Machine.execWbgth b g x y c h z s
  | .mma b g a vc h z amax su cn ln fa km1 => Sys2Proof.Machine.execMma b g a vc h z amax su cn ln fa km1 s
  | .mmas b g d a vs su ln fa km1 => Sys2Proof.Machine.execMmas b g d a vs su ln fa km1 s
  | .scacc b g d vp vs z su fa km1 => Sys2Proof.Machine.execScacc b g d vp vs z su fa km1 s
  | .lbind b lg => Sys2Proof.Machine.execLbind b lg s
  | .lunbind b => Sys2Proof.Machine.execLunbind b s
  | .ladd b g d x y po tc ci => Sys2Proof.Machine.execLadd b g d x y po tc ci s
  | .lsub b g d x y po tc ci => Sys2Proof.Machine.execLsub b g d x y po tc ci s
  | .lshl b g d x y => Sys2Proof.Machine.execLshl b g d x y s
  | .lshr b g d x y => Sys2Proof.Machine.execLshr b g d x y s
  | .lmacs b g d x y dhi tc j => Sys2Proof.Machine.execLmacs b g d x y dhi tc j s
  | .lcmp b g cc d x y => Sys2Proof.Machine.execLcmp b g cc d x y s
  | .ill cause w0 idx bitPos => Sys2Proof.Machine.execIll cause w0 idx bitPos s
  | .synchronisationLost => Sys2Proof.Machine.execSynchronisationLost s
  | .preemptionVerification port ok => Sys2Proof.Machine.execPreemptionVerification port ok s
  | .domainVoltageChange d mv => Sys2Proof.Machine.execDomainVoltageChange d mv s
  | .apertureGating => Sys2Proof.Machine.execApertureGating s
  | .singleBitErrorCorrected core arr => Sys2Proof.Machine.execSingleBitErrorCorrected core arr s

end Sys2Proof.Machine
end

