-- ==== Sys2Proof/Machine/Run.lean ====
section
/-!
DEFINITION. Executing the fields of a fetched group: `exec` of the instruction that they decode to. `runFields` (Machine/Issue.lean)
is the same function without building the instruction, and is proved equal, so that code can be generated.
-/
namespace Sys2Proof.Machine

/-- A step runs the instruction that its fields decode to. -/
noncomputable def execDecoded (f : Fields) (s : State) : Out := exec (decodeFields f) s

theorem runRow_eq (f : Fields) (s : State) (r : Row) : exec (r.build f) s = runRow f s r := by
  cases r <;> rfl

@[csimp] theorem execDecoded_eq_runFields : @execDecoded = @runFields := by
  funext f s
  unfold execDecoded decodeFields runFields
  cases classify f with
  | ok r => exact runRow_eq f s r
  | bad cause idx bitPos => rfl

end Sys2Proof.Machine
end

