-- ==== Sys2Proof/Machine/Step.lean ====
section
/-!
DEFINITION. One step of the machine: the agent that the schedule names moves (log entry 1). A team or a gondola core executes
the instruction at its pc; a step of the table happens; time passes. With an empty schedule the machine is idle.
-/
namespace Sys2Proof.Machine

/-- Words that the instruction of a group occupies: LEN = 11 is word 0 alone (R167, R237). -/
def fieldWords (f : Fields) : Nat := if f.len = 3 then 1 else f.len.toNat + 1

/-- The team with this number executes the instruction at its pc; its words have been requested at their homes (R130). -/
def stepTeam (uid : Nat) (s : State) : Out :=
  match s.team? uid with
  | none => .next s
  | some t =>
    match s.fetch t with
    | .next s1 => .next s1
    | .words f => execDecoded f { s.fetched t (fieldWords f) with cur := uid }

/-- A gondola core executes the word at its pc (R53, R54); base RV32IMC words are PRESUMED (log entry 7). -/
def stepGondola (core : Nat) (s : State) : Out :=
  match decodeGondola (s.gondolaWord core) with
  | .xgnd i => exec i { s with gcur := core }
  | .illegal => .next (s.gondolaTrap core 2 (s.gondolaWord core))
  | .base => execRv32 core (s.gondolaWord core) s

/-- An agent moves. -/
def stepActor (a : Actor) (s : State) : Out :=
  match a with
  | .team uid => stepTeam uid s
  | .gondola core => stepGondola core s
  | .event i => if isEvent i then exec i s else .next s
  | .tick clks ns => .next (s.settleTimers.tick clks ns)

/-- One step: the head of the schedule moves, if it can. -/
def step (s : State) : Host.Outcome State Fault Refusal :=
  match s.schedule with
  | [] => .next s
  | a :: rest => if s.canMove a then stepActor a { s with schedule := rest } else .next { s with schedule := rest }

/-- The state with an instruction placed where the next step fetches: for an Xgnd word gondola core 0, for any other the team of
the setting of Machine/Load.lean (log entry 32). -/
def State.withFetchWord (s : State) (nbits w : Nat) : State :=
  if isXgnd (BitVec.ofNat 32 (w % 2 ^ nbits)) then s.loadGondolaCode (leBytes 4 (w % 2 ^ nbits))
  else s.loadTeamCode (tableBytes nbits w)

end Sys2Proof.Machine
end

