-- ==== Sys2Proof/Machine/Ready.lean ====
section
/-!
DEFINITION. The words in which the statements speak of an instruction that completes: when a team's instruction issues, what it
leaves when it completes, and when an event's agent exists.
-/
namespace Sys2Proof.Machine

/-- Team `t` is the one whose instruction executes and may issue; its operands `us` are registers that it has, and none of them is
still to be written in the lanes of `m` (R94-R98, R166). -/
abbrev State.issues (s : State) (t : Team) (us : List RegUse) (m : LaneMask) : Prop :=
  s.team? s.cur = some t ∧ t.canIssue = true ∧ t.badReg us = none ∧ t.hazard m us = false

/-- STEP is off, or the team is in a trap: no SINGLE_STEP follows (R298). -/
abbrev Team.noStep (t : Team) : Prop := t.dbg.getLsbD 0 = false ∨ t.inTrap = true

/-- A uniform instruction issues: every launched lane is active (R99). -/
abbrev State.uniformReady (s : State) (t : Team) (us : List RegUse) : Prop :=
  s.issues t us t.active ∧ t.active = t.launched ∧ t.noStep

/-- An affine or control instruction issues; it needs no full active mask (R99). -/
abbrev State.controlReady (s : State) (t : Team) (us : List RegUse) : Prop := s.issues t us t.active ∧ t.noStep

/-- A varying instruction issues under a guard that selects some active lane (R89, R112). -/
abbrev State.varyingReady (s : State) (t : Team) (g : Guard) (us : List RegUse) : Prop :=
  s.issues t us (t.execMask g) ∧ t.execMask g ≠ 0 ∧ t.noStep

/-- A varying instruction issues under a guard that selects no active lane (R112). -/
abbrev State.varyingIdle (s : State) (t : Team) (g : Guard) (us : List RegUse) : Prop :=
  s.issues t us (t.execMask g) ∧ t.execMask g = 0 ∧ t.noStep

/-- The team after an instruction of `words` words that leaves its registers as `t1` has them: the pc after it, and the run goes on
or, with the run-boundary bit, ends (R94). -/
def Team.next (t t1 : Team) (words : Nat) (b : Bool) : Team :=
  { t1 with
      pc := t.pc + BitVec.ofNat 32 (4 * words)
      runLen := if b then 0 else t.runLen + 1
      port := if b then none else t1.port }

/-- The state after such an instruction. Nothing but the team has changed. -/
def State.completed (s : State) (t t1 : Team) (words : Nat) (b : Bool) : State := s.setTeam (t.next t1 words b)

/-- The state after an instruction that leaves its team as `t1`, continues at `x` and ends the run (R94). -/
def State.jumped (s : State) (t1 : Team) (x : Word) : State := s.setTeam { t1 with pc := x, runLen := 0, port := none }

/-- v(j) of R302: the value of lane j of a row if it is selected, else the identity. -/
def leafOf (op : Nat) (m : LaneMask) (row : List Word) (j : Nat) : Word :=
  if j < row.length ∧ m.getLsbD j = true then laneWord row j else combineId op

/-- node(k, j) of R302 over leaves `v`. -/
def nodeOf (op : Nat) (v : Nat → Word) : Nat → Nat → Word
  | 0, j => v j
  | k + 1, j => (combineW op (nodeOf op v k (2 * j)) (nodeOf op v k (2 * j + 1))).1

/-- prefix(n) of R302 from level `k` down, `base` lanes combined so far into `acc`. -/
def prefixOf (op : Nat) (v : Nat → Word) (n : Nat) : Nat → Nat → Word → Word
  | 0, base, acc => if 1 ≤ n - base then (combineW op acc (nodeOf op v 0 base)).1 else acc
  | k + 1, base, acc =>
    if 2 ^ (k + 1) ≤ n - base then
      prefixOf op v n k (base + 2 ^ (k + 1)) (combineW op acc (nodeOf op v (k + 1) (base / 2 ^ (k + 1)))).1
    else prefixOf op v n k base acc

/-- The lanes in which a memory instruction acts: stores, reductions, atomics and copies leave helper lanes out (R111, R324). -/
def Team.memMask (t : Team) (g : Guard) (live : Bool) : LaneMask :=
  if live then t.liveMask (t.execMask g) else t.execMask g

/-- A memory instruction issues and passes the checks that come before those of its object: no bound limb is split and no affine
address wraps in a lane that acts; `t1` is the team with AW as its address use leaves it (R100, R117, R324). -/
abbrev State.memReady (s : State) (t : Team) (g : Guard) (us : List RegUse) (off : Opd) (live : Bool) (t1 : Team) : Prop :=
  s.varyingReady t g (opdUse 1 off ++ us) ∧ t.limbShape (t.execMask g) = none ∧
    t.affineUse off (t.memMask g live) = (t1, none)

/-- The entry that a team submits to an engine queue (R153, R339). -/
def State.opOf (s : State) (t : Team) (tag : Option Nat) (cw : Option CompWord) (job : Job) (hint : Nat) : EngineOp :=
  { id := s.nextId, part := t.part, uid := t.uid, nb := t.nb, rank := t.rank, pc := t.pc, tag := tag.getD 0,
    hasTag := tag.isSome, cw := cw, job := job, hint := hint, after := s.nextSeq, cursor := 0, done := false,
    parked := none, asking := none }

/-- Queue `k` of the team's core has received nothing in this clk that comes after what the team submits (R95, R213). -/
abbrev State.inTurn (s : State) (t : Team) (k : Nat) : Prop := s.sentLate t.core [t.sentTo false k] = false

/-- The state in which an engine queue of a team's core has taken an entry of it at its end: the copy queue, or the weight-buffer
queue. -/
def State.enqueued (s : State) (t : Team) (wb : Bool) (op : EngineOp) : State :=
  (({ s with nextId := s.nextId + 1, nextSeq := s.nextSeq + 1 }).mapCore t.core fun c =>
    if wb then { c with wbQ := c.wbQ ++ [op] } else { c with copyQ := c.copyQ ++ [op] }).noteSent t.core
      [t.sentTo false (if wb then 3 else 0)]

/-- A team with one operation more under a tag (R339). -/
def Team.tagged (t : Team) (k : Nat) : Team := { t with tags := modifyAt t.tags k fun n => n + 1 }

/-- A gondola core that has completed an Xgnd instruction: rd written, the pc past it (R54, R55). -/
def State.gondolaDone (s : State) (core : Nat) (rd : BitVec 5) (v : Word) : State :=
  { s with gcores := modifyAt s.gcores core fun g => { g.setReg rd v with pc := g.pc + 4 } }

end Sys2Proof.Machine
end

