-- ==== Sys2Proof/Safety.lean ====
section
/-!
DEFINITION. What a safe run is: a run none of whose steps stops.
-/
namespace Sys2Proof.Machine

/-- `n` steps from a state all answer a next state, ending in `t`. -/
def runsTo : Nat → State → State → Prop
  | 0, s, t => s = t
  | n + 1, s, t => ∃ u, step s = .next u ∧ runsTo n u t

end Sys2Proof.Machine
end

