-- ==== Sys2Proof/Certificates/Slice0/Obligations.lean ====
section
/-!
DEFINITION. The statements for the provers.
-/
open Sys2Proof Sys2Proof.Machine

/-- R26, R33, R43, R56, R72, R170: the machine after a cold reset whose boot chain has passed: no team, launch, packet or signal;
partition 0 RUNNABLE and 128 clients FREE; the dispatcher's registers at their reset values; the stacked cache and the ownership
registry empty. The model's choices in it: that memory lists nothing (log entry 3), that time is not synchronised, no link is up
and no output scans (log entry 9), that the boot chain has passed, so that BOOT.STAT reads 0 (log entry 8), and the reset numbers
that those entries name. R89, R92, R98, R99, R110, R164: a team as its neighbourhood starts: every register zero but the
constants and capabilities of the launch record, all lanes launched and active, the pc at the entry, no trap, stack, tag or
pending access. -/
def Obligations.ResetAndTeamStart : Prop :=
  (let s := State.reset
   s.teams = [] ∧ s.nbs = [] ∧ s.launches = [] ∧ s.signals = [] ∧ s.mem = [] ∧ s.registry = [] ∧ s.stack = [] ∧ s.badBlocks = [] ∧ s.frozen = false ∧
   s.devTime = 0 ∧ s.timeSynced = false ∧ s.boot.stat = 0 ∧ s.fuses.dsecLocked = true ∧ s.cores.length = 96 ∧ s.parts.length = 129 ∧
   (s.getPart 0).st = .runnable ∧ (∀ p, 1 ≤ p → p ≤ 128 → (s.getPart p).st = .free ∧ (s.getPart p).nextToken = 1 ∧
     (s.getPart p).desc = Desc.reset ∧ (∀ q ∈ (s.getPart p).queues, q.en = false ∧ q.qwr = 0 ∧ q.qrd = 0 ∧ q.quantum = 0x10000)) ∧
   s.pslice = 0x3E8 ∧ s.starve = 0x7D0 ∧ s.adv = 0x10 ∧ s.ts = 0x64 ∧ s.parkLim = 0x14 ∧
   (∀ w ∈ s.winch, w.cap = 1 ∧ w.fall = 16 ∧ w.rise = 4 ∧ w.stepUp = 8) ∧ s.tbl.cmd = none ∧ s.tbl.drop = false ∧
   (∀ o ∈ s.outputs, o.en = false) ∧ (∀ p ∈ s.ports, p.en = false ∧ p.link = false)) ∧
  (∀ (p : LaunchRec) (w : Place2) (clk : Nat), p.lanes ≤ 1024 →
     let t := teamStart p w none clk
     t.pc = p.entry ∧ t.status = .running ∧ t.inTrap = false ∧ t.stack = [] ∧ t.flags = 0 ∧ t.helper = 0 ∧ t.limb = 0 ∧
     (∀ l < 1024, t.launched.getLsbD l = decide (l < p.lanes) ∧ t.active.getLsbD l = decide (l < p.lanes)) ∧
     (∀ r : Spec, r.toNat < 32 → t.readS r = 0 ∧ t.readA r = (0, 0)) ∧
     (∀ k : Nat, k < 32 → t.readS (BitVec.ofNat 8 (32 + k)) = p.consts[k]?.getD 0) ∧
     (∀ k : Nat, k < 8 → t.readC (BitVec.ofNat 8 k) = p.caps[k]?.getD 0) ∧ (∀ k : Nat, 8 ≤ k → k < 16 → t.readC (BitVec.ofNat 8 k) = 0) ∧
     (∀ i : BitVec 3, i ≠ 7 → t.readQ i = false ∧ t.readP i = 0) ∧ (∀ r l, laneWord (t.readV r) l = 0) ∧
     t.loads = [] ∧ t.atomics = [] ∧ t.storeQ = [] ∧ (∀ k : Nat, t.tags[k]?.getD 0 = 0) ∧ (∀ l ∈ t.lines, l.entries = [] ∧ l.owed = []))

/-- The reset state's memory has its canonical form. -/
def Obligations.ResetSatisfiesInvariant : Prop :=
  Memory.wf State.reset.mem = true

/-- Every step keeps memory in its canonical form, from every state that has it: equal memories stay equal data. -/
def Obligations.EveryStepKeepsInvariant : Prop :=
  ∀ (s q : State), Memory.wf s.mem = true → step s = .next q → Memory.wf q.mem = true

/-- R232, R233 to R244, R258 to R269, R54: decoding the words of any well-formed instruction gives it back, every operand at
every value that its encoding admits. -/
def Obligations.DecodeEncodeRoundTrip : Prop :=
  (∀ (i : Instr) (f : Fields), i.wellFormed = true → encodeFields i = some f → decode (encode i) = some i) ∧
  (∀ (i : Instr) (w : Word), encodeXgnd i = some w → decodeGondola w = .xgnd i ∧ encode i = [w])

/-- R233 to R244, R54: a word group has one meaning: the instruction that it decodes to is well formed, and encodes to the same
words. -/
def Obligations.DecodedWordsHaveOneMeaning : Prop :=
  (∀ (w0 w1 w2 : Word), (∃ c x i k, decodeTeam w0 w1 w2 = .ill c x i k) ∨
    ((decodeTeam w0 w1 w2).wellFormed = true ∧ encode (decodeTeam w0 w1 w2) = [w0, w1, w2].take (wordCount w0))) ∧
  (∀ (w : Word) (i : Instr), decodeGondola w = .xgnd i → encodeXgnd i = some w)

/-- R23, R28, R53, R54, R94, R95, R232: what a step is. A team's step runs the instruction that the words at its pc decode to; a
gondola core's step runs its word, an illegal one trapping with mcause 2; an event of the schedule happens; with the clocks
stopped only resets happen, and no time passes. That a schedule names the next agent is the model's choice (log entry 1), and
that a fetch reads the home values as they stand when the instruction executes, of the words that R245 admits, is DEDUCED (log
entry 11); their lines are asked for at the stacks as the step reads them (R130); the effect of a base RV32IMC word is PRESUMED
from outside the spec (log entry 7). -/
def Obligations.StepRunsDecodedInstruction : Prop :=
  ∀ (s : State) (rest : List Actor) (n : Nat),
    let s0 : State := { s with schedule := rest }
    (∀ (t : Team) (w : Nat → Word), s.schedule = .team n :: rest → s.frozen = false → s.team? n = some t → t.canIssue = true →
      t.pc.toNat + 4 * wordCount (w 0) ≤ Cap.length t.prm.code →
      (∀ k < wordCount (w 0), ∃ x, s.translate t.part (Cap.handle t.prm.code) (Cap.base t.prm.code + (t.pc.toNat + 4 * k)) 4 [23] 0x34
        = .ok x ∧ s.badIn x.pa 4 = none ∧ s.homeNat x.pa 4 = (w k).toNat) →
      step s = exec (decodeTeam (w 0) (w 1) (w 2)) { s0.fetched t (wordCount (w 0)) with cur := n }) ∧
    (∀ t, s.schedule = .team n :: rest → s.frozen = false → s.team? n = some t → t.canIssue = false → step s = .next s0) ∧
    (s.schedule = .gondola n :: rest → s.frozen = false → s.boot.stat = 0 →
      (∀ i, decodeGondola (s.gondolaWord n) = .xgnd i → step s = exec i { s0 with gcur := n }) ∧
      (decodeGondola (s.gondolaWord n) = .illegal → step s = .next (s0.gondolaTrap n 2 (s.gondolaWord n))) ∧
      (decodeGondola (s.gondolaWord n) = .base → step s = execRv32 n (s.gondolaWord n) s0)) ∧
    (∀ i, s.schedule = .event i :: rest → s.frozen = false → isEvent i = true → step s = exec i s0) ∧
    (∀ a, s.schedule = a :: rest → s.frozen = true → a ≠ .event .coldReset → (∀ c, a ≠ .event (.warmReset c)) →
      (∀ c d, a ≠ .tick c d) → step s = .next s0) ∧
    (∀ c d, s.schedule = .tick c d :: rest → ∃ q, step s = .next q ∧ q.teams = s.teams ∧ q.mem = s.mem ∧
      (s.frozen = true → q.devTime = s.devTime ∧ q.clk = s.clk ∧ q.ports = s.ports) ∧
      (s.frozen = false → q.clk = s.clk + c ∧ (s.timeRate = 0 → s.timeFrac = 0 → q.devTime = s.devTime + BitVec.ofNat 64 d))) ∧
    (s.schedule = [] → step s = .next s)

/-- Words written out from the encodings of the spec stand for the instructions that it says. -/
def Obligations.KnownWordsDecode : Prop :=
  decodeTeam 0x60001011 0x0000FD00 0 = .smov64 false .always 4 (.imm 0xFD) ∧
  decodeTeam 0xA0080488 0 0 = .aadd32 false 1 2 ∧
  decodeTeam 0xC8100449 0x00000005 0 = .scmp false .always 2 1 4 5 ∧
  decodeTeam 0x00181102 0x00000105 0x00020000 = .iaddc false .always 4 (.v 6) (.v 5) 1 2 ∧
  decodeTeam 0x001409B2 0 0x00C00000 = .barr false 0 2 (.v 5) 0xC0 ∧
  decodeTeam 0x00004298 0 0 = .loop false 16 ∧
  decodeTeam 0x001C12D0 0 0 = .sread32 false 4 7 ∧
  decodeTeam 0x000005B8 0 0 = .ill 1 0x000005B8 0 3

/-- R260: whether a form is missing, and every cause that outranks a missing form, is decided from OP, SUB and LEN alone; a word
with LEN = 11 is one word, and its cause is decided from word 0. -/
def Obligations.MissingFormRule : Prop :=
  let same (x w : Word) : Prop := x.extractLsb' 0 2 = w.extractLsb' 0 2 ∧ x.extractLsb' 3 7 = w.extractLsb' 3 7 ∧
    x.extractLsb' 26 3 = w.extractLsb' 26 3
  (∀ (w0 w1 w2 x0 x1 x2 : Word), same x0 w0 → ∀ c x i k, c = 0 ∨ c = 2 ∨ c = 0x0F → decodeTeam w0 w1 w2 = .ill c x i k →
    ∃ y j n, decodeTeam x0 x1 x2 = .ill c y j n) ∧
  (∀ (w0 w1 w2 : Word), (∀ x0 x1 x2, same x0 w0 → ∃ c y j n, decodeTeam x0 x1 x2 = .ill c y j n) →
    ∃ c x i k, decodeTeam w0 w1 w2 = .ill c x i k ∧ (c = 0 ∨ c = 1 ∨ c = 2 ∨ c = 0x0F)) ∧
  (∀ (w0 w1 w2 x1 x2 : Word), w0.extractLsb' 0 2 = 3 → wordCount w0 = 1 ∧ decodeTeam w0 w1 w2 = decodeTeam w0 x1 x2 ∧
    ∃ c x i k, decodeTeam w0 w1 w2 = .ill c x i k ∧ (c = 0 ∨ c = 1 ∨ c = 2))

/-- R228: the block sum of an integer-like pairing is the exact integer sum of the products, the accumulation is its sum modulo
2^32, IOV is set where the sum or the exact accumulation leaves the signed 32-bit range, and IOV traps under no FPTRAP. -/
def Obligations.IntegerAccumulationRule : Prop :=
  ∀ (f : BlockFmt) (acc : Word) (cs : List (Nat × Nat)), f.isInt = true →
    let s : Int := (cs.map fun c => decodeInt f.ea c.1 * decodeInt f.eb c.2).sum
    let out (x : Int) : Prop := x < -(2 ^ 31 : Nat) ∨ (2 ^ 31 - 1 : Nat) < x
    (accBlock f acc cs).1 = BitVec.ofInt 32 (acc.toInt + s) ∧
    ((accBlock f acc cs).2.getLsbD 5 = true ↔ out s ∨ out (acc.toInt + s)) ∧
    (∀ i < 5, (accBlock f acc cs).2.getLsbD i = false) ∧
    (∀ (blocks : List (List (Nat × Nat))), (blocks.foldl (fun a cs => (accBlock f a cs).1) acc) = BitVec.ofInt 32 (acc.toInt +
      (blocks.map fun cs => (cs.map fun c => decodeInt f.ea c.1 * decodeInt f.eb c.2).sum).sum)) ∧
    ∀ fptrap x, Raised.causes fptrap [none, none, none, none, none, x] = []

/-- R303: REDX is team-wide: its selection is the active mask under its P guard, and Sd takes node(10, 0), the identity for an
empty selection; S2 and MOD must be zero; R99 applies. -/
def Obligations.ReductionRule : Prop :=
  (∀ (s : State) (t : Team) (b : Bool) (g : Guard) (o : BitVec 3) (d x : Spec), o.toNat ≤ 6 →
    let v := leafOf o.toNat (t.active &&& t.guardMask g) (t.readV x)
    let us := [RegUse.dest 0 .s d, RegUse.src 1 .v x]
    (s.uniformReady t us →
      (o.toNat < 6 → exec (.redx b g o d x) s = .next (s.completed t (t.writeS d (nodeOf o.toNat v 10 0)) 2 b)) ∧
      (t.prm.fptrap = 0 → ∃ f, exec (.redx b g o d x) s
        = .next (s.completed t { t.writeS d (nodeOf o.toNat v 10 0) with flags := t.flags ||| f } 2 b))) ∧
    (t.active &&& t.guardMask g = 0 → nodeOf o.toNat v 10 0 = combineId o.toNat) ∧
    (s.team? s.cur = some t → t.canIssue = true → t.badReg us = none → t.active ≠ t.launched → ∃ info,
      exec (.redx b g o d x) s = .next (s.takeTrap t { code := 0x10, info := info, lane := 0, handle := 0, next := false } false t.pc t.pc
        none))) ∧
  (∀ (w0 w1 w2 : Word), w0.extractLsb' 3 7 = 0x34 → w0.extractLsb' 0 2 = 1 → (w1.extractLsb' 0 8 ≠ 0 ∨ w1.extractLsb' 30 2 ≠ 0) →
    ∃ c x i k, decodeTeam w0 w1 w2 = .ill c x i k)

/-- R99, R167: a uniform, Q or capability destination needs every launched lane active: otherwise UNIFORM_PARTIAL, with no
effect, whatever the guard. R298: with STEP set and no trap under way, SINGLE_STEP follows an instruction that has completed; the
return pc is the next instruction. R96, R170, R175, R176: a park-class cause: the team joins the open entry of its partition with
the same key, or opens one under the partition's next token, and stops at its instruction; with 64 entries open it is to be
evicted. -/
def Obligations.PartialStepAndParkResults : Prop :=
  (∀ (s : State) (t : Team) (i : Instr) (us : List RegUse) (f : Fields) (b : Bool) (g : Guard) (d x y : Spec) (e : BitVec 3),
     (i = .sadd32 b d y ∧ us = [RegUse.dest 0 .s d, RegUse.src 1 .s y]) ∨
     (i = .smul64 b g d x y ∧ us = [RegUse.dest 0 .s d, RegUse.src 1 .s x, RegUse.src 2 .s y]) ∨
     (i = .smov64 b g d (.imm y) ∧ us = [RegUse.dest 0 .s d]) ∨ (i = .qnot32 b e 0 ∧ us = []) →
     encodeFields i = some f → s.team? s.cur = some t → t.canIssue = true → t.badReg us = none → t.active ≠ t.launched →
     exec i s = .next (s.takeTrap t { code := 0x10, info := infoW f.word0 0 10, lane := 0, handle := 0, next := false } false t.pc t.pc
       none)) ∧
  (∀ (s : State) (t : Team) (b : Bool), t.dbg.getLsbD 0 = true → t.inTrap = false →
     s.team? s.cur = some t → t.canIssue = true → t.hazard t.active [] = false →
     exec (.nop32 b) s = .next (s.takeTrap (t.next t 1 b) { code := 0x0D, info := 0, lane := 0, handle := 0, next := false }
       false t.pc (t.pc + 4) none)) ∧
  (∀ (s : State) (t : Team) (cause h page lane : Nat), s.team? t.uid = some t → t.core < s.cores.length → t.part < s.parts.length →
     let c := s.getCore t.core
     let q := s.parkTeam t cause h page lane
     let stopped (st : TeamStatus) : Prop := ∃ u, q.team? t.uid = some u ∧ u.status = st ∧ u.pc = t.pc ∧ u.port = none ∧
       u.parkClk = s.clk ∧ u.parkCause = cause ∧ u.slot = t.slot
     let n := (s.getPart t.part).nextToken
     (∀ e, cause ≠ 0x35 → c.waitFor? t.part (some (h, page)) = some e → stopped (.parked e.token) ∧ q.parts = s.parts ∧
       ∃ x ∈ (q.getCore t.core).waits, x.token = e.token ∧ x.part = t.part ∧ x.waiters = e.waiters + 1) ∧
     (cause = 0x35 ∨ c.waitFor? t.part (some (h, page)) = none → c.openWaits.length < 64 → stopped (.parked n) ∧
       (q.getPart t.part).nextToken = (if n = 2 ^ 32 - 1 then 1 else n + 1) ∧
       ∃ x, (q.getCore t.core).waits = c.waits ++ [x] ∧ x.token = n ∧ x.part = t.part ∧ x.cause = cause ∧ x.waiters = 1 ∧ x.wake = false ∧
         x.key = if cause = 0x35 then none else some (h, page)) ∧
     (cause = 0x35 ∨ c.waitFor? t.part (some (h, page)) = none → 64 ≤ c.openWaits.length → stopped (.evictDue n)))

/-- R98, R238: what a register write leaves to be read: the value in the register named and nothing elsewhere; SZ, VZ, Q7 and P7
discard it; predicates and varying registers change in the lanes of the mask. -/
def Obligations.RegisterReadBack : Prop :=
  ∀ (t : Team) (m : LaneMask) (i j : BitVec 3) (r r' : Spec) (w : Word) (a : Word × Word) (c : Cap) (p : LaneMask) (x : List Word) (k : Bool),
    (t.writeS 0xFF w = t ∧ t.readS 0xFF = 0) ∧
    (r ≠ 0xFF → r.toNat < t.sreg.length → (t.writeS r w).readS r' = if r' = r then w else t.readS r') ∧
    (r.toNat < t.areg.length → (t.writeA r a).readA r' = if r' = r then a else t.readA r') ∧
    (r.toNat < t.creg.length → (t.writeC r c).readC r' = if r' = r then c else t.readC r') ∧
    (t.writeQ 7 k = t ∧ t.readQ 7 = true) ∧ (i ≠ 7 → (t.writeQ i k).readQ j = if j = i then k else t.readQ j) ∧
    (t.writeP m 7 p = t ∧ t.readP 7 = BitVec.allOnes 1024) ∧
    (i ≠ 7 → i.toNat < t.preg.length → ∀ l, ((t.writeP m i p).readP j).getLsbD l
      = if j = i ∧ m.getLsbD l then p.getLsbD l else (t.readP j).getLsbD l) ∧
    (250 ≤ r.toNat → t.putV m r x = t ∧ ∀ l, laneWord (t.readV r) l = 0) ∧
    (r.toNat < t.vreg.length → r.toNat < 240 → (t.readV r).length = t.lanes → x.length = t.lanes →
      (∀ l < t.lanes, laneWord ((t.putV m r x).readV r) l = if m.getLsbD l then laneWord x l else laneWord (t.readV r) l) ∧
      (r' ≠ r → (t.putV m r x).readV r' = t.readV r')) ∧
    (t.y0.length = t.lanes → t.y1.length = t.lanes → x.length = t.lanes → ∀ l < t.lanes,
      laneWord ((t.advanceY m x).readV 248) l = (if m.getLsbD l then laneWord x l else laneWord t.y0 l) ∧
      laneWord ((t.advanceY m x).readV 249) l = (if m.getLsbD l then laneWord t.y0 l else laneWord t.y1 l))

/-- R272, R291, R299, R310: an instruction of the uniform, affine, capability, integer, predicate, cross-lane, control, special,
floating, MMAS, SCACC or limb families leaves every byte of memory and every registration as it was, a trap included, and so
every L1 word, where it completes no barrier: the instruction is not BARR, and the team's neighbourhood has no barrier instance
that its departure could complete (R306; the acquire of a departure invalidates valid words, R150). -/
def Obligations.RegisterInstructionsLeaveMemory : Prop :=
  ∀ (s q : State) (i : Instr) (f : Fields), encodeFields i = some f → (f.op.toNat < 0x5B ∨ 0x75 ≤ f.op.toNat) → exec i s = .next q →
    q.mem = s.mem ∧ q.registry = s.registry ∧ (∀ a, q.homeByte a = s.homeByte a) ∧
    ((∀ b d e x z, i ≠ .barr b d e x z) → (∀ t, s.team? s.cur = some t → ∀ n ∈ s.nbs, n.id = t.nb → n.barriers = []) →
      ∀ n, (q.getCore n).l1 = (s.getCore n).l1)

/-- R136, R148, R149: a write at the homes reads back, and leaves the home value of every byte of any other word. -/
def Obligations.HomeWritesReadBack : Prop :=
  ∀ (s : State) (pa : Nat) (bs : List Byte),
    (∀ i < bs.length, (s.writeHome pa bs).homeByte (pa + i) = bs[i]?.getD 0) ∧
    (∀ a, a / 4 ∉ wordsOf pa bs.length → (s.writeHome pa bs).homeByte a = s.homeByte a) ∧
    (∀ w ∈ wordsOf pa bs.length, (s.writeHome pa bs).owner w = none) ∧
    (s.writeHome pa bs).teams = s.teams ∧ (s.writeHome pa bs).parts = s.parts

/-- R274, R236: the two-address uniform instructions. `a` is the old value of Sd and `c` the value of Sy. A write to SZ is
discarded by `writeS`. R274, R240: the three-address uniform instructions under a true Q guard, and under a false one, which
leaves no effect. R274, R275: the unary uniform instructions, SMOV in both forms with its immediate, and SBFI. R276, R98: SCMP
and the Q-logic instructions write Qd; Q7 reads true and a write to it is discarded. -/
def Obligations.UniformResults : Prop :=
  (∀ (s : State) (t : Team) (b : Bool) (d y : Spec), s.uniformReady t [RegUse.dest 0 .s d, RegUse.src 1 .s y] →
     let a := t.readS d
     let c := t.readS y
     let done (x : Word) : Out := .next (s.completed t (t.writeS d x) 1 b)
     exec (.sadd32 b d y) s = done (a + c) ∧
     exec (.ssub32 b d y) s = done (a - c) ∧
     exec (.smul32 b d y) s = done (BitVec.ofNat 32 (a.toNat * c.toNat)) ∧
     exec (.smulh32 b d y) s = done ((a.signExtend 64 * c.signExtend 64).extractLsb' 32 32) ∧
     exec (.smulhu32 b d y) s = done ((a.setWidth 64 * c.setWidth 64).extractLsb' 32 32) ∧
     exec (.sand32 b d y) s = done (a &&& c) ∧
     exec (.sor32 b d y) s = done (a ||| c) ∧
     exec (.sxor32 b d y) s = done (a ^^^ c) ∧
     exec (.sandn32 b d y) s = done (a &&& ~~~c) ∧
     exec (.sshl32 b d y) s = done (if 32 ≤ c.toNat then 0 else BitVec.ofNat 32 (a.toNat * 2 ^ c.toNat)) ∧
     exec (.sshr32 b d y) s = done (if 32 ≤ c.toNat then 0 else BitVec.ofNat 32 (a.toNat / 2 ^ c.toNat)) ∧
     exec (.ssar32 b d y) s = done (BitVec.ofInt 32 (a.toInt / ((2 ^ min c.toNat 31 : Nat) : Int))) ∧
     exec (.smin32 b d y) s = done (if c.toInt < a.toInt then c else a) ∧
     exec (.smax32 b d y) s = done (if a.toInt < c.toInt then c else a) ∧
     exec (.sminu32 b d y) s = done (if c.toNat < a.toNat then c else a) ∧
     exec (.smaxu32 b d y) s = done (if a.toNat < c.toNat then c else a) ∧
     exec (.sbfx32 b d y) s = done (extractU a c)) ∧
  (∀ (s : State) (t : Team) (b : Bool) (g : Guard) (d x y : Spec),
     s.uniformReady t [RegUse.dest 0 .s d, RegUse.src 1 .s x, RegUse.src 2 .s y] →
     let a := t.readS x
     let c := t.readS y
     let done (x : Word) : Out := .next (s.completed t (t.writeS d x) 2 b)
     (t.guardQ g = true →
       exec (.sadd64 b g d x y) s = done (a + c) ∧
       exec (.ssub64 b g d x y) s = done (a - c) ∧
       exec (.smul64 b g d x y) s = done (BitVec.ofNat 32 (a.toNat * c.toNat)) ∧
       exec (.smulh64 b g d x y) s = done ((a.signExtend 64 * c.signExtend 64).extractLsb' 32 32) ∧
       exec (.smulhu64 b g d x y) s = done ((a.setWidth 64 * c.setWidth 64).extractLsb' 32 32) ∧
       exec (.sand64 b g d x y) s = done (a &&& c) ∧
       exec (.sor64 b g d x y) s = done (a ||| c) ∧
       exec (.sxor64 b g d x y) s = done (a ^^^ c) ∧
       exec (.sandn64 b g d x y) s = done (a &&& ~~~c) ∧
       exec (.sshl64 b g d x y) s = done (if 32 ≤ c.toNat then 0 else BitVec.ofNat 32 (a.toNat * 2 ^ c.toNat)) ∧
       exec (.sshr64 b g d x y) s = done (if 32 ≤ c.toNat then 0 else BitVec.ofNat 32 (a.toNat / 2 ^ c.toNat)) ∧
       exec (.ssar64 b g d x y) s = done (BitVec.ofInt 32 (a.toInt / ((2 ^ min c.toNat 31 : Nat) : Int))) ∧
       exec (.smin64 b g d x y) s = done (if c.toInt < a.toInt then c else a) ∧
       exec (.smax64 b g d x y) s = done (if a.toInt < c.toInt then c else a) ∧
       exec (.sminu64 b g d x y) s = done (if c.toNat < a.toNat then c else a) ∧
       exec (.smaxu64 b g d x y) s = done (if a.toNat < c.toNat then c else a) ∧
       exec (.sbfx64 b g d x y) s = done (extractU a c) ∧
       (∀ c : BitVec 3, exec (.ssel b g d x y c) s = done (if t.readQ c then t.readS x else t.readS y))) ∧
     (t.guardQ g = false →
       ∀ i ∈ [Instr.sadd64 b g d x y, .ssub64 b g d x y, .smul64 b g d x y, .smulh64 b g d x y, .smulhu64 b g d x y,
           .sand64 b g d x y, .sor64 b g d x y, .sxor64 b g d x y, .sandn64 b g d x y, .sshl64 b g d x y, .sshr64 b g d x y,
           .ssar64 b g d x y, .smin64 b g d x y, .smax64 b g d x y, .sminu64 b g d x y, .smaxu64 b g d x y, .sbfx64 b g d x y],
         exec i s = .next (s.completed t t 2 b))) ∧
  ((∀ (s : State) (t : Team) (b : Bool) (d x : Spec), s.uniformReady t [RegUse.dest 0 .s d, RegUse.src 1 .s x] →
     let a := t.readS x
     let done (w : Nat) (x : Word) : Out := .next (s.completed t (t.writeS d x) w b)
     exec (.smov32 b d x) s = done 1 a ∧
     exec (.snot32 b d x) s = done 1 (~~~a) ∧
     exec (.spopc32 b d x) s = done 1 a.cpop ∧
     exec (.sclz32 b d x) s = done 1 a.clz ∧
     (∀ g, t.guardQ g = true →
       exec (.smov64 b g d (.s x)) s = done 2 a ∧
       exec (.snot64 b g d x) s = done 2 (~~~a) ∧
       exec (.spopc64 b g d x) s = done 2 a.cpop ∧
       exec (.sclz64 b g d x) s = done 2 a.clz)) ∧
   (∀ (s : State) (t : Team) (b : Bool) (g : Guard) (d : Spec) (n : Byte), s.uniformReady t [RegUse.dest 0 .s d] →
     t.guardQ g = true → exec (.smov64 b g d (.imm n)) s = .next (s.completed t (t.writeS d (n.signExtend 32)) 2 b)) ∧
   (∀ (s : State) (t : Team) (b : Bool) (g : Guard) (d x y z : Spec),
     s.uniformReady t [RegUse.dest 0 .s d, RegUse.src 1 .s x, RegUse.src 2 .s y, RegUse.src 3 .s z] → t.guardQ g = true →
     exec (.sbfi b g d x y z) s
       = .next (s.completed t (t.writeS d (insertW (t.readS x) (t.readS y) (t.readS z))) 2 b))) ∧
  (∀ (s : State) (t : Team) (b : Bool) (d x y : BitVec 3), s.uniformReady t [] →
     let done (w : Nat) (v : Bool) : Out := .next (s.completed t (t.writeQ d v) w b)
     let p := t.readQ x
     let q := t.readQ y
     (exec (.qand32 b d y) s = done 1 (t.readQ d && q) ∧
       exec (.qor32 b d y) s = done 1 (t.readQ d || q) ∧
       exec (.qxor32 b d y) s = done 1 (t.readQ d ^^ q) ∧
       exec (.qnot32 b d x) s = done 1 (!p)) ∧
     (∀ g, t.guardQ g = true →
       exec (.qand64 b g d x y) s = done 2 (p && q) ∧
       exec (.qor64 b g d x y) s = done 2 (p || q) ∧
       exec (.qxor64 b g d x y) s = done 2 (p ^^ q) ∧
       exec (.qnot64 b g d x) s = done 2 (!p)) ∧
     (∀ (g : Guard) (m n : Spec), t.guardQ g = true → s.uniformReady t [RegUse.src 1 .s m, RegUse.src 2 .s n] →
       let u := t.readS m
       let v := t.readS n
       exec (.scmp b g 0 d m n) s = done 2 (u == v) ∧ exec (.scmp b g 1 d m n) s = done 2 (u != v) ∧
       exec (.scmp b g 2 d m n) s = done 2 (u.slt v) ∧ exec (.scmp b g 3 d m n) s = done 2 (u.sle v) ∧
       exec (.scmp b g 4 d m n) s = done 2 (v.slt u) ∧ exec (.scmp b g 5 d m n) s = done 2 (v.sle u) ∧
       exec (.scmp b g 6 d m n) s = done 2 (u.ult v) ∧ exec (.scmp b g 7 d m n) s = done 2 (u.ule v)) ∧
     (∀ v, t.writeQ 7 v = t) ∧ t.readQ 7 = true ∧ (∀ v, d ≠ 7 → (t.writeQ d v).readQ d = v))

/-- R278, R279: the affine instructions; they need no full active mask (R272), and a guard that is false leaves no effect. R279:
the per-lane value of each affine result is the same operation applied to the per-lane values of the sources. -/
def Obligations.AffineInstructionResults : Prop :=
  ((∀ (s : State) (t : Team) (b : Bool) (d y : Spec), s.controlReady t [RegUse.dest 0 .a d, RegUse.src 1 .a y] →
     let done (w : Nat) (p : Word × Word) : Out := .next (s.completed t (t.writeA d p) w b)
     let a := t.readA d
     let c := t.readA y
     exec (.amov32 b d y) s = done 1 c ∧
     exec (.aadd32 b d y) s = done 1 (a.1 + c.1, a.2 + c.2) ∧
     exec (.asub32 b d y) s = done 1 (a.1 - c.1, a.2 - c.2) ∧
     (∀ g, t.guardQ g = true → exec (.amov64 b g d y) s = done 2 c) ∧
     (∀ g, t.guardQ g = false → exec (.amov64 b g d y) s = .next (s.completed t t 2 b))) ∧
   (∀ (s : State) (t : Team) (b : Bool) (d : Spec), s.controlReady t [RegUse.dest 0 .a d] →
     exec (.amovLane b d) s = .next (s.completed t (t.writeA d (0, 1)) 1 b) ∧
     (∀ (g : Guard) (n : Byte), t.guardQ g = true →
       exec (.amovImm b g d n) s = .next (s.completed t (t.writeA d (n.signExtend 32, 0)) 2 b))) ∧
   (∀ (s : State) (t : Team) (b : Bool) (g : Guard) (d x : Spec), t.guardQ g = true →
     s.controlReady t [RegUse.dest 0 .a d, ⟨1, .s, x, false, 2, 2⟩] →
     exec (.amovS b g d x) s = .next (s.completed t (t.writeA d (t.readSGroup x 0, t.readSGroup x 1)) 2 b)) ∧
   (∀ (s : State) (t : Team) (b : Bool) (g : Guard) (d x y : Spec), t.guardQ g = true →
     let done (p : Word × Word) : Out := .next (s.completed t (t.writeA d p) 2 b)
     let a := t.readA x
     (s.controlReady t [RegUse.dest 0 .a d, RegUse.src 1 .a x, RegUse.src 2 .a y] →
       exec (.aadd64 b g d (.a x) (.a y)) s = done (a.1 + (t.readA y).1, a.2 + (t.readA y).2) ∧
       exec (.asub64 b g d (.a x) (.a y)) s = done (a.1 - (t.readA y).1, a.2 - (t.readA y).2)) ∧
     (s.controlReady t [RegUse.dest 0 .a d, RegUse.src 1 .a x, RegUse.src 2 .s y] →
       exec (.aadd64 b g d (.a x) (.s y)) s = done (a.1 + t.readS y, a.2) ∧
       exec (.asub64 b g d (.a x) (.s y)) s = done (a.1 - t.readS y, a.2) ∧
       exec (.amul b g d x y) s = done (a.1 * t.readS y, a.2 * t.readS y) ∧
       exec (.ashl b g d x y) s = done (shl a.1 (t.readS y), shl a.2 (t.readS y))) ∧
     (s.controlReady t [RegUse.dest 0 .a d, RegUse.src 1 .s x, RegUse.src 2 .s y] →
       exec (.proma b g d x y) s = done (t.readS x, t.readS y))) ∧
   (∀ (s : State) (t : Team) (b : Bool) (g : Guard) (d x y : Spec) (n : Byte), t.guardQ g = false →
     ∀ p ∈ [(Instr.amovImm b g d n, [RegUse.dest 0 .a d]), (.amovS b g d x, [RegUse.dest 0 .a d, ⟨1, .s, x, false, 2, 2⟩]),
         (.aadd64 b g d (.a x) (.a y), [RegUse.dest 0 .a d, RegUse.src 1 .a x, RegUse.src 2 .a y]),
         (.asub64 b g d (.a x) (.a y), [RegUse.dest 0 .a d, RegUse.src 1 .a x, RegUse.src 2 .a y]),
         (.aadd64 b g d (.a x) (.s y), [RegUse.dest 0 .a d, RegUse.src 1 .a x, RegUse.src 2 .s y]),
         (.asub64 b g d (.a x) (.s y), [RegUse.dest 0 .a d, RegUse.src 1 .a x, RegUse.src 2 .s y]),
         (.amul b g d x y, [RegUse.dest 0 .a d, RegUse.src 1 .a x, RegUse.src 2 .s y]),
         (.ashl b g d x y, [RegUse.dest 0 .a d, RegUse.src 1 .a x, RegUse.src 2 .s y]),
         (.proma b g d x y, [RegUse.dest 0 .a d, RegUse.src 1 .s x, RegUse.src 2 .s y])],
       s.controlReady t p.2 → exec p.1 s = .next (s.completed t t 2 b))) ∧
  (∀ (p q : Word × Word) (c : Word) (l : Nat),
     affineAt (p.1 + q.1, p.2 + q.2) l = affineAt p l + affineAt q l ∧
     affineAt (p.1 - q.1, p.2 - q.2) l = affineAt p l - affineAt q l ∧
     affineAt (p.1 + c, p.2) l = affineAt p l + c ∧
     affineAt (p.1 - c, p.2) l = affineAt p l - c ∧
     affineAt (p.1 * c, p.2 * c) l = affineAt p l * c ∧
     affineAt (shl p.1 c, shl p.2 c) l = shl (affineAt p l) c ∧
     affineAt (0, 1) l = BitVec.ofNat 32 l ∧
     affineAt (c, 0) l = c)

/-- R280: the promotions into the varying class write the lanes of the execution mask; an empty one leaves no effect (R112).
R281: the demotions. `l` is the lowest or the highest lane of the selection; an empty selection raises PROMOTE_EMPTY, and RDLANE
never faults for its lane. -/
def Obligations.MovesBetweenClasses : Prop :=
  (∀ (s : State) (t : Team) (b : Bool) (g : Guard) (d y : Spec) (p q : BitVec 3),
     let m := t.execMask g
     (s.varyingReady t g [RegUse.dest 0 .v d, RegUse.src 2 .a y] →
       exec (.promv b g d y) s
         = .next (s.completed t (t.writeV m d ((List.range t.lanes).map (affineAt (t.readA y)))) 2 b)) ∧
     (s.varyingReady t g [RegUse.dest 0 .v d, RegUse.src 2 .s y] →
       exec (.promb b g d y) s = .next (s.completed t (t.writeV m d (List.replicate t.lanes (t.readS y))) 2 b)) ∧
     (s.varyingReady t g [] →
       exec (.promp b g p q) s
         = .next (s.completed t (t.writeP m p (if t.readQ q then BitVec.allOnes 1024 else 0)) 2 b)) ∧
     (s.varyingIdle t g [RegUse.dest 0 .v d, RegUse.src 2 .a y] → exec (.promv b g d y) s = .next (s.completed t t 2 b)) ∧
     (s.varyingIdle t g [RegUse.dest 0 .v d, RegUse.src 2 .s y] → exec (.promb b g d y) s = .next (s.completed t t 2 b)) ∧
     (s.varyingIdle t g [] → exec (.promp b g p q) s = .next (s.completed t t 2 b))) ∧
  (∀ (s : State) (t : Team) (b : Bool) (g : Guard) (d x y : Spec),
     let m := t.execMask g
     let done (v : Word) : Out := .next (s.completed t (t.writeS d v) 2 b)
     (s.uniformReady t [RegUse.dest 0 .s d, RegUse.src 1 .v x] → ∀ l, l < t.lanes → m.getLsbD l = true →
       ((∀ k, k < l → m.getLsbD k = false) → exec (.rdfirst b g d x) s = done (laneWord (t.readV x) l)) ∧
       ((∀ k, l < k → k < t.lanes → m.getLsbD k = false) → exec (.rdlast b g d x) s = done (laneWord (t.readV x) l))) ∧
     (s.uniformReady t [RegUse.dest 0 .s d, RegUse.src 1 .v x] → (∀ l, l < t.lanes → m.getLsbD l = false) →
       exec (.rdfirst b g d x) s
         = .next (s.takeTrap t (Cause.simple 0x12 (infoW (encRdfirst b g d x).word0 0 18)) false t.pc t.pc none) ∧
       exec (.rdlast b g d x) s
         = .next (s.takeTrap t (Cause.simple 0x12 (infoW (encRdlast b g d x).word0 0 18)) false t.pc t.pc none)) ∧
     (s.uniformReady t [RegUse.dest 0 .s d, RegUse.src 1 .v x, RegUse.src 2 .s y] →
       let n := (t.readS y).toNat % 1024
       exec (.rdlane b g d x y) s = done (if n < t.lanes ∧ m.getLsbD n = true then laneWord (t.readV x) n else 0)))

/-- R282, R283: CAPNAR and CAPRST narrow a capability that holds D, and raise CAP_WIDEN with the source register in INFO where
they would widen it or D is missing; Cd is then not written. R284: CAPQRY reads the base offset, the length or the rights of a
capability and needs no right. -/
def Obligations.CapabilityResults : Prop :=
  (∀ (s : State) (t : Team) (b : Bool) (g : Guard) (d x y z : Spec), t.guardQ g = true →
     let c := t.readC x
     let widen : Out := .next (s.takeTrap t (Cause.simple 0x27 x.toNat) false t.pc t.pc none)
     (s.uniformReady t [RegUse.dest 0 .c d, RegUse.src 1 .c x, ⟨2, .s, y, false, 2, 2⟩, ⟨3, .s, z, false, 2, 2⟩] →
       let delta := t.readS64 y
       let len := t.readS64 z
       (c.getLsbD 27 = true → delta + len ≤ Cap.length c → Cap.base c + delta < 2 ^ 48 →
         exec (.capnar b g d x y z) s
           = .next (s.completed t (t.writeC d (Cap.make (Cap.handle c) (Cap.rights c) (Cap.base c + delta) len)) 2 b)) ∧
       (c.getLsbD 27 = false ∨ Cap.length c < delta + len ∨ 2 ^ 48 ≤ Cap.base c + delta →
         exec (.capnar b g d x y z) s = widen)) ∧
     (s.uniformReady t [RegUse.dest 0 .c d, RegUse.src 1 .c x, RegUse.src 2 .s y] →
       (c.getLsbD 27 = true →
         exec (.caprst b g d x y) s
           = .next (s.completed t (t.writeC d (Cap.make (Cap.handle c)
               (Cap.rights c &&& ((t.readS y).extractLsb' 20 8).toNat) (Cap.base c) (Cap.length c))) 2 b)) ∧
       (c.getLsbD 27 = false → exec (.caprst b g d x y) s = widen))) ∧
  (∀ (s : State) (t : Team) (b : Bool) (g : Guard) (d x : Spec), t.guardQ g = true →
     let c := t.readC x
     (s.uniformReady t [⟨0, .s, d, true, 2, 2⟩, RegUse.src 1 .c x] →
       exec (.capqryBase b g d x) s = .next (s.completed t (t.writeS64 d (c.extractLsb' 32 48).toNat) 2 b) ∧
       exec (.capqryLen b g d x) s = .next (s.completed t (t.writeS64 d (c.extractLsb' 80 48).toNat) 2 b)) ∧
     (s.uniformReady t [RegUse.dest 0 .s d, RegUse.src 1 .c x] →
       exec (.capqryRights b g d x) s = .next (s.completed t (t.writeS d ((c.extractLsb' 20 8).setWidth 32)) 2 b)))

/-- R285, R236: the two-address varying integer instructions, lane by lane over the active mask; a write to VZ is discarded by
`writeV`, and Y0 and Y1 advance there (R98). R285, R271, R275: the 64-bit varying integer instructions of two operands of any
admitted class. IMM8 is sign-extended, and zero-extended for the shifts and bit fields. -/
def Obligations.VaryingIntegerResults : Prop :=
  (∀ (s : State) (t : Team) (b : Bool) (d y : Spec),
     let us := [RegUse.dest 0 .v d, RegUse.src 1 .v y, RegUse.src 0 .v d]
     let done (op : Word → Word → Word) : Out :=
       .next (s.completed t (t.writeV t.active d (List.zipWith op (t.readV d) (t.readV y))) 1 b)
     (s.varyingReady t .always us →
       exec (.iadd32 b d y) s = done (· + ·) ∧
       exec (.isub32 b d y) s = done (· - ·) ∧
       exec (.imul32 b d y) s = done (fun a c => BitVec.ofNat 32 (a.toNat * c.toNat)) ∧
       exec (.imulh32 b d y) s = done (fun a c => (a.signExtend 64 * c.signExtend 64).extractLsb' 32 32) ∧
       exec (.imulhu32 b d y) s = done (fun a c => (a.setWidth 64 * c.setWidth 64).extractLsb' 32 32) ∧
       exec (.imin32 b d y) s = done (fun a c => if c.toInt < a.toInt then c else a) ∧
       exec (.imax32 b d y) s = done (fun a c => if a.toInt < c.toInt then c else a) ∧
       exec (.iminu32 b d y) s = done (fun a c => if c.toNat < a.toNat then c else a) ∧
       exec (.imaxu32 b d y) s = done (fun a c => if a.toNat < c.toNat then c else a) ∧
       exec (.iand32 b d y) s = done (· &&& ·) ∧
       exec (.ior32 b d y) s = done (· ||| ·) ∧
       exec (.ixor32 b d y) s = done (· ^^^ ·) ∧
       exec (.iandn32 b d y) s = done (fun a c => a &&& ~~~c) ∧
       exec (.ishl32 b d y) s = done (fun a c => if 32 ≤ c.toNat then 0 else BitVec.ofNat 32 (a.toNat * 2 ^ c.toNat)) ∧
       exec (.ishr32 b d y) s = done (fun a c => if 32 ≤ c.toNat then 0 else BitVec.ofNat 32 (a.toNat / 2 ^ c.toNat)) ∧
       exec (.isar32 b d y) s = done (fun a c => BitVec.ofInt 32 (a.toInt / ((2 ^ min c.toNat 31 : Nat) : Int))) ∧
       exec (.irot32 b d y) s = done (fun a c => a.rotateLeft (c.toNat % 32)) ∧
       exec (.ibfx32 b d y) s = done extractS ∧
       exec (.ibfxu32 b d y) s = done extractU) ∧
     (s.varyingIdle t .always us →
       ∀ i ∈ [Instr.iadd32 b d y, .isub32 b d y, .imul32 b d y, .imulh32 b d y, .imulhu32 b d y, .imin32 b d y, .imax32 b d y,
           .iminu32 b d y, .imaxu32 b d y, .iand32 b d y, .ior32 b d y, .ixor32 b d y, .iandn32 b d y, .ishl32 b d y,
           .ishr32 b d y, .isar32 b d y, .irot32 b d y, .ibfx32 b d y, .ibfxu32 b d y],
         exec i s = .next (s.completed t t 1 b))) ∧
  (∀ (s : State) (t : Team) (b : Bool) (g : Guard) (d : Spec) (x y : Opd),
     let us := RegUse.dest 0 .v d :: (opdUse 1 x ++ opdUse 2 y)
     let done (imm : Byte → Word) (op : Word → Word → Word) : Out :=
       .next (s.completed t (t.writeV (t.execMask g) d (List.zipWith op (t.readOpd imm x) (t.readOpd imm y))) 2 b)
     let sx (n : Byte) : Word := n.signExtend 32
     let zx (n : Byte) : Word := n.setWidth 32
     (s.varyingReady t g us →
       exec (.imulh64 b g d x y) s = done sx (fun a c => (a.signExtend 64 * c.signExtend 64).extractLsb' 32 32) ∧
       exec (.imulhu64 b g d x y) s = done sx (fun a c => (a.setWidth 64 * c.setWidth 64).extractLsb' 32 32) ∧
       exec (.imin64 b g d x y) s = done sx (fun a c => if c.toInt < a.toInt then c else a) ∧
       exec (.imax64 b g d x y) s = done sx (fun a c => if a.toInt < c.toInt then c else a) ∧
       exec (.iminu64 b g d x y) s = done sx (fun a c => if c.toNat < a.toNat then c else a) ∧
       exec (.imaxu64 b g d x y) s = done sx (fun a c => if a.toNat < c.toNat then c else a) ∧
       exec (.iand64 b g d x y) s = done sx (· &&& ·) ∧
       exec (.ior64 b g d x y) s = done sx (· ||| ·) ∧
       exec (.ixor64 b g d x y) s = done sx (· ^^^ ·) ∧
       exec (.iandn64 b g d x y) s = done sx (fun a c => a &&& ~~~c) ∧
       exec (.ishl64 b g d x y) s
         = done zx (fun a c => if 32 ≤ c.toNat then 0 else BitVec.ofNat 32 (a.toNat * 2 ^ c.toNat)) ∧
       exec (.ishr64 b g d x y) s
         = done zx (fun a c => if 32 ≤ c.toNat then 0 else BitVec.ofNat 32 (a.toNat / 2 ^ c.toNat)) ∧
       exec (.isar64 b g d x y) s
         = done zx (fun a c => BitVec.ofInt 32 (a.toInt / ((2 ^ min c.toNat 31 : Nat) : Int))) ∧
       exec (.irot64 b g d x y) s = done zx (fun a c => a.rotateLeft (c.toNat % 32)) ∧
       exec (.ibfx64 b g d x y) s = done zx extractS ∧
       exec (.ibfxu64 b g d x y) s = done zx extractU) ∧
     (s.varyingIdle t g us →
       ∀ i ∈ [Instr.imulh64 b g d x y, .imulhu64 b g d x y, .imin64 b g d x y, .imax64 b g d x y, .iminu64 b g d x y,
           .imaxu64 b g d x y, .iand64 b g d x y, .ior64 b g d x y, .ixor64 b g d x y, .iandn64 b g d x y, .ishl64 b g d x y,
           .ishr64 b g d x y, .isar64 b g d x y, .irot64 b g d x y, .ibfx64 b g d x y, .ibfxu64 b g d x y],
         exec i s = .next (s.completed t t 2 b)))

/-- R275: the bit-field helpers, bit by bit: the field is `n` bits from `pos`, cut at bit 31. R286: IADD, ISUB, IMUL, IMAD, IABS
and INEG under MOD 00, 01 and 10: the result wraps, or the exact signed result is clamped to −2^31 … 2^31 − 1, or the exact
unsigned one to 0 … 2^32 − 1. That IMAD under .SATU takes its third operand unsigned too is the model's reading (log entry 17).
R286: .TRAPV writes every lane with the wrapped result; where the exact signed result of a lane of the mask leaves the range,
INT_OVERFLOW_TRAP is then taken, with LANE the lowest such lane. `e` is the exact value per lane. -/
def Obligations.VaryingRangeResults : Prop :=
  (∀ (x y c : Word) (i : Nat), i < 32 →
     let pos := (c.extractLsb' 0 8).toNat
     let len := (c.extractLsb' 8 8).toNat
     let n := if 32 ≤ pos then 0 else min len (32 - pos)
     (extractU x c).getLsbD i = (decide (i < n) && x.getLsbD (pos + i)) ∧
     (extractS x c).getLsbD i = (decide (0 < n) && x.getLsbD (pos + min i (n - 1))) ∧
     (insertW x y c).getLsbD i = (if pos ≤ i ∧ i < pos + n then y.getLsbD (i - pos) else x.getLsbD i)) ∧
  (∀ (s : State) (t : Team) (b : Bool) (g : Guard) (d : Spec) (x y : Opd) (z w : Spec) (k : BitVec 2), k ≠ 3 →
     let sat (e : Int) : Word := BitVec.ofInt 32 (if e < -2147483648 then -2147483648 else if 2147483647 < e then 2147483647 else e)
     let satu (e : Int) : Word := BitVec.ofInt 32 (if e < 0 then 0 else if 4294967295 < e then 4294967295 else e)
     let pick (e u : Int) : Word := if k = 0 then BitVec.ofInt 32 e else if k = 1 then sat e else satu u
     let done (row : List Word) : Out := .next (s.completed t (t.writeV (t.execMask g) d row) 2 b)
     let X := t.readOpd immSext x
     let Y := t.readOpd immSext y
     let row2 (op : Int → Int → Int) : List Word :=
       List.zipWith (fun a c => pick (op a.toInt c.toInt) (op a.toNat c.toNat)) X Y
     (s.varyingReady t g (RegUse.dest 0 .v d :: (opdUse 1 x ++ opdUse 2 y)) →
       exec (.iadd64 b g d x y k) s = done (row2 (· + ·)) ∧
       exec (.isub64 b g d x y k) s = done (row2 (· - ·)) ∧
       exec (.imul64 b g d x y k) s = done (row2 (· * ·))) ∧
     (s.varyingReady t g (RegUse.dest 0 .v d :: (opdUse 1 x ++ opdUse 2 y ++ [RegUse.src 3 .v z])) →
       exec (.imad b g d x y z k) s = done (zip3 (fun a c e => pick (a.toInt * c.toInt + e.toInt) (a.toNat * c.toNat + e.toNat)) X Y
         (t.readV z))) ∧
     (s.varyingReady t g [RegUse.dest 0 .v d, RegUse.src 1 .v w] → k ≠ 2 →
       exec (.iabs64 b g d w k) s = done ((t.readV w).map fun a => pick a.toInt.natAbs 0) ∧
       exec (.ineg64 b g d w k) s = done ((t.readV w).map fun a => pick (-a.toInt) 0))) ∧
  (∀ (s : State) (t : Team) (b : Bool) (g : Guard) (d : Spec) (x y : Opd) (z w : Spec),
     let m := t.execMask g
     let X := t.readOpd immSext x
     let Y := t.readOpd immSext y
     let result (i : Instr) (e : List Int) : Prop :=
       let t1 := t.writeV m d (e.map (BitVec.ofInt 32))
       let bad (l : Nat) : Prop := m.getLsbD l = true ∧ ∃ v, e[l]? = some v ∧ (v < -2147483648 ∨ 2147483647 < v)
       ((∀ l, ¬ bad l) → exec i s = .next (s.completed t t1 2 b)) ∧
       (∀ l, bad l → (∀ k, k < l → ¬ bad k) →
         exec i s = .next ((s.setTeam t1).takeTrap (t.next t1 2 b)
           { code := 0x5D, info := 0, lane := l, handle := 0, next := false } false t.pc (t.pc + 8) (some m)))
     (s.varyingReady t g (RegUse.dest 0 .v d :: (opdUse 1 x ++ opdUse 2 y)) →
       result (.iadd64 b g d x y 3) (List.zipWith (fun a c => a.toInt + c.toInt) X Y) ∧
       result (.isub64 b g d x y 3) (List.zipWith (fun a c => a.toInt - c.toInt) X Y) ∧
       result (.imul64 b g d x y 3) (List.zipWith (fun a c => a.toInt * c.toInt) X Y)) ∧
     (s.varyingReady t g (RegUse.dest 0 .v d :: (opdUse 1 x ++ opdUse 2 y ++ [RegUse.src 3 .v z])) →
       result (.imad b g d x y z 3)
         (List.zipWith (fun p e => p + e.toInt) (List.zipWith (fun a c => a.toInt * c.toInt) X Y) (t.readV z))) ∧
     (s.varyingReady t g [RegUse.dest 0 .v d, RegUse.src 1 .v w] →
       result (.iabs64 b g d w 3) ((t.readV w).map fun a => (a.toInt.natAbs : Int)) ∧
       result (.ineg64 b g d w 3) ((t.readV w).map fun a => -a.toInt)))

/-- R285, R288, R289: the unary varying instructions, the 64-bit ones and IMOV with their operand classes (R259), IBFI, IDP4,
IPRMT, ISAD and ISEL. R287, R288: IADDC and ISUBB chain a carry or borrow through predicates, Pi read before Po is written; ISETP
compares lane by lane. -/
def Obligations.VaryingOtherIntegerResults : Prop :=
  (∀ (s : State) (t : Team) (b : Bool) (g : Guard) (d w : Spec) (x y : Opd) (z : Spec) (k : BitVec 2) (u : Bool) (c : BitVec 3),
     let done (n : Nat) (m : LaneMask) (row : List Word) : Out := .next (s.completed t (t.writeV m d row) n b)
     let m := t.execMask g
     let W := t.readV w
     let X := t.readOpd immSext x
     let Y := t.readOpd immSext y
     (s.varyingReady t .always [RegUse.dest 0 .v d, RegUse.src 1 .v w] →
       exec (.inot32 b d w) s = done 1 t.active (W.map (~~~ ·)) ∧
       exec (.ipopc32 b d w) s = done 1 t.active (W.map BitVec.cpop) ∧
       exec (.iclz32 b d w) s = done 1 t.active (W.map BitVec.clz) ∧
       exec (.ibrev32 b d w) s = done 1 t.active (W.map BitVec.reverse) ∧
       exec (.imov32 b d w) s = done 1 t.active W ∧
       exec (.iabs32 b d w) s = done 1 t.active (W.map fun a => BitVec.ofNat 32 a.toInt.natAbs) ∧
       exec (.ineg32 b d w) s = done 1 t.active (W.map (- ·))) ∧
     (s.varyingReady t g (RegUse.dest 0 .v d :: opdUse 1 x) →
       exec (.inot64 b g d x) s = done 2 m (X.map (~~~ ·)) ∧
       exec (.ipopc64 b g d x) s = done 2 m (X.map BitVec.cpop) ∧
       exec (.iclz64 b g d x) s = done 2 m (X.map BitVec.clz) ∧
       exec (.ibrev64 b g d x) s = done 2 m (X.map BitVec.reverse) ∧
       exec (.imov64 b g d x) s = done 2 m X) ∧
     (s.varyingReady t g (RegUse.dest 0 .v d :: (opdUse 1 x ++ opdUse 2 y ++ [RegUse.src 3 .v z])) →
       exec (.ibfi b g d x y z) s = done 2 m (zip3 insertW X Y (t.readV z)) ∧
       exec (.idp4 b g d x y z k) s = done 2 m (zip3 (idp4 k) X Y (t.readV z)) ∧
       exec (.iprmt b g d x y z) s = done 2 m (zip3 iprmt X Y (t.readV z)) ∧
       exec (.isad b g d x y z u) s
         = done 2 m (zip3 (fun a c e => BitVec.ofNat 32 (if u then (a.toNat : Int) - c.toNat else a.toInt - c.toInt).natAbs + e) X Y
             (t.readV z))) ∧
     (s.varyingReady t g (RegUse.dest 0 .v d :: (opdUse 1 x ++ opdUse 2 y)) →
       exec (.isel b g d x y c) s = done 2 m (mergeRow (t.readP c) 0 Y X))) ∧
  (∀ (s : State) (t : Team) (b : Bool) (g : Guard) (d : Spec) (x y : Opd) (pi po : BitVec 3),
     let m := t.execMask g
     let rows := List.zipWith Prod.mk (t.readOpd immSext x) (t.readOpd immSext y)
     let carry (l : Nat) : Nat := if (t.readP pi).getLsbD l then 1 else 0
     let put (v : Nat → Word × Word → Word) (c : Nat → Word × Word → Bool) : Out :=
       .next (s.completed t ((t.writeP m po (mkMask (mapAt c 0 rows))).writeV m d (mapAt v 0 rows)) 3 b)
     (s.varyingReady t g (RegUse.dest 0 .v d :: (opdUse 1 x ++ opdUse 2 y)) →
       exec (.iaddc b g d x y pi po) s
         = put (fun l p => p.1 + p.2 + BitVec.ofNat 32 (carry l)) (fun l p => decide (2 ^ 32 ≤ p.1.toNat + p.2.toNat + carry l)) ∧
       exec (.isubb b g d x y pi po) s
         = put (fun l p => p.1 - p.2 - BitVec.ofNat 32 (carry l)) (fun l p => decide (p.1.toNat < p.2.toNat + carry l))) ∧
     (s.varyingReady t g (opdUse 1 x ++ opdUse 2 y) →
       let cmp (cc : BitVec 3) (r : Word → Word → Bool) : Prop :=
         exec (.isetp b g cc po x y) s
           = .next (s.completed t (t.writeP m po (mkMask (List.zipWith r (t.readOpd immSext x) (t.readOpd immSext y)))) 2 b)
       cmp 0 (fun a c => a == c) ∧ cmp 1 (fun a c => a != c) ∧ cmp 2 (fun a c => a.slt c) ∧ cmp 3 (fun a c => a.sle c) ∧
       cmp 4 (fun a c => c.slt a) ∧ cmp 5 (fun a c => c.sle a) ∧ cmp 6 (fun a c => a.ult c) ∧ cmp 7 (fun a c => a.ule c)))

/-- R299: the predicate instructions write Pd in the lanes of the execution mask; P7 reads true and discards a write (R98). R300:
votes over the selection, which is the active mask under the guard. -/
def Obligations.PredicateAndVoteResults : Prop :=
  (∀ (s : State) (t : Team) (b : Bool) (g : Guard) (d x y : BitVec 3) (v : Spec),
     let done (n : Nat) (m p : LaneMask) : Out := .next (s.completed t (t.writeP m d p) n b)
     let m := t.execMask g
     let p := t.readP x
     let q := t.readP y
     (s.varyingReady t .always [] →
       exec (.pand32 b d y) s = done 1 t.active (t.readP d &&& q) ∧
       exec (.por32 b d y) s = done 1 t.active (t.readP d ||| q) ∧
       exec (.pxor32 b d y) s = done 1 t.active (t.readP d ^^^ q) ∧
       exec (.pandn32 b d y) s = done 1 t.active (t.readP d &&& ~~~q) ∧
       exec (.pnot32 b d x) s = done 1 t.active (~~~p) ∧
       exec (.pmov32 b d x) s = done 1 t.active p ∧
       exec (.pmovHelp32 b d) s = done 1 t.active t.helper) ∧
     (s.varyingReady t g [] →
       exec (.pand64 b g d x y) s = done 2 m (p &&& q) ∧
       exec (.por64 b g d x y) s = done 2 m (p ||| q) ∧
       exec (.pxor64 b g d x y) s = done 2 m (p ^^^ q) ∧
       exec (.pandn64 b g d x y) s = done 2 m (p &&& ~~~q) ∧
       exec (.pnot64 b g d x) s = done 2 m (~~~p) ∧
       exec (.pmov64 b g d x) s = done 2 m p ∧
       exec (.pmovQ b g d x) s = done 2 m (if t.readQ x then BitVec.allOnes 1024 else 0) ∧
       exec (.pmovHelp64 b g d) s = done 2 m t.helper) ∧
     (s.varyingReady t g [RegUse.src 1 .v v] → ∀ n : Byte,
       exec (.pmovBit b g d (.v v) (.imm n)) s
         = done 2 m (mkMask (List.zipWith (fun (a c : Word) => a.getLsbD (c.toNat % 32)) (t.readV v)
             (List.replicate t.lanes (n.setWidth 32))))) ∧
     (∀ w : Spec, s.varyingReady t g [RegUse.src 1 .v v, RegUse.src 2 .s w] →
       exec (.pmovBit b g d (.v v) (.s w)) s
         = done 2 m (mkMask (List.zipWith (fun (a c : Word) => a.getLsbD (c.toNat % 32)) (t.readV v)
             (List.replicate t.lanes (t.readS w))))) ∧
     (s.varyingIdle t g [] →
       ∀ i ∈ [Instr.pand64 b g d x y, .por64 b g d x y, .pxor64 b g d x y, .pandn64 b g d x y, .pnot64 b g d x, .pmov64 b g d x,
           .pmovQ b g d x, .pmovHelp64 b g d],
         exec i s = .next (s.completed t t 2 b)) ∧
     (∀ (w k : LaneMask) (l : Nat), d ≠ 7 → d.toNat < t.preg.length →
       ((t.writeP k d w).readP d).getLsbD l = (if k.getLsbD l then w.getLsbD l else (t.readP d).getLsbD l)) ∧
     (∀ w k : LaneMask, t.writeP k 7 w = t) ∧ (∀ l, l < 1024 → (t.readP 7).getLsbD l = true)) ∧
  (∀ (s : State) (t : Team) (b : Bool) (g : Guard) (d x : BitVec 3) (r y : Spec),
     let m := t.execMask g
     let p := t.readP x
     (s.uniformReady t [] →
       (∀ v, (v = true ↔ ∀ l, m.getLsbD l = true → p.getLsbD l = true) →
         exec (.voteAll b g d x) s = .next (s.completed t (t.writeQ d v) 2 b)) ∧
       (∀ v, (v = true ↔ ∃ l, m.getLsbD l = true ∧ p.getLsbD l = true) →
         exec (.voteAny b g d x) s = .next (s.completed t (t.writeQ d v) 2 b))) ∧
     (s.uniformReady t [RegUse.dest 0 .s r, RegUse.src 2 .s y] →
       let i := (t.readS y).toNat % 32
       exec (.voteBal b g r x y) s
         = .next (s.completed t (t.writeS r (if t.lanes / 32 ≤ i then 0 else (m &&& p).extractLsb' (32 * i) 32)) 2 b)) ∧
     (s.uniformReady t [RegUse.dest 0 .s r] →
       exec (.voteCnt b g r x) s
         = .next (s.completed t (t.writeS r (BitVec.ofNat 32
             ((List.range t.lanes).countP fun l => m.getLsbD l && p.getLsbD l))) 2 b)))

/-- R301: shuffles. A lane whose source lane lies outside the team or the execution mask keeps its own value. R302, R304: SCAN
gives each lane of the execution mask a prefix of it, by the spec's own tree. For .FADD the values are the model's tree of FP32
additions, which also raises their exceptions; no trap is enabled. -/
def Obligations.ShuffleAndScanResults : Prop :=
  (∀ (s : State) (t : Team) (b : Bool) (g : Guard) (d x : Spec) (y : Opd),
     let m := t.execMask g
     let row := t.readV x
     let by' (l : Nat) : Nat := (laneWord (t.readOpd (fun n => n.setWidth 32) y) l).toNat % 1024
     let done (src : Nat → Option Nat) : Out :=
       .next (s.completed t (t.writeV m d (mapAt (fun l own =>
         match src l with
         | some k => if k < t.lanes ∧ m.getLsbD k = true then laneWord row k else own
         | none => own) 0 row)) 2 b)
     (s.varyingReady t g (RegUse.dest 0 .v d :: (RegUse.src 1 .v x :: opdUse 2 y)) →
       exec (.shflIdx b g d (.v x) y) s = done (fun l => some (by' l)) ∧
       exec (.shflUp b g d (.v x) y) s = done (fun l => if by' l ≤ l then some (l - by' l) else none) ∧
       exec (.shflDn b g d (.v x) y) s = done (fun l => some (l + by' l)) ∧
       exec (.shflXor b g d (.v x) y) s = done (fun l => some (l ^^^ by' l))) ∧
     (s.varyingReady t g [RegUse.dest 0 .v d, RegUse.src 1 .v x] →
       exec (.shflQx b g d x) s = done (fun l => some (l ^^^ 1)) ∧
       exec (.shflQy b g d x) s = done (fun l => some (l ^^^ 2))) ∧
     (s.varyingIdle t g (RegUse.dest 0 .v d :: (RegUse.src 1 .v x :: opdUse 2 y)) →
       ∀ i ∈ [Instr.shflIdx b g d (.v x) y, .shflUp b g d (.v x) y, .shflDn b g d (.v x) y, .shflXor b g d (.v x) y],
         exec i s = .next (s.completed t t 2 b))) ∧
  (∀ (s : State) (t : Team) (b : Bool) (g : Guard) (o : BitVec 3) (d x : Spec) (excl : Bool),
     let m := t.execMask g
     let row := t.readV x
     let v := leafOf o.toNat m row
     s.varyingReady t g [RegUse.dest 0 .v d, RegUse.src 1 .v x] →
     let out := (List.range row.length).map fun l => prefixOf o.toNat v (if excl then l else l + 1) 10 0 (combineId o.toNat)
     row.length ≤ 1024 →
     (o.toNat < 6 → exec (.scan b g o d x excl) s = .next (s.completed t (t.writeV m d out) 2 b)) ∧
     (o = 6 → t.prm.fptrap = 0 → ∃ f, exec (.scan b g o d x excl) s
       = .next (s.completed t { t.writeV m d out with flags := t.flags ||| f } 2 b)))

/-- R305, R306, R308: BARR. A span that is none raises BARRIER_SHAPE. An arrival that meets another SUB or payload class at the
instance that it joins, or a team of its span waiting at an instance of another rectangle that contains the arriving team, raises
BARRIER_MISMATCH; both give X1 in INFO. Any other BARR of a team with no access pending completes its arrival: the team's count
on the rectangle goes up, it waits, and the instance of that count gains the arrival, with the launched lanes and the payload,
which for a varying one is node(10, 0) over the launched mask (R307); `rect` is the span's rectangle. A team alone in its span
departs at once. R306, R307, R150: the completion of an instance. It completes when its arrivals' lanes equal the launched lanes
of the span's teams, of which a retired team has none; until then nothing happens. At completion every arrived team that holds a
slot departs: Sd has the root of the tree of 32 leaves, the ith of which is the payload of the ith team of the span or the
identity; with SUB 7 nothing is written; it goes on after the BARR, and its core has no valid word of its partition left; the
instance ends when all have departed. -/
def Obligations.BarrierArrival : Prop :=
  (∀ (s : State) (t : Team) (b : Bool) (o : BitVec 3) (d x : Spec) (span : Byte),
     let counted (rect : Nat × Nat × Nat × Nat) : Nat :=
       ((t.barrs.find? fun e => decide ((e.1, e.2.1, e.2.2.1, e.2.2.2.1) = rect)).map (·.2.2.2.2)).getD 0
     let at' (rect : Nat × Nat × Nat × Nat) (y : Barrier) : Prop := (y.ox, y.oy, y.sw, y.sh) = rect
     let inSpan (rect : Nat × Nat × Nat × Nat) (r : Nat) : Prop := r ∈ t.prm.spanRanks rect.1 rect.2.1 rect.2.2.1 rect.2.2.2
     let refused (rect : Nat × Nat × Nat × Nat) (cls : Nat) : Prop := ∃ nb, s.nb? t.nb = some nb ∧ ∃ y ∈ nb.barriers,
       (at' rect y ∧ y.n = counted rect ∧ ∃ a ∈ y.arrivals, a.sub ≠ o.toNat ∨ a.cls ≠ cls) ∨
       (¬ at' rect y ∧ inSpan (y.ox, y.oy, y.sw, y.sh) t.rank ∧ ∃ a ∈ y.arrivals, a.rank ∉ y.departed ∧ inSpan rect a.rank)
     let go (i : Instr) (cls : Nat) (payload : Word) : Prop :=
       let trap (code : Nat) : Out := .next (s.takeTrap t (Cause.simple code span.toNat) false t.pc t.pc none)
       (t.prm.spanOf t.rank span = none → exec i s = trap 0x1C) ∧
       (∀ rect, t.prm.spanOf t.rank span = some rect → t.loads = [] → t.atomics = [] → t.storeQ = [] → t.winStores = [] →
         (refused rect cls → exec i s = trap 0x1D) ∧
         (¬ refused rect cls → ∃ a q,
           (a.rank = t.rank ∧ a.lanes = popMask t.lanes t.launched ∧ a.sub = o.toNat ∧ a.cls = cls ∧ a.payload = payload ∧
             (o.toNat ≠ 6 → a.exc = 0 ∧ a.causes = [])) ∧
           q = (s.setTeam { t with
             barrs := (rect.1, rect.2.1, rect.2.2.1, rect.2.2.2, counted rect + 1) ::
               t.barrs.filter fun e => !decide ((e.1, e.2.1, e.2.2.1, e.2.2.2.1) = rect)
             status := .waitBarrier rect.1 rect.2.1 rect.2.2.1 rect.2.2.2 (counted rect) d o.toNat }).mapNb t.nb (fun nb =>
               let same (y : Barrier) : Bool := decide ((y.ox, y.oy, y.sw, y.sh, y.n)
                 = (rect.1, rect.2.1, rect.2.2.1, rect.2.2.2, counted rect))
               if nb.barriers.any same then
                 { nb with barriers := nb.barriers.map fun y => if same y then { y with arrivals := y.arrivals ++ [a] } else y }
               else
                 { nb with barriers := nb.barriers ++ [
                   { ox := rect.1, oy := rect.2.1, sw := rect.2.2.1, sh := rect.2.2.2,
                     n := counted rect, span := span, arrivals := [a], result := none, departed := [] }] }) ∧
           exec i s = .next ((q.completeBarriers t.nb).mapTeam t.uid fun u => { u with port := none, runLen := 0 })))
     (o ≠ 7 → s.uniformReady t [RegUse.dest 0 .s d, RegUse.src 1 .s x] → go (.barr b o d (.s x) span) 0 (t.readS x)) ∧
     (o ≠ 7 → s.uniformReady t [RegUse.dest 0 .s d, RegUse.src 1 .v x] →
       go (.barr b o d (.v x) span) 1 (nodeOf o.toNat (leafOf o.toNat t.launched (t.readV x)) 10 0)) ∧
     (o = 7 → s.controlReady t [] → go (.barr b o d (.v x) span) 1 0) ∧
     (∀ rect nb l, o.toNat < 6 → s.uniformReady t [RegUse.dest 0 .s d, RegUse.src 1 .s x] → t.prm.spanOf t.rank span = some rect →
       t.loads = [] → t.atomics = [] → t.storeQ = [] → t.winStores = [] → s.nb? t.nb = some nb → s.launch? nb.launch = some l →
       l.prm = t.prm → nb.barriers = [] → t.prm.spanRanks rect.1 rect.2.1 rect.2.2.1 rect.2.2.2 = [t.rank] →
       s.rankTeam? t.nb t.rank = some t →
       ∃ q u, exec (.barr b o d (.s x) span) s = .next q ∧ q.team? t.uid = some u ∧ u.status = .running ∧ u.pc = t.pc + 12 ∧
         u.port = none ∧ u.sreg = (t.writeS d (nodeOf o.toNat (fun i => if i = 0 then t.readS x else combineId o.toNat) 5 0)).sreg ∧
         u.vreg = t.vreg ∧ u.flags = t.flags ∧ q.mem = s.mem) ∧
     (∀ p : LaunchRec, ∀ r, p.spanOf r 0xC0 = some (0, 0, p.w, p.h)) ∧
     (∀ (p : LaunchRec) (r : Nat) (k : Byte), k.extractLsb' 6 2 = 1 ∨ k.extractLsb' 6 2 = 2 ∨
       (k.extractLsb' 6 2 = 3 ∧ k.extractLsb' 0 6 ≠ 0) → p.spanOf r k = none)) ∧
  (∀ (s : State) (nb : Nb) (l : Launch), s.nb? nb.id = some nb → s.launch? nb.launch = some l →
     let need (y : Barrier) : Nat := ((l.prm.spanRanks y.ox y.oy y.sw y.sh).map fun r => s.lanesOfRank nb l.prm r).sum
     let short (y : Barrier) : Prop := y.result = none ∧ (y.arrivals.map (·.lanes)).sum ≠ need y
     (∀ r t, s.rankTeam? nb.id r = some t → s.lanesOfRank nb l.prm r = popMask t.lanes t.launched) ∧
     (∀ r, s.rankTeam? nb.id r = none → (∀ v ∈ nb.saved, v.rank ≠ r) → r ∈ nb.retired → s.lanesOfRank nb l.prm r = 0) ∧
     ((∀ y ∈ nb.barriers, short y) → s.completeBarriers nb.id = s) ∧
     (∀ (pre post : List Barrier) (y : Barrier) (o : Nat), nb.barriers = pre ++ y :: post → (∀ z ∈ pre ++ post, short z) →
       (∀ z ∈ pre ++ post, (z.ox, z.oy, z.sw, z.sh, z.n) ≠ (y.ox, y.oy, y.sw, y.sh, y.n)) → y.result = none →
       (y.arrivals.map (·.lanes)).sum = need y → y.arrivals ≠ [] → (∀ a ∈ y.arrivals, a.sub = o) → y.departed = [] →
       (y.arrivals.map (·.rank)).Nodup → s.teams.Pairwise (fun a b => a.uid ≠ b.uid ∧ (a.nb, a.rank) ≠ (b.nb, b.rank)) →
       (s.nbs.map (·.id)).Nodup →
       let root := nodeOf o (fun i => match (l.prm.spanRanks y.ox y.oy y.sw y.sh)[i]? with
         | none => combineId o
         | some r => match y.arrivals.find? fun a => a.rank == r with
           | none => combineId o
           | some a => a.payload) 5 0
       let q := s.completeBarriers nb.id
       (∀ a ∈ y.arrivals, ∀ t, s.rankTeam? nb.id a.rank = some t → ∀ d k,
         t.status = .waitBarrier y.ox y.oy y.sw y.sh y.n d k → ∃ v, q.team? t.uid = some v ∧
           v = { (if o = 7 then t else t.writeS d root) with
             flags := v.flags, status := .running, pc := t.pc + 12, port := none, runLen := 0, due := v.due } ∧
           (o < 6 ∨ o = 7 → a.exc = 0 → v.flags = t.flags) ∧ (o < 6 ∨ o = 7 → a.causes = [] → t.noStep → v.due = none) ∧
           ∀ w ∈ (q.getCore t.core).l1, w.part = t.part → w.st ≠ .valid) ∧
       ((∀ a ∈ y.arrivals, ∃ t d k, s.rankTeam? nb.id a.rank = some t ∧ t.status = .waitBarrier y.ox y.oy y.sw y.sh y.n d k) →
         ∃ n, q.nb? nb.id = some n ∧ n.barriers = pre ++ post) ∧
       (∀ t ∈ s.teams, (∀ a ∈ y.arrivals, (t.nb, t.rank) ≠ (nb.id, a.rank)) → q.team? t.uid = some t) ∧ q.mem = s.mem))

/-- R292, R103: BRA jumps; BRX jumps where no active lane fails its predicate, falls through where none holds it, and otherwise
pushes JOIN and DEFER and takes the path of the lanes that hold it. Targets are own offset + 4 × d (R242). R105, R109, R291: what
a taken branch does to its team. Forward it only moves the pc; backward it merges the continue mask of the topmost visible LOOP
entry, then counts while a visible DEFER entry lies on the stack, and at the 64th it rotates. R104, R106, R107: JOIN and RET pop
an entry. `rest` is what lies below it, with no empty entry at its top; popping a trap's CALL entry clears INTRAP (R168). -/
def Obligations.BranchAndJoinResults : Prop :=
  (∀ (s : State) (t : Team) (b : Bool) (p : PTerm) (d j : BitVec 22), s.controlReady t [] →
     let x := t.pc + BitVec.ofInt 32 (4 * d.toInt)
     let back := decide (d.toInt < 0)
     let yes := t.active &&& (if p.neg then ~~~(t.readP p.idx) else t.readP p.idx)
     let no := t.active &&& ~~~(if p.neg then ~~~(t.readP p.idx) else t.readP p.idx)
     exec (.bra b d) s = .next (s.jumped (t.jump x back) (t.jump x back).pc) ∧
     (no = 0 → exec (.brx b p d j) s = .next (s.jumped (t.jump x back) (t.jump x back).pc)) ∧
     (no ≠ 0 → yes = 0 → exec (.brx b p d j) s = .next (s.completed t t 3 b)) ∧
     (no ≠ 0 → yes ≠ 0 → t.limb = 0 → t.stack.length + 2 ≤ depthLimit t.lanes →
       let t1 : Team := { t with
         active := yes
         stack := { kind := .defer, pc := t.pc + 12, m := no, seg := 0, head := 0, k := 0, trapCall := false } ::
           { kind := .join, pc := t.pc + BitVec.ofInt 32 (4 * j.toInt), m := t.active, seg := 0, head := 0, k := 0,
             trapCall := false } :: t.stack }
       exec (.brx b p d j) s = .next (s.jumped (t1.jump x back) (t1.jump x back).pc)) ∧
     (no ≠ 0 → yes ≠ 0 → t.limb = 0 → depthLimit t.lanes < t.stack.length + 2 →
       exec (.brx b p d j) s = .next (s.takeTrap t (Cause.simple 0x13 t.infoS) false t.pc t.pc none))) ∧
  (∀ (t : Team) (x : Word),
     t.jump x false = { t with pc := x } ∧
     (topVisible .loop t.stack = none → topVisible .defer t.stack = none → t.jump x true = { t with pc := x, bbc := 0 }) ∧
     (∀ e rest, t.stack = e :: rest → e.kind = .loop → topVisible .defer rest = none →
       t.jump x true = { t with pc := x, bbc := 0, active := t.active ||| e.k, stack := { e with k := 0 } :: rest }) ∧
     (∀ e rest, t.stack = e :: rest → e.kind = .defer → topVisible .loop t.stack = none →
       (t.bbc + 1 < 64 → t.jump x true = { t with pc := x, bbc := t.bbc + 1 }) ∧
       (64 ≤ t.bbc + 1 →
         t.jump x true = { t with
           pc := e.pc, active := e.m, bbc := 0, rot := t.rot + 1
           stack := { kind := .defer, pc := x, m := t.active, seg := 0, head := 0, k := 0, trapCall := false } :: rest })) ∧
     (∀ e l rest, t.stack = l :: e :: rest → l.kind = .loop → e.kind = .defer → 64 ≤ t.bbc + 1 →
       t.jump x true = { t with
         pc := e.pc, active := e.m, bbc := 0, rot := t.rot + 1
         stack := { kind := .defer, pc := x, m := t.active ||| l.k, seg := 1, head := 0, k := 0, trapCall := false } ::
           { l with k := 0 } :: rest })) ∧
  (∀ (s : State) (t : Team) (b : Bool), s.controlReady t [] →
     let trap (code : Nat) : Out := .next (s.takeTrap t (Cause.simple code t.infoS) false t.pc t.pc none)
     (t.stack = [] → exec (.join b) s = trap 0x14) ∧
     (topVisible .call t.stack = none → exec (.ret b) s = trap 0x16) ∧
     (∀ e rest, t.stack = e :: rest → e.m ≠ 0 → (∀ f l, rest = f :: l → f.m ≠ 0) →
       let t1 : Team := { t with
         stack := rest, active := e.m, inTrap := t.inTrap && !e.trapCall, bbc := if hasVisibleDefer rest then t.bbc else 0 }
       (e.kind = .defer → exec (.join b) s = .next (s.jumped t1 e.pc)) ∧
       (e.kind = .join ∨ e.kind = .loop → e.pc = t.pc → exec (.join b) s = .next (s.completed t t1 1 b)) ∧
       (e.kind = .join ∨ e.kind = .loop → e.pc ≠ t.pc → exec (.join b) s = trap 0x14) ∧
       (e.kind = .call → exec (.join b) s = trap 0x14 ∧ exec (.ret b) s = .next (s.jumped t1 e.pc))))

/-- R105, R107, R292: LOOP pushes its entry. BRK and CONT on a LOOP entry at the top: lanes that stay go on behind the
instruction; with none left, the lanes of K go round at HEAD, or else all of M leave to the exit pc. R106, R243, R292: CALL
pushes the return pc and goes to the callee. STACK_OVERFLOW comes before CALL_DEPTH, and a register value that is not a multiple
of 4 raises ILL_MISALIGN_PC with no push. R110, R294: EXIT takes lanes out of the launched and active masks, and a team with none
left retires; NOP has no effect and YIELD only ends its run. The neighbourhood waits at no barrier here. -/
def Obligations.LoopCallAndExitResults : Prop :=
  (∀ (s : State) (t : Team) (b : Bool) (g : Guard) (d : BitVec 22), s.controlReady t [] →
     let x := t.active &&& t.guardMask g
     let stay := t.active &&& ~~~x
     let entry : StackEntry := { kind := .loop, pc := t.pc + BitVec.ofInt 32 (4 * d.toInt), m := t.active, seg := 0,
                                 head := t.pc + 4, k := 0, trapCall := false }
     (t.stack.length + 1 ≤ depthLimit t.lanes →
       exec (.loop b d) s = .next (s.completed t { t with stack := entry :: t.stack } 1 b)) ∧
     (x = 0 → exec (.brk64 b g) s = .next (s.completed t t 2 b) ∧ exec (.cont64 b g) s = .next (s.completed t t 2 b)) ∧
     (x ≠ 0 → topVisible .loop t.stack = none →
       let trap : Out := .next (s.takeTrap t (Cause.simple 0x15 t.infoS) false t.pc t.pc none)
       exec (.brk64 b g) s = trap ∧ exec (.cont64 b g) s = trap) ∧
     (∀ e rest, t.stack = e :: rest → e.kind = .loop → e.m ≠ 0 → t.limb = 0 →
       let at' (a k : LaneMask) : Team :=
         { t with active := a, stack := { e with k := k } :: rest, bbc := if hasVisibleDefer (e :: rest) then t.bbc else 0 }
       (x ≠ 0 → stay ≠ 0 →
         exec (.brk64 b g) s = .next (s.completed t (at' stay e.k) 2 b) ∧
         exec (.cont64 b g) s = .next (s.completed t (at' stay (e.k ||| x)) 2 b)) ∧
       (x ≠ 0 → stay = 0 → exec (.cont64 b g) s = .next (s.jumped (at' (e.k ||| x) 0) e.head)) ∧
       (x ≠ 0 → stay = 0 → e.k ≠ 0 → exec (.brk64 b g) s = .next (s.jumped (at' e.k 0) e.head)) ∧
       (x ≠ 0 → stay = 0 → e.k = 0 → exec (.brk64 b g) s = .next (s.jumped (at' e.m 0) e.pc)) ∧
       (t.active ≠ 0 → exec (.cont32 b) s = .next (s.jumped (at' (e.k ||| t.active) 0) e.head)) ∧
       (t.active ≠ 0 → e.k = 0 → exec (.brk32 b) s = .next (s.jumped (at' e.m 0) e.pc)) ∧
       (t.active ≠ 0 → e.k ≠ 0 → exec (.brk32 b) s = .next (s.jumped (at' e.k 0) e.head)))) ∧
  (∀ (s : State) (t : Team) (b : Bool) (d : BitVec 22) (r : Spec),
     let push (ret : Word) : Team :=
       { t with stack := { kind := .call, pc := ret, m := t.active, seg := 0, head := 0, k := 0, trapCall := false } :: t.stack }
     let trap (code info : Nat) : Out := .next (s.takeTrap t (Cause.simple code info) false t.pc t.pc none)
     let room := t.stack.length + 1 ≤ depthLimit t.lanes
     let calls := t.stack.countP fun e => decide (e.kind = .call)
     (s.controlReady t [] →
       (room → calls < 64 →
         exec (.callDisp b d) s = .next (s.jumped (push (t.pc + 4)) (t.pc + BitVec.ofInt 32 (4 * d.toInt)))) ∧
       (¬ room → exec (.callDisp b d) s = trap 0x13 t.infoS) ∧
       (room → 64 ≤ calls → exec (.callDisp b d) s = trap 0x17 t.infoS)) ∧
     (s.controlReady t [RegUse.src 1 .s r] →
       ((t.readS r).toNat % 4 ≠ 0 → exec (.callReg b r) s = trap 0x06 (t.readS r).toNat) ∧
       ((t.readS r).toNat % 4 = 0 → room → calls < 64 →
         exec (.callReg b r) s = .next (s.jumped (push (t.pc + 8)) (t.readS r))))) ∧
  (∀ (s : State) (t : Team) (b : Bool) (g : Guard), s.controlReady t [] →
     let x := t.active &&& t.guardMask g
     exec (.nop32 b) s = .next (s.completed t t 1 b) ∧
     exec (.nop64 b g) s = .next (s.completed t t 2 b) ∧
     exec (.nop96 b g) s = .next (s.completed t t 3 b) ∧
     exec (.yield b) s = .next (s.completed t t 1 true) ∧
     (x = 0 → exec (.exit64 b g) s = .next (s.completed t t 2 b)) ∧
     (x ≠ 0 → t.limb ≠ 0 → ∃ info, exec (.exit64 b g) s = .next (s.takeTrap t (Cause.simple 0x19 info) false t.pc t.pc none)) ∧
     (t.limb = 0 → t.stack = [] → (∀ n ∈ s.nbs, n.id = t.nb → n.barriers = []) →
       (x ≠ 0 → t.active &&& ~~~x ≠ 0 → t.launched &&& ~~~x ≠ 0 →
         exec (.exit64 b g) s = .next (s.completed t
           { t with launched := t.launched &&& ~~~x, active := t.active &&& ~~~x, bbc := 0 } 2 b)) ∧
       (t.active ≠ 0 → t.launched = t.active →
         let gone (n : Nat) : State := s.setTeam { t with
           launched := 0, active := 0, bbc := 0, status := .retiring, port := none, runLen := 0, pc := t.pc + BitVec.ofNat 32 (4 * n) }
         exec (.exit32 b) s = .next (gone 1) ∧ (x = t.active → exec (.exit64 b g) s = .next (gone 2)))))

/-- R295, R168, R169: TRAP and BKPT raise their cause with the immediate in INFO and the lowest lane of the mask in LANE; the
return pc is the next instruction. An empty mask gives no effect. R168, R164: taking a trap. TRAP.CAUSE holds the code, LANE in
[17:8], ASYNC in bit 19 and the handle in [63:32]; INTRAP is set, the return pc goes on the stack, and the team goes on at
TRAPENT with its execution mask active; its run ends. R168, R169, R173: a team that takes a trap with no trap entry, or inside
one, or where the CALL entry would exceed the depth or the 64 CALLs, halts: it departs as if every launched lane had exited, and
one record of KIND 0 goes to its partition, with the device time, INFO, and INFO again as the key or offset for the causes whose
INFO has form A or K (R166). The neighbourhood waits at no barrier here. -/
def Obligations.TrapResults : Prop :=
  (∀ (s : State) (t : Team) (b : Bool) (g : Guard) (n : Byte),
     let raise (code info words : Nat) (g : Guard) (l : Nat) : Out :=
       .next (s.takeTrap t { code := code, info := info, lane := l, handle := 0, next := true } false t.pc
         (t.pc + BitVec.ofNat 32 (4 * words)) (some (t.execMask g)))
     (s.varyingReady t g [] → ∀ l, l < t.lanes → (t.execMask g).getLsbD l = true → (∀ k, k < l → (t.execMask g).getLsbD k = false) →
       exec (.trap64 b g n) s = raise 0x0B n.toNat 2 g l ∧ exec (.bkpt64 b g n) s = raise 0x0C n.toNat 2 g l) ∧
     (s.varyingReady t .always [] → ∀ l, l < t.lanes → t.active.getLsbD l = true → (∀ k, k < l → t.active.getLsbD k = false) →
       exec (.trap32 b) s = raise 0x0B 0 1 .always l ∧ exec (.bkpt32 b) s = raise 0x0C 0 1 .always l) ∧
     (s.varyingIdle t g [] →
       exec (.trap64 b g n) s = .next (s.completed t t 2 b) ∧ exec (.bkpt64 b g n) s = .next (s.completed t t 2 b))) ∧
  (∀ (s : State) (t : Team) (c : Cause) (a : Bool) (pc ret : Word) (m : Option LaneMask),
     t.prm.trapEnt ≠ 0xFFFFFFFF → t.inTrap = false → t.stack.countP (fun e => decide (e.kind = .call)) < 64 →
     t.stack.length + 1 ≤ depthLimit t.lanes →
     s.takeTrap t c a pc ret m = s.setTeam { t with
       trapCause := BitVec.ofNat 64 (c.code + c.lane * 2 ^ 8 + (if a then 2 ^ 19 else 0) + c.handle * 2 ^ 32)
       trapInfo := BitVec.ofNat 64 c.info
       trapPc := pc
       inTrap := true
       stack := { kind := .call, pc := ret, m := t.active, seg := 0, head := 0, k := 0, trapCall := true } :: t.stack
       active := if m = none ∨ m = some 0 then t.active else m.getD 0
       pc := t.prm.trapEnt
       port := none
       runLen := 0 }) ∧
  (∀ (s : State) (t : Team) (c : Cause) (a : Bool) (pc ret : Word) (m : Option LaneMask),
     t.prm.trapEnt = 0xFFFFFFFF ∨ t.inTrap = true ∨ 64 ≤ t.stack.countP (fun e => decide (e.kind = .call)) ∨
       depthLimit t.lanes < t.stack.length + 1 → (∀ n ∈ s.nbs, n.id = t.nb → n.barriers = []) →
     let formA := [0x07, 0x0E, 0x20, 0x21, 0x22, 0x23, 0x24, 0x25, 0x26, 0x28, 0x29, 0x2A, 0x2B, 0x2C, 0x2D, 0x2F, 0x38, 0x3D, 0x3E, 0x41,
       0x42, 0x44, 0x47, 0x4D]
     let formK := [0x30, 0x31, 0x32, 0x33, 0x34, 0x35, 0x36]
     s.takeTrap t c a pc ret m
       = (s.setTeam { t with launched := 0, active := 0, stack := [], status := .retiring, port := none, runLen := 0 }).post t.part
           { cause := c.code, kind := 0, token := 0, handle := c.handle, core := t.core, slot := t.slot, agent := c.agent,
             key := if c.code ∈ formA ∨ c.code ∈ formK then BitVec.ofNat 64 c.info else 0, time := s.devTime,
             info := BitVec.ofNat 64 c.info, pc := pc, qword := 0, cursor := BitVec.ofNat 64 c.cursor, lane := c.lane, count := 0 })

/-- R296, R297, R97: SREAD writes a special register into Sd, or Sd:S(d+1) where it has 64 bits; `v` lists the contents. A number
that R297 does not list raises PRIV_SPECIAL with the number in INFO. R296, R297, R298: SWRITE writes the registers marked RW and
clears AW through TSTATE; bits that a register does not have are ignored. Any other number raises PRIV_SPECIAL. -/
def Obligations.SpecialRegisterResults : Prop :=
  (∀ (s : State) (t : Team) (b : Bool) (g : Guard) (d n : Spec),
     let k := n.toNat
     let bool (x : Bool) : Nat := if x then 1 else 0
     let summary (m : LaneMask) : Nat := ((List.range 32).map fun i => if m.extractLsb' (32 * i) 32 = 0 then 0 else 2 ^ i).sum
     let v : Nat :=
       if k = 0x00 then t.stack.length + t.limb * 2 ^ 14 + bool t.aw * 2 ^ 17 + t.bbc * 2 ^ 18 + t.forced * 2 ^ 24 +
         t.rot.toNat * 2 ^ 32
       else if k = 0x01 then t.flags.toNat
       else if k = 0x02 then t.trapCause.toNat
       else if k = 0x03 then t.trapInfo.toNat
       else if k = 0x04 then t.trapPc.toNat
       else if k = 0x05 then bool t.inTrap
       else if k = 0x06 then t.prm.lanes
       else if k = 0x07 then t.rank
       else if k = 0x08 then t.gx + t.gy * 2 ^ 16
       else if k = 0x09 then t.prm.gridX + t.prm.gridY * 2 ^ 16
       else if k = 0x0A then t.prm.w + t.prm.h * 2 ^ 8 + t.prm.t * 2 ^ 16
       else if k = 0x0B then t.rank / t.prm.t % t.prm.w + t.rank / t.prm.t / t.prm.w * 2 ^ 4
       else if k = 0x0C then t.core % 12 + t.core / 12 * 2 ^ 4
       else if k = 0x0D then t.part
       else if k = 0x0E then s.devTime.toNat
       else if k = 0x0F then s.clk % 2 ^ 64
       else if k = 0x10 then t.dbg.toNat
       else if k = 0x11 then t.whnd
       else if k = 0x12 then t.woff
       else if k = 0x13 then t.wlen
       else if k < 0x40 then (t.launched.extractLsb' (32 * (k - 0x20)) 32).toNat
       else if k < 0x60 then (t.helper.extractLsb' (32 * (k - 0x40)) 32).toNat
       else if k = 0x60 then summary t.launched
       else summary t.helper
     let wide := k ∈ [0x00, 0x02, 0x03, 0x0E, 0x0F, 0x12]
     let listed := k ≤ 0x13 ∨ (0x20 ≤ k ∧ k ≤ 0x61)
     (wide → s.uniformReady t [⟨0, .s, d, true, 2, 2⟩] →
       exec (.sread32 b d n) s = .next (s.completed t (t.writeS64 d v) 1 b) ∧
       (t.guardQ g = true → exec (.sread64 b g d n) s = .next (s.completed t (t.writeS64 d v) 2 b))) ∧
     (¬ wide → s.uniformReady t [⟨0, .s, d, true, 1, 1⟩] →
       (listed →
         exec (.sread32 b d n) s = .next (s.completed t (t.writeS d (BitVec.ofNat 32 v)) 1 b) ∧
         (t.guardQ g = true → exec (.sread64 b g d n) s = .next (s.completed t (t.writeS d (BitVec.ofNat 32 v)) 2 b))) ∧
       (¬ listed → exec (.sread32 b d n) s = .next (s.takeTrap t (Cause.simple 0x0A k) false t.pc t.pc none)))) ∧
  (∀ (s : State) (t : Team) (b : Bool) (g : Guard) (n x : Spec),
     let v := t.readS x
     let both (i32 i64 : Instr) (t1 : Team) : Prop :=
       exec i32 s = .next (s.completed t t1 1 b) ∧ (t.guardQ g = true → exec i64 s = .next (s.completed t t1 2 b)) ∧
       (t.guardQ g = false → exec i64 s = .next (s.completed t t 2 b))
     (s.controlReady t [⟨1, .s, x, false, 1, 1⟩] →
       both (.swrite32 b 0x01 x) (.swrite64 b g 0x01 x) { t with flags := v.setWidth 6 } ∧
       both (.swrite32 b 0x10 x) (.swrite64 b g 0x10 x) { t with dbg := v.setWidth 3 } ∧
       both (.swrite32 b 0x11 x) (.swrite64 b g 0x11 x) { t with whnd := v.toNat % 2 ^ 20 } ∧
       both (.swrite32 b 0x13 x) (.swrite64 b g 0x13 x) { t with wlen := v.toNat } ∧
       (n ∉ [0x00, 0x01, 0x02, 0x03, 0x0E, 0x0F, 0x10, 0x11, 0x12, 0x13] →
         exec (.swrite32 b n x) s = .next (s.takeTrap t (Cause.simple 0x0A n.toNat) false t.pc t.pc none))) ∧
     (s.controlReady t [⟨1, .s, x, false, 2, 2⟩] →
       both (.swrite32 b 0x00 x) (.swrite64 b g 0x00 x) { t with aw := t.aw && !(t.readS64 x).testBit 17 } ∧
       both (.swrite32 b 0x12 x) (.swrite64 b g 0x12 x) { t with woff := t.readS64 x % 2 ^ 48 } ∧
       (n ∈ [0x02, 0x03, 0x0E, 0x0F] →
         exec (.swrite32 b n x) s = .next (s.takeTrap t (Cause.simple 0x0A n.toNat) false t.pc t.pc none))))

/-- R310, R311, R217: FP32 arithmetic with no exception enabled: the row of results and the union of the flags of the lanes of
the execution mask. R311, R314, R315, R316: FRND, the special functions and packed FP16 arithmetic, with no exception enabled.
The values that FLOG2, FSIN and FCOS return within their bounds are free (log entry 5). -/
def Obligations.FloatArithmeticAndPackedResults : Prop :=
  (∀ (s : State) (t : Team) (b : Bool) (g : Guard) (d y' : Spec) (x y : Opd) (z : Spec) (k : BitVec 2), t.prm.fptrap = 0 →
     let done (w : Nat) (m : LaneMask) (rows : List (Word × FFlags)) : Out :=
       .next (s.completed t ((t.writeV m d (rows.map (·.1))).raise (raisedIn m 0 (rows.map (·.2)))) w b)
     let m := t.execMask g
     let X := t.readOpd immF32 x
     let Y := t.readOpd immF32 y
     let D := t.readV d
     let S := t.readV y'
     (s.varyingReady t .always [RegUse.dest 0 .v d, RegUse.src 0 .v d, RegUse.src 1 .v y'] →
       exec (.fadd32 b d y') s = done 1 t.active (List.zipWith (fAdd 0) D S) ∧
       exec (.fsub32 b d y') s = done 1 t.active (List.zipWith (fSub 0) D S) ∧
       exec (.fmul32 b d y') s = done 1 t.active (List.zipWith (fMul 0) D S) ∧
       exec (.fmin32 b d y') s = done 1 t.active (List.zipWith (fMinMax false) D S) ∧
       exec (.fmax32 b d y') s = done 1 t.active (List.zipWith (fMinMax true) D S) ∧
       exec (.fscl32 b d y') s = done 1 t.active (List.zipWith (fun a n => fScl 0 a n.toInt) D S)) ∧
     (s.varyingReady t g (RegUse.dest 0 .v d :: (opdUse 1 x ++ opdUse 2 y)) →
       exec (.fadd64 b g d x y k) s = done 2 m (List.zipWith (fAdd k) X Y) ∧
       exec (.fsub64 b g d x y k) s = done 2 m (List.zipWith (fSub k) X Y) ∧
       exec (.fmul64 b g d x y k) s = done 2 m (List.zipWith (fMul k) X Y) ∧
       exec (.fmin64 b g d x y) s = done 2 m (List.zipWith (fMinMax false) X Y) ∧
       exec (.fmax64 b g d x y) s = done 2 m (List.zipWith (fMinMax true) X Y) ∧
       exec (.fscl64 b g d x y k) s
         = done 2 m (List.zipWith (fun a n => fScl k a n.toInt) X (t.readOpd immSext y))) ∧
     (s.varyingReady t g (RegUse.dest 0 .v d :: (opdUse 1 x ++ opdUse 2 y ++ [RegUse.src 3 .v z])) →
       exec (.ffma b g d x y z k) s
         = done 2 m (List.zipWith (fun p c => fFma k p.1 p.2 c) (List.zipWith Prod.mk X Y) (t.readV z))) ∧
     (s.varyingIdle t g (RegUse.dest 0 .v d :: (opdUse 1 x ++ opdUse 2 y)) →
       ∀ i ∈ [Instr.fadd64 b g d x y k, .fsub64 b g d x y k, .fmul64 b g d x y k, .fmin64 b g d x y, .fmax64 b g d x y,
           .fscl64 b g d x y k], exec i s = .next (s.completed t t 2 b))) ∧
  (∀ (s : State) (t : Team) (b : Bool) (g : Guard) (d w : Spec) (x y : Opd) (z : Spec) (k : BitVec 2), t.prm.fptrap = 0 →
     let done (n : Nat) (m : LaneMask) (rows : List (Word × FFlags)) : Out :=
       .next (s.completed t ((t.writeV m d (rows.map (·.1))).raise (raisedIn m 0 (rows.map (·.2)))) n b)
     let m := t.execMask g
     let W := t.readV w
     let X := t.readOpd immF16x2 x
     let Y := t.readOpd immF16x2 y
     (s.varyingReady t .always [RegUse.dest 0 .v d, RegUse.src 1 .v w] →
       exec (.frnd32 b d w) s = done 1 t.active (W.map (fRnd 0)) ∧
       exec (.frcp32 b d w) s = done 1 t.active (W.map (fRcp 0)) ∧
       exec (.frsq32 b d w) s = done 1 t.active (W.map (fRsq 0)) ∧
       exec (.fsqrt32 b d w) s = done 1 t.active (W.map (fSqrt 0)) ∧
       exec (.fexp232 b d w) s = done 1 t.active (W.map fExp2) ∧
       exec (.flog232 b d w) s = done 1 t.active (W.map fLog2) ∧
       exec (.fsin32 b d w) s = done 1 t.active (W.map (fTrig false)) ∧
       exec (.fcos32 b d w) s = done 1 t.active (W.map (fTrig true))) ∧
     (s.varyingReady t g [RegUse.dest 0 .v d, RegUse.src 1 .v w] →
       exec (.frnd64 b g d w k) s = done 2 m (W.map (fRnd k)) ∧
       exec (.frcp64 b g d w k) s = done 2 m (W.map (fRcp k)) ∧
       exec (.frsq64 b g d w k) s = done 2 m (W.map (fRsq k)) ∧
       exec (.fsqrt64 b g d w k) s = done 2 m (W.map (fSqrt k)) ∧
       exec (.fexp264 b g d w) s = done 2 m (W.map fExp2) ∧
       exec (.flog264 b g d w) s = done 2 m (W.map fLog2) ∧
       exec (.fsin64 b g d w) s = done 2 m (W.map (fTrig false)) ∧
       exec (.fcos64 b g d w) s = done 2 m (W.map (fTrig true))) ∧
     (s.varyingReady t .always [RegUse.dest 0 .v d, RegUse.src 0 .v d, RegUse.src 1 .v w] →
       exec (.hadd232 b d w) s = done 1 t.active (List.zipWith (hAdd2 0) (t.readV d) W) ∧
       exec (.hmul232 b d w) s = done 1 t.active (List.zipWith (hMul2 0) (t.readV d) W)) ∧
     (s.varyingReady t g (RegUse.dest 0 .v d :: (opdUse 1 x ++ opdUse 2 y)) →
       exec (.hadd264 b g d x y k) s = done 2 m (List.zipWith (hAdd2 k) X Y) ∧
       exec (.hmul264 b g d x y k) s = done 2 m (List.zipWith (hMul2 k) X Y)) ∧
     (s.varyingReady t g (RegUse.dest 0 .v d :: (opdUse 1 x ++ opdUse 2 y ++ [RegUse.src 3 .v z])) →
       exec (.hfma2 b g d x y z k) s
         = done 2 m (List.zipWith (fun p c => hFma2 k p.1 p.2 c) (List.zipWith Prod.mk X Y) (t.readV z))))

/-- R311, R313, R216: the FP32 instructions that work on bits and raise nothing. R230, R317: FRAND draws once in each lane of its
mask and in no other, whatever is enabled in FPTRAP. `step` is one frand_next. -/
def Obligations.FloatBitsAndDraws : Prop :=
  (∀ (s : State) (t : Team) (b : Bool) (g : Guard) (d w : Spec) (x y : Opd),
     let done (n : Nat) (m : LaneMask) (row : List Word) : Out := .next (s.completed t (t.writeV m d row) n b)
     let m := t.execMask g
     let W := t.readV w
     let sgn (a c : Word) : Word := a.extractLsb' 0 31 |> fun lo => (c.extractLsb' 31 1 ++ lo)
     (s.varyingReady t .always [RegUse.dest 0 .v d, RegUse.src 1 .v w] →
       exec (.fabs32 b d w) s = done 1 t.active (W.map (sgn · 0)) ∧
       exec (.fneg32 b d w) s = done 1 t.active (W.map fun a => sgn a (~~~a)) ∧
       exec (.fclass32 b d w) s = done 1 t.active (W.map fClass)) ∧
     (s.varyingReady t .always [RegUse.dest 0 .v d, RegUse.src 1 .v w, RegUse.src 0 .v d] →
       exec (.fcpsgn32 b d w) s = done 1 t.active (List.zipWith sgn (t.readV d) W)) ∧
     (s.varyingReady t g [RegUse.dest 0 .v d, RegUse.src 1 .v w] →
       exec (.fabs64 b g d w) s = done 2 m (W.map (sgn · 0)) ∧
       exec (.fneg64 b g d w) s = done 2 m (W.map fun a => sgn a (~~~a)) ∧
       exec (.fclass64 b g d w) s = done 2 m (W.map fClass)) ∧
     (s.varyingReady t g (RegUse.dest 0 .v d :: (opdUse 1 x ++ opdUse 2 y)) →
       exec (.fcpsgn64 b g d x y) s = done 2 m (List.zipWith sgn (t.readOpd immF32 x) (t.readOpd immF32 y)))) ∧
  (∀ (s : State) (t : Team) (b : Bool) (g : Guard) (d : Spec),
     let step (x : DWord) : DWord :=
       let x1 := x ^^^ (x >>> 12)
       let x2 := x1 ^^^ (x1 <<< 25)
       x2 ^^^ (x2 >>> 27)
     let draw (x : DWord) : Word := (step x * 0x2545F4914F6CDD1D).extractLsb' 32 32
     let done (n : Nat) (m : LaneMask) (out : Word → Word) : Out :=
       .next (s.completed t { t.writeV m d (t.rng.map fun x => out (draw x)) with
         rng := mapAt (fun l x => if m.getLsbD l then step x else x) 0 t.rng } n b)
     (s.varyingReady t .always [RegUse.dest 0 .v d] →
       exec (.frandU3232 b d) s = done 1 t.active id ∧ exec (.frandF3232 b d) s = done 1 t.active frandF32) ∧
     (s.varyingReady t g [RegUse.dest 0 .v d] →
       exec (.frandU3264 b g d) s = done 2 (t.execMask g) id ∧ exec (.frandF3264 b g d) s = done 2 (t.execMask g) frandF32) ∧
     (s.varyingIdle t g [RegUse.dest 0 .v d] →
       exec (.frandU3264 b g d) s = .next (s.completed t t 2 b) ∧ exec (.frandF3264 b g d) s = .next (s.completed t t 2 b)))

/-- R312, R318, R319, R320: FSETP, CVT and CVTP with no exception enabled; a CVT to .S32T or .U32T of a NaN, or of a value that
was clamped, takes CONVERT_RANGE after every lane is written, with LANE the lowest such lane. R217, R218: an enabled exception is
taken after every lane is written: the lowest enabled exception that a lane of the mask raised, with LANE the lowest lane that
raised it. -/
def Obligations.CompareConvertAndTraps : Prop :=
  (∀ (s : State) (t : Team) (b : Bool) (g : Guard) (d w v : Spec) (x y : Opd) (c p : BitVec 3) (j k : BitVec 2) (el : BitVec 4)
       (pair : Spec), t.prm.fptrap = 0 →
     let m := t.execMask g
     let put (t1 : Team) (fl : List FFlags) : Team := t1.raise (raisedIn m 0 fl)
     let done (t1 : Team) (fl : List FFlags) : Out := .next (s.completed t (put t1 fl) 2 b)
     let packed (rows : List (Word × FFlags)) : Out := done (t.writeV m d (rows.map (·.1))) (rows.map (·.2))
     (s.varyingReady t g (opdUse 1 x ++ opdUse 2 y) →
       let r := List.zipWith (fSetp c) (t.readOpd immF32 x) (t.readOpd immF32 y)
       exec (.fsetp b g c p x y) s = done (t.writeP m p (mkMask (r.map (·.1)))) (r.map (·.2))) ∧
     (s.varyingReady t g [RegUse.dest 0 .v d, RegUse.src 1 .v w] →
       let r := (t.readV w).map (cvtWord pair k)
       let t1 := put (t.writeV m d (r.map (·.1))) (r.map (·.2.1))
       let bad (l : Nat) : Prop := l < t.lanes ∧ m.getLsbD l = true ∧ ∃ e, r[l]? = some e ∧ e.2.2 = true
       ((∀ l, ¬ bad l) → exec (.cvt b g d w pair k) s = .next (s.completed t t1 2 b)) ∧
       (∀ l, bad l → (∀ i, i < l → ¬ bad i) →
         exec (.cvt b g d w pair k) s = .next ((s.setTeam t1).takeTrap (t.next t1 2 b)
           { code := 0x5E, info := 0, lane := l, handle := 0, next := false } false t.pc (t.pc + 8) (some m)))) ∧
     (s.varyingReady t g [RegUse.dest 0 .v d, RegUse.src 1 .v w, RegUse.src 2 .v v] →
       exec (.cvtpPack b g d w v el k) s = packed (List.zipWith (packWord el.toNat k) (t.readV w) (t.readV v)) ∧
       exec (.cvtpPacksr b g d w v el) s = packed (List.zipWith (packSr el.toNat) (t.readV w) (t.readV v))) ∧
     (s.varyingReady t g [RegUse.dest 0 .v d, RegUse.src 1 .v w] →
       exec (.cvtpUnpack b g d w j el) s = packed ((t.readV w).map (unpackWord el.toNat j.toNat)))) ∧
  (∀ (s : State) (t : Team) (b : Bool) (g : Guard) (d : Spec) (x y : Opd) (z : Spec) (k : BitVec 2),
     let m := t.execMask g
     let X := t.readOpd immF32 x
     let Y := t.readOpd immF32 y
     let traps (i : Instr) (rows : List (Word × FFlags)) : Prop :=
       let t1 := (t.writeV m d (rows.map (·.1))).raise (raisedIn m 0 (rows.map (·.2)))
       let raised (n l : Nat) : Prop := m.getLsbD l = true ∧ ∃ r, rows[l]? = some r ∧ r.2.getLsbD n = true
       (∀ n, t1.flags.getLsbD n = true ↔ (t.flags.getLsbD n = true ∨ ∃ l, raised n l)) ∧
       (∀ n l, n < 5 → t.prm.fptrap.testBit n = true → raised n l → (∀ l', l' < l → ¬ raised n l') →
         (∀ n', n' < n → t.prm.fptrap.testBit n' = true → ∀ l', ¬ raised n' l') →
         exec i s = .next ((s.setTeam t1).takeTrap (t.next t1 2 b)
           { code := 0x58 + n, info := 0, lane := l, handle := 0, next := false } false t.pc (t.pc + 8) (some m)))
     (s.varyingReady t g (RegUse.dest 0 .v d :: (opdUse 1 x ++ opdUse 2 y)) →
       traps (.fadd64 b g d x y k) (List.zipWith (fAdd k) X Y) ∧
       traps (.fsub64 b g d x y k) (List.zipWith (fSub k) X Y) ∧
       traps (.fmul64 b g d x y k) (List.zipWith (fMul k) X Y)) ∧
     (s.varyingReady t g (RegUse.dest 0 .v d :: (opdUse 1 x ++ opdUse 2 y ++ [RegUse.src 3 .v z])) →
       traps (.ffma b g d x y z k) (List.zipWith (fun p c => fFma k p.1 p.2 c) (List.zipWith Prod.mk X Y) (t.readV z))))

/-- R216, R217, R311, R313, R315: the special operands. A NaN operand gives the canonical NaN, with NV exactly where an operand
is signalling; FMIN and FMAX drop a single NaN; FCLASS gives one bit. R215: unpacking a finite FP32 value and rounding it in any
mode gives the value back, exact; so every operation whose exact result is an FP32 value returns it and sets nothing. -/
def Obligations.FloatValues : Prop :=
  (∀ (a c : Word) (k : BitVec 2),
     let nan (v : Word) : Prop := v.extractLsb' 23 8 = 255 ∧ v.extractLsb' 0 23 ≠ 0
     let sig (v : Word) : Prop := nan v ∧ v.getLsbD 22 = false
     let nv (p : Prop) [Decidable p] : FFlags := if p then 1 else 0
     (nan a ∨ nan c → fAdd k a c = (0x7FC00000, nv (sig a ∨ sig c)) ∧ fSub k a c = (0x7FC00000, nv (sig a ∨ sig c)) ∧
       fMul k a c = (0x7FC00000, nv (sig a ∨ sig c))) ∧
     (nan a → ¬ nan c → fMinMax false a c = (c, nv (sig a)) ∧ fMinMax true a c = (c, nv (sig a)) ∧
       fMinMax false c a = (c, nv (sig a)) ∧ fMinMax true c a = (c, nv (sig a))) ∧
     (nan a → nan c → fMinMax false a c = (0x7FC00000, nv (sig a ∨ sig c)) ∧ fMinMax true a c = (0x7FC00000, nv (sig a ∨ sig c))) ∧
     (nan a → ∀ r ∈ [fRcp k a, fRsq k a, fSqrt k a, fExp2 a, fLog2 a, fTrig false a, fTrig true a, fRnd k a, fScl k a c.toInt],
       r = (0x7FC00000, nv (sig a))) ∧
     (a.extractLsb' 0 31 ≠ 0 → a.getLsbD 31 = true → ¬ nan a → fSqrt k a = (0x7FC00000, 1) ∧ fRsq k a = (0x7FC00000, 1) ∧
       fLog2 a = (0x7FC00000, 1)) ∧
     (a.extractLsb' 0 31 = 0 → fRcp k a = (a ^^^ 0x7F800000, 2) ∧ fRsq k a = (a ^^^ 0x7F800000, 2) ∧ fSqrt k a = (a, 0) ∧
       fExp2 a = (0x3F800000, 0) ∧ fLog2 a = (0xFF800000, 2) ∧ fTrig false a = (a, 0) ∧ fTrig true a = (0x3F800000, 0)) ∧
     (∃ n, n < 10 ∧ fClass a = BitVec.ofNat 32 (2 ^ n) ∧ (n = 8 ↔ sig a) ∧ (n = 9 ↔ nan a ∧ ¬ sig a))) ∧
  (∀ (a : Word) (k : BitVec 2), a.extractLsb' 23 8 ≠ 255 →
     pk32 k (un32 a) = (a, 0) ∧ fMul k a 0x3F800000 = (a, 0) ∧
     (a.extractLsb' 0 31 ≠ 0 → fAdd k a 0 = (a, 0) ∧ fSub k a a = (if k = 3 then 0x80000000 else 0, 0)))

/-- R324, R325, R326, R329, R277: a load that passes every check issues one pending load for each lane of its mask (two of 8
bytes for .W128), which will write the destination; Y0 and Y1 advance with the result still on its way (R98); memory is not
touched. The order number of the instruction is the model's (log entry 4). R111, R135, R324, R327, R329 (order numbers: log entry
4): a store that passes every check leaves its entries, lowest lane first, in the team's store queue; none for a helper lane; to
a round region the entries are write-through. Memory is not touched until they drain. Where the region is attached to no
instance, the model notes the clk of the store (log entry 87). -/
def Obligations.LoadAndStoreIssue : Prop :=
  (∀ (s : State) (t t1 : Team) (b : Bool) (g : Guard) (wd : BitVec 3) (d c x y : Spec) (off : Opd) (n : Byte) (rq h : BitVec 2)
       (win : Bool) (accs : List Acc) (pads : List PadAcc),
     let size := widthSize wd
     let m := t.execMask g
     let C := t1.readC c
     let code := codeReach t.prm.code
     let pend (q : Team) (l : List PendLoad) : Team := { q with loads := q.loads ++ l }
     let done (q : Team) : Out := .next (s.completed t q 2 b).stamp
     (s.memReady t g [groupUse 0 d true (widthRegs wd), RegUse.src 2 .c c] off false t1 →
       (s.setTeam t1).access t1 C [20] size 0x30 false (t1.laneOffsets off (n.toNat * size) m) = .ok accs →
       t1.watch true false (Cap.handle C) size accs = [] →
       exec (.ld b g wd d off c n rq h) s = done (pend (t1.advanceYPending m) (accs.flatMap fun a =>
         loadItems s.nextSeq size (widthSigned wd) rq.toNat h.toNat 1 d.toNat a.lane fun k =>
           .obj (Cap.handle C) (a.off + k) (a.xl.pa + k)))) ∧
     (s.memReady t g [groupUse 0 d true (widthRegs wd)] off false t1 →
       t1.padChecks win size (t1.laneOffsets off (n.toNat * size) m) = .ok pads →
       exec (.lds b g wd d off n win) s = done (pend (t1.advanceYPending m) (pads.flatMap fun a =>
         loadItems s.nextSeq size (widthSigned wd) 0 0 1 d.toNat a.lane fun k => .scratch a.rank (a.off + k)))) ∧
     (∀ w : Nat, s.uniformReady t [⟨0, .s, d, true, w, w⟩, RegUse.src 1 .s x, RegUse.src 2 .s y] → t.guardQ g = true →
       s.access t code [23] (4 * w) 0x30 false [(0, (t.readS x).toNat + (t.readS y).toNat)] = .ok accs →
       t.watch true false (Cap.handle code) (4 * w) accs = [] →
       let items := accs.flatMap fun a => loadItems s.nextSeq (4 * w) false 0 0 2 d.toNat 0 fun k =>
         .obj (Cap.handle code) (a.off + k) (a.xl.pa + k)
       (w = 1 → exec (.sldcW32 b g d x y) s = done (pend t items)) ∧ (w = 2 → exec (.sldcW64 b g d x y) s = done (pend t items)))) ∧
  (∀ (s : State) (t t1 : Team) (b : Bool) (g : Guard) (wd : BitVec 3) (d c : Spec) (off : Opd) (n : Byte) (rq h : BitVec 2)
       (win : Bool) (accs : List Acc) (pads : List PadAcc),
     let size := widthSize wd
     let m := t.execMask g &&& ~~~t.helper
     let C := t1.readC c
     let kind (a : Acc) : StoreKind :=
       if ODesc.isRound a.xl.desc then .writeThrough
       else match rq.toNat with | 0 => .own | 1 => .writeThrough | _ => .nonAlloc
     let done (q : State) (x : Team) : Out := .next (q.completed t x 2 b).stamp
     (s.memReady t g [groupUse 0 d false (widthRegs wd), RegUse.src 2 .c c] off true t1 →
       (s.setTeam t1).access t1 C [21] size 0x30 true (t1.laneOffsets off (n.toNat * size) m) = .ok accs →
       t1.watch false true (Cap.handle C) size accs = [] →
       exec (.st b g wd d off c n rq h) s = done ((s.setTeam t1).noteAccs t1 size accs) { t1 with storeQ := t1.storeQ ++ (accs.flatMap fun a =>
         storeItems s.nextSeq (kind a) (Cap.handle C) h.toNat a (t1.groupBytes d size a.lane)) }) ∧
     (s.memReady t g [groupUse 0 d false (widthRegs wd)] off true t1 →
       t1.padChecks win size (t1.laneOffsets off (n.toNat * size) m) = .ok pads →
       exec (.sts b g wd d off n win) s = done s { t1 with winStores := t1.winStores ++ (pads.flatMap fun a =>
         (List.range ((size + 7) / 8)).map fun k =>
           { seq := s.nextSeq, rank := a.rank, off := a.off + 8 * k,
             bytes := ((t1.groupBytes d size a.lane).drop (8 * k)).take 8 }) }))

/-- R324, R330, R331, R332: an atomic that passes every check leaves one pending operation per acting lane; ATOM and ATOMS write
0 in helper lanes and advance Y0 and Y1; RED has no result. The order number of the instruction is the model's (log entry 4), as
is the note of an operation on a region attached to no instance (log entry 87). R143, R328: LDB first checks and leaves a bounded
load per lane, at which the team is held; the execution that finds every lane served writes the destinations and completes, and
one that does not changes nothing. The bound is Sn, or the core's known round of the region less n, where the known round of a
region without an entry is the region's own (R142). The order number of the loads is the model's (log entry 4), and the value is
that of the round-n copies or the home, not of the team's own store queue (log entry 43). -/
def Obligations.AtomicAndBoundedIssue : Prop :=
  (∀ (s : State) (t t1 : Team) (b : Bool) (g : Guard) (wd : BitVec 3) (d c y z o : Spec) (off : Opd) (n : Byte) (loc win rel : Bool)
       (h k : BitVec 2) (accs : List Acc) (pads : List PadAcc),
     let size := widthSize wd
     let w := widthRegs wd
     let m := t.execMask g
     let act := m &&& ~~~t.helper
     let offs := t1.laneOffsets off (n.toNat * size) act
     let C := t1.readC c
     let tgt (l : Nat) : Target := { cls := 1, reg := d.toNat, lane := l, ySlot := 0, first := true, n := w }
     let t2 := (t1.advanceYPending m).zeroHelpers m d w
     let done (v : State) (q : Team) (l : List PendAtomic) : Out := .next (v.completed t { q with atomics := q.atomics ++ l } 3 b).stamp
     let noted := (s.setTeam t1).noteAccs t1 size accs
     (s.memReady t g ([groupUse 0 d true w, RegUse.src 2 .c c] ++ atomUses w y z o) off true t1 →
       (s.setTeam t1).access t1 C [22] size 0x31 true offs = .ok accs →
       t1.watch true true (Cap.handle C) size accs = [] →
       exec (.atom b g wd d off c n loc h k y z o) s = done noted t2 (accs.map fun a =>
         t1.atomItem s.nextSeq w o.toNat y z a.lane (.obj (Cap.handle C) a.off a.xl.pa) (tgt a.lane) loc (k.getLsbD 0) (k.getLsbD 1)
           h.toNat)) ∧
     (s.memReady t g [RegUse.src 2 .c c, groupUse 4 y false w] off true t1 →
       (s.setTeam t1).access t1 C [22] size 0x31 true offs = .ok accs →
       t1.watch false true (Cap.handle C) size accs = [] →
       exec (.red b g wd off c n loc h rel y o) s = done noted t1 (accs.map fun a =>
         t1.atomItem s.nextSeq w o.toNat y y a.lane (.obj (Cap.handle C) a.off a.xl.pa)
           { cls := 0, reg := 0, lane := a.lane, ySlot := 2, first := false, n := 0 } loc false rel h.toNat)) ∧
     (s.memReady t g (groupUse 0 d true w :: atomUses w y z o) off true t1 →
       t1.padChecks win size offs = .ok pads →
       exec (.atoms b g wd d off n win k y z o) s = done s t2 (pads.map fun a =>
         t1.atomItem s.nextSeq w o.toNat y z a.lane (.scratch a.rank a.off) (tgt a.lane) false (k.getLsbD 0) (k.getLsbD 1) 0))) ∧
  (∀ (s : State) (t t1 : Team) (b : Bool) (g : Guard) (wd : BitVec 3) (d c n : Spec) (off : Opd) (h k : BitVec 2) (accs : List Acc)
       (a0 : Acc) (halo : Halo),
     let size := widthSize wd
     let m := t.execMask g
     let C := t1.readC c
     s.memReady t g ([groupUse 0 d true (widthRegs wd), RegUse.src 2 .c c] ++ if k.getLsbD 0 then [] else [RegUse.src 3 .s n]) off
       false t1 →
     (t.inLdb = false →
       (s.setTeam t1).access t1 C [24] size 0x30 false (t1.laneOffsets off 0 m) = .ok accs →
       (s.setTeam t1).ldbFail (Cap.handle C) size accs = none → accs.head? = some a0 →
       (s.setTeam t1).halo? a0.xl.desc = some halo → (size = 4 ∨ size = 8) →
       t.core < s.cores.length →
       let known : Nat := match (s.getCore t.core).round? t.part (Cap.handle C) with
         | some e => e.known
         | none => s.regionRound t.part a0.xl.obj halo
       let bound := if k.getLsbD 0 then known - n.toNat else (t1.readS n).toNat
       exec (.ldb b g wd d off c n h k) s
         = .next (((s.setTeam t1).useRound t.core t.part (Cap.handle C) a0.xl.obj halo).setTeam
             { t1 with inLdb := true, sleepClk := s.clk, loads := t1.loads ++ accs.map fun a =>
                 { seq := s.nextSeq, place := .obj (Cap.handle C) a.off a.xl.pa, size := size, signed := false, rq := 0, hint := h.toNat,
                   target := { cls := 1, reg := d.toNat, lane := a.lane, ySlot := 0, first := true, n := (size + 3) / 4 },
                   bound := some (bound, !k.getLsbD 1), got := none } }).stamp) ∧
     (t.inLdb = true → (∃ p ∈ t.loads, p.bound.isSome = true ∧ p.got = none) →
       exec (.ldb b g wd d off c n h k) s = .next (s.setTeam t1)) ∧
     (t.inLdb = true → (∀ p ∈ t.loads, p.bound = none ∨ p.got ≠ none) → t1.dbg = 0 →
       exec (.ldb b g wd d off c n h k) s = .next (s.completed t
         ((t1.loads.filter fun p => p.bound.isSome).foldl
           (fun q p => q.deliver p.target (loadWords p.size p.signed (leBytes p.size (p.got.getD 0))))
           (Team.advanceYPending { t1 with loads := t1.loads.filter fun p => p.bound.isNone, inLdb := false } m)) 2 b)))

/-- R149, R150, R335, R336: FENCE.ACQ with no earlier load or atomic outstanding self-invalidates; FENCE.REL takes effect at once
where no earlier load, store or atomic is outstanding, and else marks the store queue, as RREL does; a fence that must wait
changes nothing. The order number of a mark is the model's (log entry 4), FENCE.AR waits for the team's stores as well (log entry
19), and an RREL attaches its region at issue, which is the model's reading (log entry 49), in no clk in which another party has
stored to its tile (log entry 87). R137, R337: INVR, WBR and FLR that pass every check, with no store of the team to the range
waiting, treat each present word of the range once, and wait while such a store is there. A start or length that is no multiple
of 4, a range beyond the capability, a missing right and a range beyond the object trap, in that order, with MISALIGNED,
CAP_BOUNDS, RANGE_RIGHTS and OBJ_BOUNDS. PREF fills the words of its clipped range, which an L1 hit does not ask the home for
(R130), and nothing where its object or a right is missing: it raises no fault. -/
def Obligations.FenceAndRangeResults : Prop :=
  (∀ (s : State) (t : Team) (b : Bool) (g : Guard) (c : Spec), s.controlReady t [] →
     let waits : Prop := (∃ p ∈ t.loads, ∃ h o a, p.place = .obj h o a) ∨ (∃ p ∈ t.atomics, ∃ h o a, p.place = .obj h o a)
     let inv := s.selfInvalidate t.core t.part
     let mark (kind : StoreKind) (h : Nat) : Team := { t with storeQ := t.storeQ ++ [markEntry s.nextSeq kind h] }
     (¬ waits → exec (.fenceAcq b) s = .next (inv.completed t t 1 b)) ∧
     (waits → exec (.fenceAcq b) s = .next s ∧ exec (.fenceAr b) s = .next s) ∧
     (¬ waits → t.storeQ = [] → exec (.fenceAr b) s = .next (inv.completed t t 1 b)) ∧
     (t.storeQ ≠ [] → exec (.fenceAr b) s = .next s) ∧
     (¬ waits → t.storeQ = [] → exec (.fenceRel b) s = .next (s.completed t t 1 b).stamp) ∧
     (let earlier : Prop := (∃ p ∈ t.loads, p.seq < s.nextSeq ∧ ∃ h o a, p.place = .obj h o a) ∨
        (∃ p ∈ t.atomics, p.seq < s.nextSeq ∧ ∃ h o a, p.place = .obj h o a)
      (earlier ∧ t.storeQ = []) ∨ (∃ e es, t.storeQ = e :: es ∧ e.kind ≠ .fence) →
       exec (.fenceRel b) s = .next (s.completed t (mark .fence 0) 1 b).stamp) ∧
     (∀ obj dsc halo, s.controlReady t [RegUse.src 1 .c c] →
       let C := t.readC c
       let r := halo.tileRange t.rank
       bit (Cap.rights C) 4 = true → s.lookupHandle t.part (Cap.handle C) = .ok (obj, dsc) → s.haloBad dsc = none →
       ODesc.ok dsc = true → bit (ODesc.ceil dsc) 4 = true → s.halo? dsc = some halo →
       (∀ inst, (s.region? t.part obj).bind (·.attached) = some inst → inst = t.nb) → t.rank < halo.gx * halo.gy →
       Cap.base C ≤ r.1 → r.2 ≤ Cap.base C + Cap.length C → s.storedThisClk t obj = false →
       let s1 := (s.useRound t.core t.part (Cap.handle C) obj halo).mapRegion t.part obj fun x => { x with attached := some t.nb }
       let done (w : Nat) : Out := .next (s1.completed t (mark .rrel (Cap.handle C)) w b).stamp
       exec (.rrel32 b c) s = done 1 ∧ (t.guardQ g = true → exec (.rrel64 b g c) s = done 2))) ∧
  (∀ (s : State) (t : Team) (b : Bool) (g : Guard) (x c y : Spec) (h : BitVec 2) (obj dsc : Nat),
     s.controlReady t [RegUse.src 1 .s x, RegUse.src 2 .c c, RegUse.src 3 .s y] → t.guardQ g = true →
     let C := t.readC c
     let a := (t.readS x).toNat
     let n := (t.readS y).toNat
     let lo := Cap.base C + a
     let all := [Instr.invr b g x c y, .wbr b g x c y, .flr b g x c y]
     let sweep (write keep : Bool) : Out :=
       .next (((s.rangeWords dsc lo (lo + n)).foldl (fun q w => q.rangeWord t.core t.part write keep w) s).completed t t 2 b)
     let trap (cause detail : Nat) : Out :=
       .next (s.takeTrap t { code := cause, info := infoA lo detail, lane := 0, handle := Cap.handle C, next := false } false t.pc t.pc none)
     let right (i : Instr) : Nat := if i = .invr b g x c y then 1 else 0
     let plo := alignUp lo 4
     let phi := min (min (lo + n) (Cap.base C + Cap.length C)) (ODesc.length dsc) / 4 * 4
     let here := s.lookupHandle t.part (Cap.handle C) = .ok (obj, dsc) ∧ s.haloBad dsc = none
     (a % 4 = 0 → n % 4 = 0 → a + n ≤ Cap.length C → here → ODesc.ok dsc = true → lo + n ≤ ODesc.length dsc →
       (t.storesIn (s.rangeWords dsc lo (lo + n)) = false → s.rangeBad dsc lo (lo + n) = none →
         (bit (Cap.rights C) 1 = true → exec (.invr b g x c y) s = sweep false false) ∧
         (bit (Cap.rights C) 0 = true → exec (.wbr b g x c y) s = sweep true true ∧ exec (.flr b g x c y) s = sweep true false)) ∧
       (t.storesIn (s.rangeWords dsc lo (lo + n)) = true → ∀ i ∈ all, bit (Cap.rights C) (right i) = true → exec i s = .next s)) ∧
     (∀ i ∈ all,
       (a % 4 ≠ 0 ∨ n % 4 ≠ 0 → exec i s = trap 0x2A 4) ∧
       (a % 4 = 0 → n % 4 = 0 →
         (Cap.length C < a + n → exec i s = trap 0x22 n) ∧
         (a + n ≤ Cap.length C →
           (bit (Cap.rights C) (right i) = false → exec i s = trap 0x2F (20 + right i)) ∧
           (bit (Cap.rights C) (right i) = true →
             (∀ e, s.lookupHandle t.part (Cap.handle C) = .error e → s.walkBad t.part (Cap.handle C) = none → exec i s = trap e n) ∧
             (here → ODesc.ok dsc = true → ODesc.length dsc < lo + n → exec i s = trap 0x28 n))))) ∧
     (here → ODesc.ok dsc = true → bit (Cap.rights C) 0 = true → bit (ODesc.ceil dsc) 0 = true →
       t.storesIn (s.rangeWords dsc plo phi) = false → s.rangeBad dsc plo phi = none →
       (∀ w ∈ s.rangeWords dsc plo phi, ((s.getCore t.core).l1For? t.part w.1).isSome = true ∨ s.badIn (4 * w.1) 4 = none) →
       exec (.pref b g x c y h) s = .next (((s.rangeWords dsc plo phi).foldl (fun q w =>
         (if ((q.getCore t.core).l1For? t.part w.1).isSome then q else q.request t.part (Cap.handle C) w.2.2 (4 * w.1) 4 h.toNat).fillValid
           t.core t.part (Cap.handle C) w.1) s).completed t t 2 b)) ∧
     (here → ODesc.ok dsc = false ∨ bit (Cap.rights C) 0 = false ∨ bit (ODesc.ceil dsc) 0 = false →
       exec (.pref b g x c y h) s = .next (s.completed t t 2 b)) ∧
     (∀ e, s.lookupHandle t.part (Cap.handle C) = .error e → s.walkBad t.part (Cap.handle C) = none →
       exec (.pref b g x c y h) s = .next (s.completed t t 2 b)))

/-- R116, R117, R34, R119: the order of the checks of an access. Rights, then alignment, then bounds, each over every lane before
the next, the lowest failing lane named; then the home checks; a list that passes has an entry for every lane, in order. -/
def Obligations.AccessCheckOrder : Prop :=
  ∀ (s : State) (t : Team) (C : Cap) (r size nonres : Nat) (write : Bool) (offs : List (Nat × Nat)), 0 < size → 20 ≤ r → r < 28 →
    let h := Cap.handle C
    let B := Cap.base C
    let fail (cause detail : Nat) (p : Nat × Nat) : Except Fail (List Acc) :=
      .error { cause := cause, info := infoA (B + p.2) detail, lane := p.1, handle := h, park := false, page := 0 }
    let out := s.access t C [r] size nonres write offs
    let low (bad : Nat × Nat → Prop) (p : Nat × Nat) : Prop := ∃ l1 l2, offs = l1 ++ p :: l2 ∧ bad p ∧ ∀ q ∈ l1, ¬ bad q
    let odd (p : Nat × Nat) : Prop := (B + p.2) % size ≠ 0
    let far (p : Nat × Nat) : Prop := Cap.length C < p.2 + size ∨ 2 ^ 48 ≤ B + p.2
    (∀ p ps, offs = p :: ps → (Cap.rights C).testBit (r - 20) = false → out = fail (rightCause r) r p) ∧
    ((Cap.rights C).testBit (r - 20) = true →
      (∀ p, low odd p → out = fail 0x2A size p) ∧
      ((∀ p ∈ offs, ¬ odd p) →
        (∀ p, low far p → out = fail 0x22 size p) ∧
        ((∀ p ∈ offs, ¬ far p) → ∀ l, out = .ok l → l.map (·.lane) = offs.map (·.1) ∧ l.map (·.off) = offs.map (B + ·.2)))) ∧
    (∀ l, out = .ok l → ∀ a ∈ l, s.translate t.part h a.off size [r] nonres = .ok a.xl)

/-- R153, R339, R340, R341, R342: a CPY that passes every check submits its pieces, one chunk for each acting lane, and its tag
counts one more. The entry's order number is the model's (log entry 4), the alignment of an end is that of base plus offset (log
entry 46), and a queue takes the submissions of one clk in the order of R95 (log entry 87). R111, R160, R343, R344, R345, R346: a
tensor copy and a multicast that pass every check submit one entry each; a multicast that some Ck of its span may not receive
raises MULTICAST_DENIED with the lowest lane that fails, and without submitting lanes nothing fails. Offsets of a tensor copy are
read as 48 bits (log entry 25), and a rank that has retired has no Ck that receives (log entry 45). A saved Ck is read from the
image, whose lines the homes are asked for (R130), and a queue takes the submissions of one clk in the order of R95 (log entry
87). R153, R157, R357, R358 (order numbers: log entry 4; the alignment of the descriptor: log entry 46; submissions of one clk:
log entry 87): a WBLD or WBGTH that passes every check submits one entry to the weight-buffer queue; a WBLD of no tile completes
with no effect. -/
def Obligations.CopyAndBufferIssue : Prop :=
  (∀ (s : State) (t t1 t2 : Team) (b : Bool) (g : Guard) (off : Opd) (sc cnt : Spec) (h z : BitVec 2) (dof dc : Spec)
       (cwc : BitVec 4) (cw : Bool) (tag : BitVec 3) (dcls : BitVec 2) (ssp dsp win : Bool),
     let dst := cpyDst dcls dof
     let C := t.readC (cwc.setWidth 8)
     s.varyingReady t g (opdUse 1 off ++ (if ssp then [] else [RegUse.src 2 .c sc]) ++ [RegUse.src 3 .v cnt] ++ opdUse 4 dst ++
       (if dsp then [] else [RegUse.src 5 .c dc]) ++ if cw then [RegUse.src 6 .c (cwc.setWidth 8)] else []) →
     ¬ (dsp = true ∧ win = true) → t.limbShape (t.execMask g) = none →
     let size := 16 * 2 ^ z.toNat
     let lanes := lanesOf t.lanes (t.execMask g &&& ~~~t.helper)
     let at1 (o : Opd) (l : Nat) : Nat := (laneWord (t.readOpd immZext o) l).toNat
     let valid (l : Nat) : Nat := min (laneWord (t.readV cnt) l).toNat size
     let src := if ssp then none else some (t.readC sc)
     let dstC := if dsp then none else some (t.readC dc)
     let su := (lanes.filter fun l => decide (0 < valid l)).map fun l => (⟨l, at1 off l, valid l⟩ : EndUse)
     let du := lanes.map fun l => (⟨l, at1 dst l, size⟩ : EndUse)
     t.affineUse off (usesMask su) = (t1, none) → t.endFail src win 20 su = none →
     t1.affineUse dst (usesMask du) = (t2, none) → t.endFail dstC false 21 du = none →
     t2.submitFail cw C tag.toNat = none → s.inTurn t 0 →
     exec (.cpy b g off sc cnt h z dof dc cwc cw tag dcls ssp dsp win) s = .next
       ((s.enqueued t false (s.opOf t2 (some tag.toNat) (cwOf cw C)
         (.pieces (lanes.flatMap fun l => t.chunk src dstC win l (at1 off l) (valid l) (at1 dst l) size)) h.toNat)).completed
         t (t2.tagged tag.toNat) 3 b)) ∧
  (∀ (s : State) (t : Team) (b : Bool) (g : Guard) (sd sp sc dc cwc k span : Spec) (off dat : Opd) (h : BitVec 2)
       (ssp dsp cw : Bool) (tag : BitVec 3) (cwk : Spec) (o : BitVec 4),
     let sub (v : State) (C : Cap) (job : Job) : Out := .next
       ((v.enqueued t false (v.opOf t (some tag.toNat) (cwOf cw C) job h.toNat)).completed t (t.tagged tag.toNat) 3 b)
     (s.controlReady t ([⟨1, .s, sd, false, 8, 8⟩, ⟨2, .s, sp, false, 2, 2⟩] ++ (if ssp then [] else [RegUse.src 3 .c sc]) ++
         (if dsp then [] else [RegUse.src 4 .c dc]) ++ if cw then [RegUse.src 5 .c cwc] else []) → t.guardQ g = true →
       let K := t.tensorBlock sd sp
       let src := if ssp then none else some (t.readC sc)
       let dst := if dsp then none else some (t.readC dc)
       t.tensorFail K src dst = none → t.submitFail cw (t.readC cwc) tag.toNat = none → s.inTurn t 0 →
       let e1 := t.endAt src false K.so
       let e2 := t.endAt dst false K.dof
       exec (.cpyt b g sd sp sc h dc cwc ssp dsp cw tag) s
         = sub s (t.readC cwc) (.tensor e1.1 e1.2 e2.1 e2.2 K.r K.y K.z K.srow K.drow K.splane K.dplane)) ∧
     (s.varyingReady t g (opdUse 1 off ++ opdUse 2 dat ++ (if dsp then [] else [RegUse.src 3 .c k]) ++
         if cw then [RegUse.src 4 .c cwk] else []) →
       ∀ (n : Nb) (ox oy sw sh : Nat), t.prm.spanOf t.rank span = some (ox, oy, sw, sh) → s.nb? t.nb = some n →
       t.limbShape (t.execMask g) = none →
       let offs := (lanesOf t.lanes (t.execMask g &&& ~~~t.helper)).map fun l => (l, (laneWord (t.readOpd immZext off) l).toNat)
       let ranks := t.prm.spanRanks ox oy sw sh
       let word (l : Nat) : Word := laneWord (t.readOpd immZext dat) l
       let words (cap : Nat → Cap) : List McWord := ranks.flatMap fun r => offs.map fun p =>
         if dsp then ({ dst := .scratch r, off := p.2, data := word p.1, lane := p.1 } : McWord)
         else { dst := .obj (Cap.handle (cap r)), off := Cap.base (cap r) + p.2, data := word p.1, lane := p.1 }
       let seen := if dsp then s else s.touchCaps n ranks k.toNat
       (dsp = true ∨ s.rankCapBad n ranks k.toNat = none) →
       ∀ (cap : Nat → Cap), (dsp = true → t.multicastPadFail offs = none) → t.submitFail cw (t.readC cwk) tag.toNat = none →
       s.inTurn t 0 →
       let ok (op : Nat) : Prop := dsp = false → ∀ r ∈ ranks, s.rankCap n r k.toNat = some (cap r) ∧
         ∀ p ∈ offs, capReceives op (some (cap r)) p.2 = true
       (ok 0 → exec (.cpymMc b g off dat k h cw cwk tag dsp span) s = sub seen (t.readC cwk) (.multicast 0 (words cap))) ∧
       (ok (o.toNat + 1) → exec (.cpymRd b g off dat k h cw cwk tag dsp o span) s
         = sub seen (t.readC cwk) (.multicast (o.toNat + 1) (words cap))) ∧
       (let refuses (op : Nat) (p : Nat × Nat) : Prop := ∃ r ∈ ranks, capReceives op (s.rankCap n r k.toNat) p.2 = false
        ∀ (l1 l2 : List (Nat × Nat)) (p : Nat × Nat) (op : Nat), dsp = false → offs = l1 ++ p :: l2 → refuses op p →
         (∀ q ∈ l1, ¬ refuses op q) → ∃ info, ∀ i, (op = 0 ∧ i = .cpymMc b g off dat k h cw cwk tag dsp span) ∨
           (op = o.toNat + 1 ∧ i = .cpymRd b g off dat k h cw cwk tag dsp o span) →
           exec i s = .next (seen.takeTrap t { code := 0x2E, info := info, lane := p.1, handle := 0, next := false } false t.pc t.pc
             (some (t.execMask g)))))) ∧
  (∀ (s : State) (t : Team) (b : Bool) (g : Guard) (x y z c : Spec) (h : BitVec 2),
     let C := t.readC c
     let sa := (t.readS x).toNat
     let v := (t.readS y).toNat
     let o := Cap.base C + sa
     let top := Cap.base C + Cap.length C
     let sub (job : Job) : Out := .next ((s.enqueued t true (s.opOf t none none job h.toNat)).completed t t 2 b)
     (s.controlReady t [RegUse.src 1 .s x, RegUse.src 2 .s y, RegUse.src 3 .c c] → t.guardQ g = true →
       let n := v / 2 ^ 16
       v / 2 ^ 10 % 2 ^ 6 = 0 → n ≤ 1024 → sa % 64 = 0 → bit (Cap.rights C) 0 = true →
       (n = 0 → exec (.wbld b g x y c h) s = .next (s.completed t t 2 b)) ∧
       (n ≠ 0 → s.inTurn t 3 → sa + 64 ≤ Cap.length C → o < 2 ^ 48 →
         exec (.wbld b g x y c h) s = sub (.weightLoad (Cap.handle C) o top (v % 1024) n))) ∧
     (s.inTurn t 3 → s.controlReady t [RegUse.src 1 .s x, RegUse.src 2 .s y, RegUse.src 3 .c c, RegUse.src 4 .s z] → t.guardQ g = true →
       let w := (t.readS z).toNat
       v < 1024 → w % 32 = 0 → w / 2 ^ 16 % 32 = 0 → o % 64 = 0 → bit (Cap.rights C) 0 = true → sa + 64 ≤ Cap.length C →
       o < 2 ^ 48 →
       exec (.wbgth b g x y c h z) s = .next ((s.enqueued t true (s.opOf t none none
         (.weightGather (Cap.handle C) o (Cap.base C) top v (w % 2 ^ 16) (w / 2 ^ 16) none) h.toNat)).completed t t 3 b)))

/-- R94, R347, R348, R349, R350: WAITT and WAITW acquire and complete where their condition holds, and sleep where it does not;
under a false guard they have no effect; their run ends in every case. NOTIFY and NOTIFY.ST write the word at its home and make
the mailbox arrival. The order number of a reading is the model's (log entry 4), and both are watched like loads and stores (log
entry 55). R154, R351: QFENCE puts one marker into each queue of its set (the markers are the model's, log entry 47; a clk's
submissions keep the order of R95 and R162, log entry 87), and the empty set raises QFENCE_BAD_QUEUE. -/
def Obligations.WaitAndFenceResults : Prop :=
  (∀ (s : State) (t : Team) (b : Bool) (g : Guard) (mask x y c : Spec) (k : BitVec 2) (a : Acc),
     let C := t.readC c
     let H := Cap.handle C
     let zero : Prop := ∀ i, i < 8 → mask.getLsbD i = true → t.tags[i]?.getD 0 = 0
     let asleep (q : State) (st : TeamStatus) : Out :=
       .next (q.setTeam { t with status := st, sleepClk := s.clk, port := none, runLen := 0 })
     let acquired (q : State) (w : Nat) : Out := .next ((q.selfInvalidate t.core t.part).completed t { t with slept := 0 } w true)
     (s.controlReady t [] →
       (zero → exec (.waitt32 b mask) s = acquired s 1) ∧ (¬ zero → exec (.waitt32 b mask) s = asleep s (.waitTags mask 1)) ∧
       (t.guardQ g = true → (zero → exec (.waitt64 b g mask) s = acquired s 2) ∧
         (¬ zero → exec (.waitt64 b g mask) s = asleep s (.waitTags mask 2))) ∧
       (t.guardQ g = false → exec (.waitt64 b g mask) s = .next (s.completed t t 2 true))) ∧
     (s.controlReady t [RegUse.src 1 .s x, ⟨2, .s, y, false, 2, 2⟩, RegUse.src 3 .c c] → t.guardQ g = false →
       exec (.waitw b g x y c k) s = .next (s.completed t t 2 true)) ∧
     (s.controlReady t [RegUse.src 1 .s x, ⟨2, .s, y, false, 2, 2⟩, RegUse.src 3 .c c] → t.guardQ g = true →
       let p : PendLoad :=
         { seq := s.nextSeq, place := .obj H a.off a.xl.pa, size := 8, signed := false, rq := 1, hint := 0,
           target := { cls := 0, reg := 0, lane := 0, ySlot := 2, first := false, n := 0 }, bound := none, got := none }
       let r := (s.accessL1 t.core t.part a.xl.pa 8).loadBytes t p H a.off a.xl.pa
       let v := leNat r.2
       let holds : Prop := if k = 0 then t.readS64 y ≤ v else if k = 1 then v = t.readS64 y else v ≠ t.readS64 y
       s.access t C [20] 8 0x30 false [(0, (t.readS x).toNat)] = .ok [a] → t.heldLoad t.loads.length p = false →
       (s.servedLocal t p a.xl.pa = true ∨ s.sentBefore t.core p.seq a.xl.pa 8 = false) →
       t.acquirePending p.seq false = false → s.loadBad t p H a.off a.xl.pa = none → t.dbg = 0 →
       (holds → exec (.waitw b g x y c k) s = acquired r.1 2) ∧
       (¬ holds → exec (.waitw b g x y c k) s = asleep r.1 (.waitWord x y c k))) ∧
     (s.controlReady t [RegUse.src 1 .s x, ⟨2, .s, y, false, 2, 2⟩, RegUse.src 3 .c c] → t.guardQ g = true →
       s.access t C [21, 25] 8 0x30 true [(0, (t.readS x).toNat)] = .ok [a] → ODesc.mailbox a.xl.desc = true →
       a.off / 8 < (s.getPart t.part).desc.mailboxes → t.releases = true →
       s.sentBefore t.core s.nextSeq a.xl.pa 8 = false → s.badIn a.xl.pa 8 = none → t.dbg = 0 →
       let op (st : Bool) : PendAtomic :=
         { seq := s.nextSeq, place := .obj H a.off a.xl.pa, size := 8, op := if st then 8 else 0,
           b := BitVec.ofNat 64 (t.readS64 y), c := 0,
           target := { cls := 0, reg := 0, lane := 0, ySlot := 2, first := false, n := 0 }, loc := false,
           acquire := false, release := true, hint := 0 }
       let done (st : Bool) : Out :=
         .next ((((((s.noteAccs t 8 [a]).request t.part H a.off a.xl.pa 8 0).atomicMem t (op st) H a.off a.xl.pa).1.arrival t.part (a.off / 8)).completed t t 2 b).stamp)
       exec (.notify b g x y c) s = done false ∧ exec (.notifySt b g x y c) s = done true)) ∧
  (∀ (s : State) (t : Team) (b : Bool) (set : BitVec 4), s.controlReady t [] →
     let id := s.nextId
     let n := set.toNat
     let op := fenceOp t id n s.nextSeq
     let rq := fenceReq t id n s.nextSeq s.clk
     let xs := (queuesOf n).map (t.sentTo true)
     (set ≠ 0 → s.sentLate t.core xs = false → exec (.qfence b set) s = .next
       ((((({ s with nextId := id + 1 }).mapCore t.core fun c =>
         { c with
             copyQ := c.copyQ ++ (if set.getLsbD 0 then [op] else [])
             slotA := { c.slotA with queue := c.slotA.queue ++ (if set.getLsbD 1 then [rq] else []) }
             slotB := { c.slotB with queue := c.slotB.queue ++ (if set.getLsbD 2 then [rq] else []) }
             wbQ := c.wbQ ++ (if set.getLsbD 3 then [op] else []) }).settleCore t.core).noteSent t.core xs).completed t t 1 b)) ∧
     (exec (.qfence b 0) s = .next (s.takeTrap t { code := 0x45, info := 0, lane := 0, handle := 0, next := false } false t.pc t.pc none)))

/-- R191, R192, R352, R353, R354: an ISEND that passes every check puts one request per pass into its slot's queue, counts its
tag and owes one entry of each named line for each pass; the requests of .SYNC bear its release and the invalidation of the
slot's cache, which come before they perform; neither form stops the team. LSTAT reads a line. The order number is the model's
(log entry 4), and a queue takes the submissions of one clk in the order of R95 (log entry 87). R355: TRICLS. With the six
coordinates as signed numbers, `a` the exact doubled area: a triangle is dropped (Pe) where `a` is 0 or has the culled sign, and
is big (Pd) where an extent reaches 256 × LIM; a coordinate outside −2^23 … 2^23 − 1 makes it big. -/
def Obligations.IslandInstructionResults : Prop :=
  (∀ (s : State) (t : Team) (b : Bool) (g : Guard) (w0 w1 w2 w3 w4 d x : Spec) (h : BitVec 2) (ks : BitVec 2) (ld cls : BitVec 3)
       (slot : Bool) (tag : BitVec 3) (cn : BitVec 4),
     let sl := if slot then 1 else 0
     let m := t.execMask g
     let k := match ks.toNat with | 0 => 0 | 1 => 1 | 2 => 2 | _ => 4
     let e : Isend :=
       { words := [w0, w1, w2, w3, w4], k := k, ld := ld.toNat, cls := cls.toNat, slot := sl, hint := h.toNat, tag := tag.toNat,
         cn := cn.setWidth 8 }
     let lineSize (q : Team) (i : Nat) : Nat := match q.lines[i]? with | none => 0 | some l => l.entries.length + l.owed.length
     let sent (i : Instr) (sync : Bool) : Prop := ∃ (t1 : Team) (rs : List IslandReq),
       exec i s = .next ((((({ s with nextId := s.nextId + 1, nextSeq := s.nextSeq + 1 }).mapSlot t.core sl fun y =>
         { y with queue := y.queue ++ rs }).noteSent t.core [t.sentTo false (1 + sl)]).completed t t1 3 b)) ∧
       t1 = { t with lines := t1.lines, tags := modifyAt t.tags tag.toNat fun n => n + 1 } ∧
       (∀ i, i < t.lines.length →
         lineSize t1 i = lineSize t i + (if ld.toNat ≤ i ∧ i < ld.toNat + k then (passes m).length else 0)) ∧
       rs.length = (passes m).length ∧
       ∀ n r, rs[n]? = some r → r.pass = n ∧ r.uid = t.uid ∧ r.sync = sync ∧ r.cls = cls.toNat ∧ r.k = k ∧ r.line = ld.toNat ∧ r.tag = tag.toNat ∧
         r.cap = t.readC (cn.setWidth 8) ∧ (r.last = true ↔ n + 1 = (passes m).length) ∧
         r.lanes.map (·.lane) = (lanesOf t.lanes (m &&& ~~~t.helper)).filter (fun l => passOfLane (passes m) l == n) ∧
         ∀ l ∈ r.lanes, l.words = [w0, w1, w2, w3, w4].map fun w => laneWord (t.readV w) l.lane
     (s.varyingReady t g [RegUse.src 1 .v w0, RegUse.src 2 .v w1, RegUse.src 3 .v w2, RegUse.src 4 .v w3, RegUse.src 5 .v w4] →
       (s.getSlot t.core sl).reloading = false → s.isendFail t e m = none → s.inTurn t (1 + sl) →
       sent (.isend b g w0 w1 w2 h w3 w4 ks ld cls slot tag cn) false ∧
       sent (.isendSync b g w0 w1 w2 h w3 w4 ks ld cls slot tag cn) true) ∧
     (s.uniformReady t [RegUse.dest 0 .s d, RegUse.src 1 .l x] →
       let l := t.lines[x.toNat]?.getD { entries := [], owed := [] }
       let v := BitVec.ofNat 32 (l.entries.length + 16 * l.owed.length + if s.parkedOwer t l then 256 else 0)
       exec (.lstat32 b d x) s = .next (s.completed t (t.writeS d v) 1 b) ∧
       (t.guardQ g = true → exec (.lstat64 b g d x) s = .next (s.completed t (t.writeS d v) 2 b)))) ∧
  (∀ (s : State) (t : Team) (b : Bool) (g : Guard) (d pe : BitVec 3) (x : Spec) (cull : BitVec 2) (lim : Byte),
     s.varyingReady t g [⟨1, .v, x, false, 6, 1⟩] →
     let m := t.execMask g
     let c (i l : Nat) : Int := (laneWord (t.readV (if x = 0xFF then x else x + BitVec.ofNat 8 i)) l).toInt
     let wide (l : Nat) : Prop := ∃ i, i < 6 ∧ (c i l < -8388608 ∨ 8388607 < c i l)
     let a (l : Nat) : Int := (c 2 l - c 0 l) * (c 5 l - c 1 l) - (c 3 l - c 1 l) * (c 4 l - c 0 l)
     let drop (l : Nat) : Prop := ¬ wide l ∧ (a l = 0 ∨ (cull = 1 ∧ a l < 0) ∨ (cull = 2 ∧ 0 < a l))
     let far (l : Nat) : Prop := ∃ i j, i < 6 ∧ j < 6 ∧ i % 2 = j % 2 ∧ 256 * (lim.toNat : Int) ≤ c i l - c j l
     let big (l : Nat) : Prop := wide l ∨ (far l ∧ ¬ drop l)
     ∃ p q : LaneMask, (∀ l, l < t.lanes → l < 1024 → (p.getLsbD l = true ↔ big l) ∧ (q.getLsbD l = true ↔ drop l)) ∧
       exec (.tricls b g d x cull pe lim) s = .next (s.completed t ((t.writeP m d p).writeP m pe q) 3 b))

/-- R113, R369: LBIND binds 2^lg lanes where no such group of the launched or active mask is split, and has no effect but
LIMB_SHAPE where one is; LUNBIND unbinds. Which mask and lane that trap names is the model's reading (log entry 18). R370, R371,
R372, R373: the limb instructions over bound groups of n lanes: a group reads as one number of 32·n bits, limb 0 in its first
lane. LADD.TC and LSUB.TC take LIMB_CARRY_TRAP, after the results are written, for the lowest group of the mask that carries or
borrows; its form-M word is of the groups that do (log entry 18). R113, R370, R374: the checks of the limb instructions. With no
limbs bound every one raises LIMB_UNBOUND; where a bound group is split by the mask, LIMB_SHAPE names the first lane of the first
such group (log entry 18); and an LMACS whose limb the groups do not have raises LIMB_SHAPE. No register is written. R374, R371:
LMACS adds the product of the group A and one limb j of B, at limb j, to the pair Dhi:D; a set .TC takes LIMB_CARRY_TRAP for the
lowest group that carries (its form-M word: log entry 18). The last-result registers do not advance. -/
def Obligations.LimbResults : Prop :=
  (∀ (s : State) (t : Team) (b : Bool) (lg : BitVec 3), s.controlReady t [] →
     let split (m : LaneMask) (k : Nat) : Prop := k < t.lanes / 2 ^ lg.toNat ∧
       (∃ i, i < 2 ^ lg.toNat ∧ m.getLsbD (k * 2 ^ lg.toNat + i) = true) ∧
       (∃ i, i < 2 ^ lg.toNat ∧ m.getLsbD (k * 2 ^ lg.toNat + i) = false)
     (lg ≠ 0 → (∀ k, ¬ split t.launched k ∧ ¬ split t.active k) →
       exec (.lbind b lg) s = .next (s.completed t { t with limb := lg.toNat } 1 b)) ∧
     (lg ≠ 0 → (∃ k, split t.launched k ∨ split t.active k) → ∃ k m, (m = t.launched ∨ m = t.active) ∧ split m k ∧
       (∀ k' < k, ¬ split m k') ∧
       exec (.lbind b lg) s = .next (s.takeTrap t
         { code := 0x1B, info := infoM m (k * 2 ^ lg.toNat), lane := 0, handle := 0, next := false } false t.pc t.pc none)) ∧
     exec (.lunbind b) s = .next (s.completed t { t with limb := 0 } 1 b)) ∧
  (∀ (s : State) (t : Team) (b : Bool) (g : Guard) (d x y : Spec) (po cc : BitVec 3) (ci : Bool) (u v : Opd) (n : Nat),
     t.limb ≠ 0 → n = 2 ^ t.limb → t.limbShape (t.execMask g) = none →
     let m := t.execMask g
     let W := 2 ^ (32 * n)
     let num (row : List Word) (l : Nat) : Nat :=
       ((List.range n).map fun i => (laneWord row (l / n * n + i)).toNat * 2 ^ (32 * i)).sum
     let spread (f : Nat → Nat) : List Word := (List.range t.lanes).map fun l => BitVec.ofNat 32 (f l / 2 ^ (32 * (l % n)))
     let flag (f : Nat → Bool) : LaneMask := mkMask ((List.range t.lanes).map f)
     let X := num (t.readV x)
     let Y := num (t.readV y)
     let c (l : Nat) : Nat := if ci && (t.readP po).getLsbD (l / n * n) then 1 else 0
     n ∣ t.lanes →
     (s.varyingReady t g [RegUse.dest 0 .v d, RegUse.src 1 .v x, RegUse.src 2 .v y] →
       let adds (i : Bool → Instr) (res : Nat → Nat) (co : Nat → Bool) : Prop :=
         let t1 := (t.writeV m d (spread res)).writeP m po (flag co)
         let carry (l : Nat) : Prop := l < t.lanes ∧ m.getLsbD l = true ∧ co l = true
         (∀ tc, tc = false ∨ (∀ l, ¬ carry l) → exec (i tc) s = .next (s.completed t t1 2 b)) ∧
         (∀ l, carry l → (∀ k, k < l → ¬ carry k) → exec (i true) s = .next ((s.setTeam t1).takeTrap (t.next t1 2 b)
           { code := 0x4E, info := infoM (m &&& flag co) l, lane := l, handle := 0, next := false } false t.pc (t.pc + 8) (some m)))
       adds (fun tc => .ladd b g d x y po tc ci) (fun l => (X l + Y l + c l) % W) (fun l => decide (W ≤ X l + Y l + c l)) ∧
       adds (fun tc => .lsub b g d x y po tc ci) (fun l => (X l + 2 * W - Y l - c l) % W) (fun l => decide (X l < Y l + c l))) ∧
     (s.varyingReady t g (RegUse.dest 0 .v d :: (opdUse 1 u ++ opdUse 2 v)) →
       let A := num (t.readOpd immZext u)
       let k (l : Nat) : Nat := (laneWord (t.readOpd immZext v) (l / n * n)).toNat % 32
       exec (.lshl b g d u v) s = .next (s.completed t (t.writeV m d (spread fun l => A l * 2 ^ k l % W)) 2 b) ∧
       exec (.lshr b g d u v) s = .next (s.completed t (t.writeV m d (spread fun l => A l / 2 ^ k l)) 2 b)) ∧
     (s.varyingReady t g [RegUse.src 1 .v x, RegUse.src 2 .v y] →
       let S (z : Nat) : Int := if 2 * z < W then z else (z : Int) - W
       exec (.lcmp b g cc po x y) s = .next (s.completed t (t.writeP m po (flag fun l =>
         match cc.toNat with
         | 0 => decide (X l = Y l)
         | 1 => decide (X l ≠ Y l)
         | 2 => decide (S (X l) < S (Y l))
         | 3 => decide (S (X l) ≤ S (Y l))
         | 4 => decide (S (Y l) < S (X l))
         | 5 => decide (S (Y l) ≤ S (X l))
         | 6 => decide (X l < Y l)
         | _ => decide (X l ≤ Y l))) 2 b))) ∧
  (∀ (s : State) (t : Team) (b : Bool) (g : Guard) (d x y dhi : Spec) (po cc : BitVec 3) (tc ci : Bool) (j : BitVec 5) (u v : Opd)
       (i : Instr) (f : Fields) (us : List RegUse),
     (i, us) ∈ [(Instr.ladd b g d x y po tc ci, [RegUse.dest 0 .v d, RegUse.src 1 .v x, RegUse.src 2 .v y]),
       (.lsub b g d x y po tc ci, [RegUse.dest 0 .v d, RegUse.src 1 .v x, RegUse.src 2 .v y]),
       (.lshl b g d u v, RegUse.dest 0 .v d :: (opdUse 1 u ++ opdUse 2 v)),
       (.lshr b g d u v, RegUse.dest 0 .v d :: (opdUse 1 u ++ opdUse 2 v)),
       (.lcmp b g cc po x y, [RegUse.src 1 .v x, RegUse.src 2 .v y]),
       (.lmacs b g d x y dhi tc j, [RegUse.dest 0 .v d, RegUse.src 1 .v x, RegUse.src 2 .v y, RegUse.dest 3 .v dhi])] →
     encodeFields i = some f → s.varyingReady t g us →
     let m := t.execMask g
     let n := 2 ^ t.limb
     let split (k : Nat) : Prop := k < t.lanes / n ∧ (∃ e, e < n ∧ m.getLsbD (k * n + e) = true) ∧ (∃ e, e < n ∧ m.getLsbD (k * n + e) = false)
     let trap (code info l : Nat) : Out :=
       .next (s.takeTrap t { code := code, info := info, lane := l, handle := 0, next := false } false t.pc t.pc (some m))
     (t.limb = 0 → exec i s = trap 0x1A (infoW f.word0 0 3) 0) ∧
     (t.limb ≠ 0 → ∀ k, split k → (∀ k', k' < k → ¬ split k') → exec i s = trap 0x1B (infoM m (k * n)) (k * n)) ∧
     (t.limb ≠ 0 → (∀ k, ¬ split k) → i = .lmacs b g d x y dhi tc j → n ≤ j.toNat → ∀ l, l < t.lanes → m.getLsbD l = true →
       (∀ k, k < l → m.getLsbD k = false) → exec i s = trap 0x1B (infoM m l) l)) ∧
  (∀ (s : State) (t : Team) (b : Bool) (g : Guard) (d x y dhi : Spec) (tc : Bool) (j : BitVec 5) (n : Nat),
     t.limb ≠ 0 → n = 2 ^ t.limb → t.limbShape (t.execMask g) = none → n ∣ t.lanes → j.toNat < n →
     s.varyingReady t g [RegUse.dest 0 .v d, RegUse.src 1 .v x, RegUse.src 2 .v y, RegUse.dest 3 .v dhi] →
     let m := t.execMask g
     let W := 2 ^ (32 * n)
     let num (row : List Word) (l : Nat) : Nat :=
       ((List.range n).map fun i => (laneWord row (l / n * n + i)).toNat * 2 ^ (32 * i)).sum
     let e (l : Nat) : Nat := num (t.readV d) l + num (t.readV dhi) l * W +
       num (t.readV x) l * (laneWord (t.readV y) (l / n * n + j.toNat)).toNat * 2 ^ (32 * j.toNat)
     let spread (f : Nat → Nat) : List Word := (List.range t.lanes).map fun l => BitVec.ofNat 32 (f l / 2 ^ (32 * (l % n)))
     let t1 := (t.putV m d (spread fun l => e l % W)).putV m dhi (spread fun l => e l / W % W)
     let carry (l : Nat) : Prop := l < t.lanes ∧ m.getLsbD l = true ∧ W * W ≤ e l
     let out := mkMask ((List.range t.lanes).map fun l => m.getLsbD l && decide (W * W ≤ e l))
     (tc = false ∨ (∀ l, ¬ carry l) → exec (.lmacs b g d x y dhi tc j) s = .next (s.completed t t1 3 b)) ∧
     (tc = true → ∀ l, carry l → (∀ k, k < l → ¬ carry k) →
       exec (.lmacs b g d x y dhi tc j) s = .next ((s.setTeam t1).takeTrap (t.next t1 3 b)
         { code := 0x4E, info := infoM out l, lane := l, handle := 0, next := false } false t.pc (t.pc + 12) (some m))))

/-- R360, R361, R362, R363, R364, R365: an MMA that passes its checks and waits for no line accumulates, for each column n of 32,
one block after another into Vc+n of the acting lanes, pops the lines it read, and leaves one AMAX drain where .AMAX is set,
whose order number is the model's (log entry 4). An MMA waits while its core's weight-buffer queue may still write a unit that it
reads (log entry 26), and a drain to a region attached to no instance is noted (log entry 87). R167, R229, R366, R367: an MMAS
with a non-zero scale type in a row byte raises SCALE_TYPE, with the row's lane in LANE, rows being judged before columns; an
MMAS that passes its checks writes one block sum for each block and column of the acting lanes; SCACC scales and adds the block
sums that it is given. -/
def Obligations.MatrixResults : Prop :=
  (∀ (s : State) (t : Team) (b : Bool) (g : Guard) (a vc : Spec) (h : BitVec 2) (z amax : Bool) (su cn : Spec) (ln : Bool)
       (fa : BitVec 5) (km1 : BitVec 7) (o : MatOp) (accs : List Acc),
     s.varyingReady t g ([matUses ln a fa km1, vGroup 2 vc true 32, RegUse.src 4 .s su] ++
       if amax then [RegUse.src 5 .c cn] else []) →
     let m := t.execMask g
     let live := m &&& ~~~t.helper
     let C := t.readC cn
     s.matSetup t m fa km1 su false ln a = .ok o → (amax = true → s.amaxTarget t C = .ok accs) → (amax = false → accs = []) →
     (ln = true → s.lineWait t a.toNat o.nw (passCount m) = none) → t.prm.fptrap = 0 → t.dbg = 0 →
     let tiles := (s.getCore t.core).tiles o
     let fmt := o.blockFmt false 0 0
     let codes (l n j tile : Nat) : List (Nat × Nat) :=
       blockCodes (o.fa % 16) (o.fb % 16) (t.matRow ln a o.nw (passes m) l) (tileColumn (o.fb % 16) tile n) j o.k
     let start (l n : Nat) : Word := if z then 0 else laneWord (t.readV (vc + BitVec.ofNat 8 n)) l
     let cell (n l : Nat) : Word × FFlags :=
       (List.zip (List.range tiles.length) tiles).foldl (fun r p =>
         let q := accBlock fmt r.1 (codes l n p.1 p.2)
         (q.1, r.2 ||| q.2)) (start l n, 0)
     let rows := (List.range 32).map fun n => (List.range t.lanes).map fun l => if live.getLsbD l then cell n l else (0, 0)
     let t1 := (t.putResults live vc rows).1.popLines ln a.toNat o.nw (passCount m)
     let top := amaxOf fmt.isInt live (rows.map fun row => row.map (·.1))
     let drains : List PendAtomic := if live = 0 then [] else accs.map fun q =>
       { seq := s.nextSeq, place := .obj (Cap.handle C) q.off q.xl.pa, size := 4, op := 4, b := BitVec.ofNat 64 top, c := 0,
         target := { cls := 0, reg := 0, lane := 0, ySlot := 2, first := false, n := 0 }, loc := false, acquire := false,
         release := false, hint := h.toNat }
     exec (.mma b g a vc h z amax su cn ln fa km1) s
       = .next ((if live = 0 then s else s.noteAccs t 4 accs).completed t { t1 with atomics := t1.atomics ++ drains } 3 b).stamp) ∧
  (∀ (s : State) (t : Team) (b : Bool) (g : Guard) (d a vp vs su : Spec) (ln z : Bool) (fa : BitVec 5) (km1 : BitVec 7) (o : MatOp),
     let nb := ceilDiv (km1.toNat + 1) 32
     let m := t.execMask g
     let live := m &&& ~~~t.helper
     let core := s.getCore t.core
     let word (r : Spec) (i l : Nat) : Word := laneWord (t.readV (r + BitVec.ofNat 8 i)) l
     let scale (l j : Nat) : Nat := (laneWord (t.readV vs) l).toNat / 2 ^ (8 * j) % 256
     let full (f : Nat → Word × FFlags) : List (Word × FFlags) :=
       (List.range t.lanes).map fun l => if live.getLsbD l then f l else (0, 0)
     t.prm.fptrap = 0 →
     (s.varyingReady t g [vGroup 0 d true (32 * nb), matUses ln a fa km1, RegUse.src 3 .v vs, RegUse.src 4 .s su] →
       s.matSetup t m fa km1 su true ln a = .ok o → scaleFail o (lanesOf t.lanes live) (t.readV vs) (core.tiles o) = none →
       (ln = true → s.lineWait t a.toNat o.nw (passCount m) = none) →
       let tiles := core.tiles o
       let cell (j tile n l : Nat) : Word × FFlags :=
         blockSum (o.blockFmt true (scale l j) (scaleByte tile n)) (blockCodes (o.fa % 16) (o.fb % 16)
           (t.matRow ln a o.nw (passes m) l) (tileColumn (o.fb % 16) tile n) j o.k)
       let rows := (List.zip (List.range tiles.length) tiles).flatMap fun p => (List.range 32).map fun n => full (cell p.1 p.2 n)
       exec (.mmas b g d a vs su ln fa km1) s = .next (s.completed t
         ((t.putResults live d rows).1.popLines ln a.toNat o.nw (passCount m)) 3 b)) ∧
     (s.varyingReady t g [vGroup 0 d true (32 * nb), matUses ln a fa km1, RegUse.src 3 .v vs, RegUse.src 4 .s su] →
       s.matSetup t m fa km1 su true ln a = .ok o → o.q4 = false →
       let wide (l j : Nat) : Prop := l < t.lanes ∧ live.getLsbD l = true ∧ j < o.nb ∧ scale l j / 64 ≠ 0
       ∀ l j, wide l j → (∀ l' j', l' < l → ¬ wide l' j') → (∀ j', j' < j → ¬ wide l j') →
         exec (.mmas b g d a vs su ln fa km1) s = .next (s.takeTrap t
           { code := 0x4C, info := l + j * 2 ^ 16, lane := l, handle := 0, next := false } false t.pc t.pc (some m))) ∧
     (s.varyingReady t g [vGroup 0 d true 32, vGroup 1 vp false (32 * nb), RegUse.src 3 .v vs, RegUse.src 4 .s su] →
       s.matSetup t m fa km1 su true false 0 = .ok o →
       let heads := (List.range o.nb).map fun j => core.header (o.u + j * o.units)
       let cell (n l : Nat) : Word × FFlags :=
         (List.zip (List.range heads.length) heads).foldl (fun r p =>
           let q := scaleAcc o.isInt o.q4 r.1 (word vp (32 * p.1 + n) l) (scale l p.1 % 64) (scaleByte p.2 n % 64)
           (q.1, r.2 ||| q.2)) (if z then 0 else word d n l, 0)
       exec (.scacc b g d vp vs z su fa km1) s = .next (s.completed t
         (t.putResults live d ((List.range 32).map fun n => full (cell n))).1 3 b)))

/-- R54, R55: BFX, RFETCH and SIGW on a gondola core: rd, x0 always reading 0, the pc, and the packet buffer or the signal taken.
What rd or mtval holds where the spec states no value is a free value (log entries 23, 29); the trap registers are those of
RISC-V (PRESUMED, log entry 7); and an RFETCH reads at most 16 entries, one not yet published as empty (log entry 68). R55, R61,
R64, R65, R66: DSPT, QPARK and QWAKE on a queue that exists, and their traps. DSPT judges the buffer's TYPE before its queue (log
entry 41). -/
def Obligations.GondolaResults : Prop :=
  (∀ (s : State) (c : GCore) (rd rs pos len1 : BitVec 5), s.gcores[s.gcur]? = some c →
     let v := c.reg rs
     let p := v.toNat % 4096 / 16
     let q := v.toNat % 16
     let mask := v.toNat % 32
     let trap (k : Nat) (w : Word) : Out := .next (s.gondolaTrap s.gcur (BitVec.ofNat 32 k) w)
     (pos.toNat + len1.toNat + 1 ≤ 32 → exec (.bfx rd rs pos len1) s
       = .next (s.gondolaDone s.gcur rd (BitVec.ofNat 32 (v.toNat / 2 ^ pos.toNat % 2 ^ (len1.toNat + 1))))) ∧
     (32 < pos.toNat + len1.toNat + 1 →
       exec (.bfx rd rs pos len1) s = trap 25 ((encodeXgnd (.bfx rd rs pos len1)).getD 0)) ∧
     (s.served s.gcur p q = false → exec (.rfetch rd rs) s = trap 28 (BitVec.ofNat 32 (v.toNat % 4096))) ∧
     (s.served s.gcur p q = true → s.fetchPacket p q = .ok none → exec (.rfetch rd rs) s
       = .next ((if (s.getQueue p q).qrd = (s.getQueue p q).qwr then s else s.touchRing p q 4).gondolaDone s.gcur rd 0)) ∧
     (∀ bs, s.served s.gcur p q = true → s.fetchPacket p q = .ok (some bs) →
       let n := 32 * min 16 (bits (leNat (bs.take 4)) 28 24)
       exec (.rfetch rd rs) s = .next (State.gondolaDone { s.touchRing p q bs.length with gcores := modifyAt s.gcores s.gcur fun x =>
         { x with buf := bs.take n ++ x.buf.drop n } } s.gcur rd (BitVec.ofNat 32 (leNat (bs.take 4))))) ∧
     (∀ k i, mask ≠ 0 → s.lowestSignal s.gcur mask = some (k, i) →
       exec (.sigw rd rs) s = .next (State.gondolaDone { s with signals := s.signals.filter fun y => y != (k, i) } s.gcur rd
         (BitVec.ofNat 32 (k * 2 ^ 16 + i % 2 ^ 16)))) ∧
     (mask ≠ 0 → s.lowestSignal s.gcur mask = none → exec (.sigw rd rs) s = .next s) ∧
     c.reg 0 = 0 ∧ (∀ w, c.setReg 0 w = c) ∧
     (∀ r w, r ≠ 0 → r.toNat < c.x.length → (c.setReg r w).reg r = w)) ∧
  (∀ (s s1 : State) (c : GCore) (rd rs rt : BitVec 5), s.gcores[s.gcur]? = some c →
     let v := c.reg rs
     let p := v.toNat % 4096 / 16
     let q := v.toNat % 16
     let qi := BitVec.ofNat 32 (v.toNat % 4096)
     (s.queueExists p q = true →
       (field c.buf 0 1 = 1 → (s.getQueue p q).slot = none →
         (s.touchRecord p (c.buf.take 32) true).acceptLaunch p q (c.buf.take 32) = .ok s1 →
         exec (.dspt rd rs) s = .next (s1.gondolaDone s.gcur rd 0)) ∧
       (field c.buf 0 1 = 1 → (s.getQueue p q).slot ≠ none → exec (.dspt rd rs) s = .next (s.gondolaDone s.gcur rd 1)) ∧
       exec (.qpark rs rt) s = .next ((s.parkQueue p q
         { cause := (c.reg rt).toNat % 256, info := 0, fo := 0, handle := 0, key := none } 0).gondolaDone s.gcur 0 0) ∧
       ((s.getQueue p q).st = .parked → exec (.qwake rs) s = .next (((s.mapQueue p q fun y =>
         { y with st := .running, retry := false, started := y.started.map fun k => { k with stuck := false } }).raiseSignal 0
           (p * 16 + q)).gondolaDone s.gcur 0 0))) ∧
     (field c.buf 0 1 ≠ 1 →
       exec (.dspt rd rs) s = .next (s.gondolaTrap s.gcur 27 (BitVec.ofNat 32 (field c.buf 0 1)))) ∧
     (s.queueExists p q = false → field c.buf 0 1 = 1 → exec (.dspt rd rs) s = .next (s.gondolaTrap s.gcur 28 qi)) ∧
     (s.queueExists p q = false → exec (.qpark rs rt) s = .next (s.gondolaTrap s.gcur 28 qi)))

/-- R165, R166, R244: an instruction that cannot be decoded takes its cause (ILL_OPCODE and the others that R244 lists), with
form W of R165 in INFO, the word, the word index and the lowest bit of the field, and has no effect. -/
def Obligations.IllegalInstructionTrap : Prop :=
  ∀ (s : State) (t : Team) (cause : Byte) (w0 : Word) (idx : BitVec 2) (bitPos : BitVec 5), s.team? s.cur = some t → t.canIssue = true →
    exec (.ill cause w0 idx bitPos) s = .next (s.takeTrap t
      { code := cause.toNat, info := w0.toNat + idx.toNat * 2 ^ 32 + bitPos.toNat * 2 ^ 34, lane := 0, handle := 0, next := false }
      false t.pc t.pc none)

/-- R26, R27, R28, R29, R30, R43, R44, R45, R46, R70, R71: resets, FREEZE and the boot registers. `boots q` says what the boot
chain leaves. In recovery BOOT.RECOVER puts an image that passes into the flash and restarts the machine, and sets STAT to 2 for
one that fails (R45). A warm reset keeps the wake words and mailbox counts, and the pending bits until firmware that starts has
reported them; the debug port asks for none on a locked part. FREEZE logs itself and each link that goes down. The model's
choices: the place of the firmware body in the gondola's memory (log entry 7), that DSEC is hashed little-endian (log entry 74),
BOOT.IDKEY 0 in recovery (log entry 8), and no link-change entry at a reset (log entry 73), and a BOOT.RECOVER write of an
address that names no image is ignored (log entry 90). -/
def Obligations.ResetAndBootResults : Prop :=
  ∀ (s : State) (cause : Byte) (addr n : Nat),
    let boots (q : State) : Prop := q.fuses.dsecLocked = true ∧
      (checkFirmware s.fuses s.flash = none → q.boot.stat = 1 ∧ q.boot.idKey = 0) ∧
      (∀ f, checkFirmware s.fuses s.flash = some f → q.boot.stat = 0 ∧ q.boot.fwVersion = f.version ∧
        q.boot.idKey = packBytes 256 (edPublic ((sha512 (ascii "K96 identity" ++ leBytes 32 s.fuses.dsec.toNat)).take 32)) ∧
        q.gcores.map (·.pc) = List.replicate 4 (BitVec.ofNat 32 f.entry))
    let anew (q : State) : Prop := q.cores = State.reset.cores ∧ q.teams = [] ∧ q.nbs = [] ∧ q.launches = [] ∧ q.signals = [] ∧
      q.ports = State.reset.ports ∧ q.outputs = State.reset.outputs ∧ q.frozen = false ∧ q.sizeGiB = s.sizeGiB ∧ q.flash = s.flash ∧
      q.fuses.svc = s.fuses.svc ∧ q.badBlocks = s.badBlocks
    let asked : Prop := cause = 1 ∨ cause = 2 ∨ (cause = 3 ∧ s.fuses.debugLock = false)
    (∃ q, exec .coldReset s = .next q ∧ anew q ∧ boots q ∧ q.parts = State.reset.parts ∧ q.devTime = 0 ∧ q.flogNext = 1 ∧
      q.flog.length = 1) ∧
    (asked → ∃ q, exec (.warmReset cause) s = .next q ∧ anew q ∧ boots q ∧ q.devTime = s.devTime ∧ q.timeSynced = false ∧
      q.parts.length = s.parts.length ∧
      (∀ i p, s.parts[i]? = some p → ∃ r, q.parts[i]? = some r ∧ r.st = (if i = 0 then .runnable else .free) ∧ r.desc = Desc.reset ∧
        r.queues.map (fun x => (x.qwr, x.en, x.slot)) = p.queues.map (fun x => (x.qwr, false, none)) ∧
        r.mailboxes.map (fun m => (m.count, m.overflow)) = p.mailboxes.map (fun m => (m.count, m.overflow)) ∧
        r.pendBits = (if q.boot.stat = 0 then 0 else p.pendBits)) ∧
      (q.boot.stat ≠ 0 ∨ s.parts.all (fun p => p.pendBits == 0) = true → q.flogNext = (s.flogNext + 1) % 4096)) ∧
    (¬ asked → exec (.warmReset cause) s = .next s) ∧
    (s.frozen = false → s.ports.length = 2 → ∃ q, exec (.freeze true) s = .next q ∧ q.frozen = true ∧
      q.ports.all (fun p => !p.link) = true ∧ q.flogNext = (s.flogNext + 1 + s.ports.countP (·.link)) % 4096 ∧ q.mem = s.mem ∧
      q.teams = s.teams ∧ q.devTime = s.devTime) ∧
    exec (.freeze false) s = .next s ∧
    (s.boot.stat = 0 → exec (.bootRecover addr) s = .next s) ∧
    (s.boot.stat ≠ 0 → addr % 4096 ≠ 0 ∨ s.capacity ≤ addr → exec (.bootRecover addr) s = .next s) ∧
    (s.boot.stat ≠ 0 → addr % 4096 = 0 → addr < s.capacity →
      let n := 0x80 + min (s.homeNat (addr + 0xC) 4) 4194304
      let img := s.homeBytes addr n
      s.badIn addr 0x80 = none → s.badIn addr n = none →
      (checkFirmware s.fuses img = none → exec (.bootRecover addr) s = .next { s with boot := { s.boot with stat := 2 } }) ∧
      (∀ f, checkFirmware s.fuses img = some f → ∃ q, exec (.bootRecover addr) s = .next q ∧ q.flash = img ∧ q.boot.stat = 0)) ∧
    (s.fuses.svc ≤ n → n ≤ s.boot.fwVersion → n ≤ 64 →
      exec (.bootSvcset n) s = .next { s with fuses := { s.fuses with svc := n } }) ∧
    (n < s.fuses.svc ∨ s.boot.fwVersion < n → exec (.bootSvcset n) s = .next s)

/-- R5, R8, R9, R10, R11, R31, R70, R178: errors found in memory and in register files, the counters, the power domains and the
gate of the notify aperture. No register shows the count of corrected single-bit errors (log entry 16); which channel holds a
block is free (log entry 20); the entry for a frame of partition 0 is the model's choice (log entry 75). -/
def Obligations.ErrorAndPowerResults : Prop :=
  ∀ (s : State) (addr core c d mv : Nat) (arr : Byte),
    let ch (x : Nat) : Nat := (Config.channel (x / 64)).val
    let up (l : List Word) (i : Nat) : List Word := modifyAt l i fun w => if w = 0xFFFFFFFF then w else w + 1
    (addr < s.capacity →
      (∀ k, k = 0 ∨ k = 2 → ∃ q, exec (.patrolScrub addr k) s = .next q ∧ q.cecnt = up s.cecnt (ch addr) ∧ q.uecnt = s.uecnt ∧
        q.mem = s.mem ∧ q.badBlocks = s.badBlocks ∧ q.flogNext = (s.flogNext + 1) % 4096) ∧
      (∀ k, k = 1 ∨ k = 3 → s.frameOwner addr = none → ∃ q, exec (.patrolScrub addr k) s = .next q ∧
        q.uecnt = up s.uecnt (ch addr) ∧ q.cecnt = s.cecnt ∧ q.isBad (addr / 64) = true ∧ q.mem = s.mem ∧ q.parts = s.parts) ∧
      (∀ k p, k = 1 ∨ k = 3 → s.frameOwner addr = some p → p ≠ 0 → (s.getPart p).st = .runnable → p < s.parts.length →
        s.tbl.stops = [] → s.tbl.cmd = none → ∃ q, exec (.patrolScrub addr k) s = .next q ∧ (q.getPart p).st = .stopped ∧
          q.uecnt = up s.uecnt (ch addr) ∧ ∀ t ∈ q.teams, t.part ≠ p) ∧
      exec (.patrolScrub addr 4) s = .next (s.markBad (addr / 64))) ∧
    (∀ p, (s.getPart p).st ≠ .runnable → (s.getPart p).st ≠ .resetting → exec (.eccRegfile core arr [p]) s
      = .next (s.flight 0x01 0x3A p (core % 128 + arr.toNat % 16 * 256))) ∧
    (∀ p, p ≠ 0 → p < s.parts.length → (s.getPart p).st = .runnable → s.tbl.stops = [] → s.tbl.cmd = none →
      ∃ q, exec (.eccRegfile core arr [p]) s = .next q ∧ (q.getPart p).st = .stopped ∧ ∀ t ∈ q.teams, t.part ≠ p) ∧
    exec (.singleBitErrorCorrected core arr) s = .next (s.mapCore core fun x => { x with corrected := x.corrected + 1 }) ∧
    (s.boot.stat = 0 → exec (.mcCecntClear c) s = .next { s with cecnt := modifyAt s.cecnt c fun _ => 0 } ∧
      exec (.mcUecntClear c) s = .next { s with uecnt := modifyAt s.uecnt c fun _ => 0 }) ∧
    (s.boot.stat ≠ 0 → exec (.mcCecntClear c) s = .next s ∧ exec (.mcUecntClear c) s = .next s) ∧
    (d < 8 → 650 ≤ mv → mv ≤ 950 → mv % 5 = 0 → (∀ t ∈ s.teams, t.core / 12 = d → 2 ≤ t.runs) →
      exec (.domainVoltageChange d mv) s = .next { s with volt := modifyAt s.volt d fun _ => mv }) ∧
    (d < 8 → mv < 650 ∨ 950 < mv ∨ mv % 5 ≠ 0 → exec (.domainVoltageChange d mv) s = .next s) ∧
    ((∀ p ∈ s.parts, ∀ q ∈ p.queues, q.state = 0) → exec .apertureGating s = .next { s with apertureGated := true })

/-- R9, R10, R12, R13, R24, R29, R33, R36, R56, R139: what an application core reads and writes: GDDR7 through the homes, with
the host registered as owner of the words it stores; a notify page; a system register, for which the clauses name some of each
unit. An address in no part of the map is an access fault. R24, R25: flips, the vertical blank, DSTAT and scan-out. With a flip
pending and DBIND or DGEOM rewritten, the words of the partition that DBIND now names are checked against the geometry that comes
into force (log entry 83). Scan-out asks for the lines that it reads (R130), and a handle whose tables cannot be read is a
machine check (R11). -/
def Obligations.HostAndDisplayResults : Prop :=
  (∀ (s : State) (hart addr size : Nat) (v : DWord),
     let load (x : Nat) (q : State) : Out := .next { q with busRead := BitVec.ofNat 64 x, busFault := false }
     let sys (o : Nat) : Nat := 0xF800000000 + o
     (0 < size → size ≤ 8 → addr + size ≤ s.capacity →
       (s.badIn addr size = none → exec (.hostAccess hart false addr size v) s = load (s.homeNat addr size) s) ∧
       (∀ p off, (s.hostTouches addr size).findSome? (fun x => s.badIn x.entry 8) = none → s.hostForeign addr size = some (p, off) →
         exec (.hostAccess hart true addr size v) s = .next (({ s with busFault := false } : State).post p
           (FaultRec.of 0x3E 5 0 0 0 0 0 (infoA off size) (infoA off size) 0 0))) ∧
       ((s.hostTouches addr size).findSome? (fun x => s.badIn x.entry 8) = none → s.hostForeign addr size = none →
         ∃ q, exec (.hostAccess hart true addr size v) s = .next q ∧
         (∀ w ∈ wordsOf addr size, q.owner w = some .host) ∧ q.busFault = false ∧ q.teams = s.teams)) ∧
     (∀ p o, p < 129 → o < 4096 → o % 8 = 0 →
       exec (.hostAccess hart false (0xF000000000 + 4096 * p + o) 8 v) s = load (s.pageRead p o) s ∧
       exec (.hostAccess hart true (0xF000000000 + 4096 * p + o) 8 v) s = .next ({ s with busFault := false }.pageWrite p o v) ∧
       exec (.registerWrite (0xF000000000 + 4096 * p + o) v) s = .next (s.pageWrite p o v)) ∧
     (s.boot.stat = 0 →
       exec (.hostAccess hart false (sys 0x0FFFF0) 8 v) s = load s.flogNext s ∧
       exec (.hostAccess hart false (sys 0x300018) 8 v) s = load s.tbl.stat { s with tbl := { s.tbl with drop := false } } ∧
       exec (.registerWrite (sys 0x300000) v) s = .next { s with tbl := { s.tbl with arg0 := v } } ∧
       exec (.registerWrite (sys 0x300010) v) s = .next (s.writeCmd v) ∧
       (2 ≤ v.toNat % 2 ^ 16 →
         exec (.registerWrite (sys 0x700000) v) s = .next { s with parkLim := v.toNat % 2 ^ 16 }) ∧
       exec (.registerWrite (sys 0x800010) v) s = .next { s with cecnt := modifyAt s.cecnt 2 fun _ => 0 }) ∧
     (s.capacity ≤ addr → addr < 0xF000000000 → exec (.hostAccess hart false addr size v) s = .next { s with busFault := true }) ∧
     (∀ w n x, wordsOf addr size = [w] → 0 < size → size ≤ 8 → addr + size ≤ s.capacity → s.owner w = some (.core n) →
       (s.getCore n).l1Word? w = some x → s.homeCopyBad addr size = none → ∃ q, exec (.hostCoherenceTimeout addr size) s = .next q ∧
         q.busRead = BitVec.ofNat 64 (cellNat Config.memDefault s.mem addr size) ∧ q.busFault = false ∧ q.mem = s.mem ∧
         q.owner w = some (.core n)) ∧
     (∀ w n x a, wordsOf addr size = [w] → 0 < size → size ≤ 8 → addr + size ≤ s.capacity → s.owner w = some (.core n) →
       (s.getCore n).l1Word? w = some x → s.homeCopyBad addr size = some a →
       ∃ q, exec (.hostCoherenceTimeout addr size) s = .next q ∧ q.busFault = true)) ∧
  (∀ (s : State) (p o : Nat) (h : Word) (v : DWord), o < 2 → s.outputs.length = 2 →
     let x := s.getOutput o
     let on : Prop := x.en = true ∧ x.part = p
     let fh := (s.getPart x.part).flipHnd[o]?.getD 0
     let fo := (s.getPart x.part).flipOff[o]?.getD 0
     let y : Output := { x with
       vblanks := (x.vblanks + 1) % 2 ^ 32, curPart := x.part, curHandle := x.handle, curGeom := x.geom, curBase := x.base }
     let blank (z : Output) : Out := .next (s.mapOutput o fun _ => z)
     (on → exec (.flipHndWrite p o h) s
       = .next (s.mapPart p fun z => { z with flipHnd := modifyAt z.flipHnd o fun _ => h.toNat % 2 ^ 20 })) ∧
     (on → exec (.flipOffWrite p o v) s
       = .next ((s.mapPart p fun z => { z with flipOff := modifyAt z.flipOff o fun _ => v.toNat % 2 ^ 48 }).mapOutput o fun z =>
           { z with flip := true })) ∧
     (¬ on → exec (.flipHndWrite p o h) s = .next s ∧ exec (.flipOffWrite p o v) s = .next s) ∧
     (x.en = true → (∀ a, s.flipBad o x = some a → exec (.displayVblank o) s = .next (s.uncorrectable a false)) ∧
       (x.flip = false → exec (.displayVblank o) s = blank y) ∧
       (x.flip = true → s.flipBad o x = none → s.flipOk x.part fh fo x.geom = true → exec (.displayVblank o) s
         = blank { y with flip := false, handle := fh, base := fo, curHandle := fh, curBase := fo }) ∧
       (x.flip = true → s.flipBad o x = none → s.flipOk x.part fh fo x.geom = false →
         exec (.displayVblank o) s = blank { y with flip := false, reject := true })) ∧
     exec (.dstatRead o) s = .next { s.mapOutput o fun z => { z with reject := false, scanErr := false } with
       busRead := BitVec.ofNat 64 (x.vblanks + (if x.flip then 2 ^ 32 else 0) + (if x.reject then 2 ^ 33 else 0) +
         (if x.scanErr then 2 ^ 34 else 0)), busFault := false } ∧
     (x.en = true → (∀ off n, x.curBase ≤ off →
         off + n ≤ x.curBase + geomPitch x.curGeom * (geomHeight x.curGeom - 1) + geomWidth x.curGeom * pixelSize x.fmt →
         ∃ a, s.scanAddr x off n = some a ∧ s.badIn a n = none) →
       ∃ q, exec (.scanoutRefresh o) s = .next q ∧ q = { s with stack := q.stack } ∧ (x.curPart = 0 → q = s)) ∧
     (x.en = true → (∀ off n, s.scanAddr x off n = none ∧ s.scanBad x off n = none) → ∃ q, exec (.scanoutRefresh o) s = .next q ∧
       (q.getOutput o).scanErr = true ∧ q.mem = s.mem))

/-- R14, R16, R17, R18, R23, R31: links, gate-control lists, pre-emption and the discipline of the device time. The rate that an
adjustment gives, and that a gate list is taken as written, are the model's choices (log entries 76, 84), as is when a rule's
event comes (log entry 30). R14, R19, R20, R21, R22: stream filters, the stream table, reception and transmission. Which frames
the MAC passes and what the meter holds after a write are the model's readings (log entry 30); the credit of queues 4 to 7 is
PRESUMED (log entry 77), and a slot whose frame does not fit is passed over (log entry 78). `txTouch` asks for the lines that a
look at a slot reads (R130). -/
def Obligations.EthernetResults : Prop :=
  (∀ (s : State) (port : Nat) (v ns : DWord), port < 2 → s.ports.length = 2 →
     let x := s.getPort port
     let now := s.devTime.toNat
     let data := port + x.speed * 256
     let put (f : Port → Port) : Out := .next (s.mapPort port f)
     (x.link = false → exec (.linkUp port) s = .next ((s.mapPort port fun y => { y with link := true }).flight 0x05 0x01 0xFF data)) ∧
     (x.link = true → exec (.linkDown port) s
       = .next ((s.mapPort port fun y => { y with link := false, verified := false }).flight 0x05 0x02 0xFF data)) ∧
     (x.link = true → ∀ ok, exec (.preemptionVerification port ok) s = put fun y => { y with verified := ok }) ∧
     (s.boot.stat = 0 → v.toNat % 512 ≤ 256 → exec (.gctlSwap port v) s = put fun y =>
       if v.getLsbD 63 then { y with gctlLen := v.toNat % 512, pending := true, swapAfter := now + 2000 }
       else { y with gctlLen := v.toNat % 512 }) ∧
     (∀ t, x.cycleStart x.swapAfter = some t → x.pending = true → t ≤ now → ∃ q, exec (.gateListSwap port) s = .next q ∧
       let z := q.getPort port
       z.pending = false ∧ z.operLen = x.gctlLen ∧ z.operCycle = x.gcycle ∧ z.operBase = x.gbase ∧
       (∀ i, i < x.gctlLen → z.oper i = (tableGet 0 x.gadmin i).toNat) ∧ q.teams = s.teams ∧ q.mem = s.mem) ∧
     (∀ f, x.tx = some f → x.canPreempt f.tc = true → x.gateOpen f.tc now = false → x.preempted = none →
       exec (.gateEntryChange port) s = put fun y => { y with tx := none, preempted := some f }) ∧
     (∀ f, x.tx = none → x.preempted = some f → x.gateOpen f.tc now = true →
       exec (.gateEntryChange port) s = put fun y => { y with tx := some f, preempted := none }) ∧
     (s.ethSync = true → now + 1000000 < ns.toNat → exec (.deviceTimeSync ns) s = .next { s with devTime := ns, timeSynced := true }) ∧
     (s.ethSync = true → ns.toNat ≤ now + 1000000 → ∃ r : Int, -1000000 ≤ r ∧ exec (.deviceTimeSync ns) s
       = .next { s with timeSynced := true, timeRate := r, freeCtr := s.freeCtr + 1 }) ∧
     (s.ethSync = false → exec (.deviceTimeSync ns) s = .next s) ∧
     exec .synchronisationLost s = .next { s with timeSynced := false } ∧
     (s.boot.stat = 0 → v.toNat % 2 = s.ethSrc → exec (.ethTimeWrite v) s = .next { s with ethSync := v.getLsbD 1 }) ∧
     (s.boot.stat = 0 → v.toNat % 2 ≠ s.ethSrc → exec (.ethTimeWrite v) s = .next
       ({ s with ethSrc := v.toNat % 2, ethSync := v.getLsbD 1, timeSynced := false }.flight 0x05 0x03 0xFF (v.toNat % 2))) ∧
     (s.boot.stat ≠ 0 → exec (.ethTimeWrite v) s = .next s ∧ exec (.gctlSwap port v) s = .next s)) ∧
  (∀ (s : State) (port p st i w : Nat) (fr : List Byte) (v : DWord), port < 2 → s.ports.length = 2 →
     let x := s.getPort port
     let n := fr.length + 4
     let vlan := isTag (frameNat fr 12 2)
     let e := s.stream p st
     let tx := s.getPort (bits e 235 235)
     let tp := bits e 235 235
     let now := s.devTime.toNat
     let q := bits e 238 236
     (x.en = true → x.link = true → 64 ≤ n →
       exec (.ethFrameReceive port fr false) s = .next s ∧
       (9216 < n → exec (.ethFrameReceive port fr true) s
         = .next (s.mapPort port fun y => { y with oversize := y.oversize + 1 })) ∧
       (n ≤ 9216 → s.decide_ port fr = none → exec (.ethFrameReceive port fr true) s = .next (s.deliver 0 0 0xFFFF port vlan fr).1) ∧
       (∀ f, n ≤ 9216 → s.decide_ port fr = some f → exec (.ethFrameReceive port fr true) s = .next (s.decided f port vlan fr))) ∧
     (s.boot.stat = 0 → exec (.streamFilterClear i 3) s = .next (s.writeFilter i 3 0)) ∧
     (s.boot.stat = 0 → i < 512 → ∀ f ∈ s.filters, f.idx = i → (∀ g ∈ s.filters, g.idx = i → g = f) → ∃ r, exec (.streamFilterClear i 3) s = .next r ∧
       ∃ g ∈ r.filters, g.idx = i ∧ g.entry.toNat = f.entry.toNat % 2 ^ 192) ∧
     (s.boot.stat = 0 → exec (.streamEntryWrite p st w v) s = .next (s.writeStream p st w v.toNat)) ∧
     (s.boot.stat = 0 → p ≤ 128 → st < 4 → w < 4 → rxEn e = false → txEn e = false → ∃ r, exec (.streamEntryWrite p st w v) s = .next r ∧
       (w = 0 → p = 0 → r.stream p st / 2 ^ 36 % 2 ^ 28 = v.toNat / 2 ^ 36) ∧ (w = 2 → p ≠ 0 → bits (r.stream p st) 191 152 = 0)) ∧
     (txEn e = true → s.live p st = true →
       (tx.sending p st = false → ∀ len l, s.txSlot p e = .frame len l →
         exec (.txRingPoll p st) s = .next (s.txTouch p e) ∧
         (tx.en = true → tx.link = true → l ≤ now → tx.inWindow e now = true → tx.tx = none → tx.canPreempt q = false →
           (∀ t, tx.gateTime q now = some t → tx.frameTime len ≤ t) → tx.hasCredit q = true →
           exec (.txFrameStart p st) s
             = .next ((s.txTouch p e).mapPort tp fun y => { y with tx := some { part := p, stream := st, tc := q, len := len } })) ∧
         (tx.en = true → tx.link = true → 4 ≤ q → tx.idleSlope q ≠ 0 → tx.credit[q - 4]?.getD 0 < 0 →
           exec (.txFrameStart p st) s = .next (s.txTouch p e))) ∧
       (tx.sending p st = true → exec (.txRingPoll p st) s = .next s ∧ exec (.txFrameStart p st) s = .next s)) ∧
     (txEn e = true → s.live p st = true → tx.sending p st = false → s.txSlot p e = .skip →
       exec (.txRingPoll p st) s = .next ((((s.txTouch p e).ringCount (txRing p e) 0x10).txAdvance p e).txSkip p e (2 ^ bits e 225 222 - 1))) ∧
     (∀ f, x.tx = some f → x.canPreempt f.tc = false → x.preempted = none →
       let s1 := s.mapPort port fun y => { y with tx := none }
       let fe := s.stream f.part f.stream
       (s.live f.part f.stream = false → exec (.txFrameSent port) s = .next s1) ∧
       (s.live f.part f.stream = true → exec (.txFrameSent port) s = .next
         (if fe.testBit 227 then (s1.txAdvance f.part fe).arrival f.part (bits fe 233 228) else s1.txAdvance f.part fe))))

/-- R36, R37, R38, R39, R40, R48: the table port. A command whose partition, state and reserved bits pass has its effect and ends
with result 0, where no block that it reads is bad; `cmd code p` says that TBL.CMD holds it. RESET of R37 is two steps, RESETTING
between them. That the arguments are read as the command executes, and TBL.STAT [7:0] reads 0 while BUSY, are the model's choices
(log entry 82). R55, R56, R57, R66, R69, R70: the notify page and its wakes. While the aperture is gated a wake only sets the
pending bit. -/
def Obligations.TableAndPageResults : Prop :=
  (∀ (s : State) (p : Nat) (c : DWord), 0 < p → p ≤ 128 → s.boot.stat = 0 → s.tbl.cmd = some c →
     let x := s.getPart p
     let d := x.desc
     let a0 := s.tbl.arg0.toNat
     let a1 := s.tbl.arg1.toNat
     let cmd (code : Nat) : Prop := c.toNat = code * 2 ^ 56 + p * 2 ^ 48
     let done (q : State) : Out := .next (q.endCmd p 0)
     let live : Prop := x.st = .configured ∨ x.st = .runnable
     let set (q : State) (h e : Nat) : State :=
       (q.flushHandles p (· == h) (q.objFrames p (q.handleObj p h))).tableWrite (d.htBase + 8 * h) (leBytes 8 e)
     (cmd 0x01 → x.st = .free → exec .claim s
       = done (s.mapPart p fun y => { y with desc := Desc.reset, gused := 0, st := .configured })) ∧
     (cmd 0x02 → x.st = .configured →
       (s.activates p = true → exec .activate s = done (s.mapPart p fun y =>
         { y with st := .runnable, fqWr := 0, fqRd := 0, phase := false })) ∧
       (s.activates p = false → exec .activate s = .next (s.endCmd p 4))) ∧
     (cmd 0x03 → x.st = .runnable → s.mapsBad = none → exec .retire s = done ((s.killTeams p).cleanPart p)) ∧
     (cmd 0x04 → x.st = .stopped → exec .reset s = .next (s.mapPart p fun y => { y with st := .resetting })) ∧
     (cmd 0x04 → x.st = .runnable → exec .reset s = .next ((s.killTeams p).mapPart p fun y => { y with st := .resetting })) ∧
     (cmd 0x04 → x.st = .resetting → s.mapsBad = none → exec .reset s = done (s.cleanPart p)) ∧
     (cmd 0x05 → x.st = .configured → exec .release s
       = done (s.mapPart p fun y => { y with desc := Desc.reset, gused := 0, st := .free })) ∧
     (cmd 0x10 → live → a0 < 2 ^ 40 → a0 % 2 ^ 20 < d.htLen → s.handleBusy p (· == a0 % 2 ^ 20) = false →
       s.handleBad p (a0 % 2 ^ 20) = none → exec .setHandle s = done (set s (a0 % 2 ^ 20) (2 ^ 63 + a0 / 2 ^ 20))) ∧
     (cmd 0x11 → live → a0 < 2 ^ 20 → a0 < d.htLen → s.handleBusy p (· == a0) = false →
       (s.handleBad p a0 = none → exec .revoke s = done (set s a0 (s.homeNat (d.htBase + 8 * a0) 8 ||| 2 ^ 62))) ∧
       (∀ b, s.handleBad p a0 = some b → exec .revoke s = .next (s.uncorrectable b false))) ∧
     (cmd 0x12 → live → a0 < 2 ^ 20 → a0 < d.otLen → a1 < 2 ^ 40 → a1 < s.capacity → s.handleBusy p (s.namesObj p a0) = false →
       s.badIn a1 32 = none → s.handlesBad p = none → s.objBad p a0 = none → ∃ q, exec .setDesc s = done q ∧
         q.mem = (((s.flushHandles p (s.namesObj p a0) (s.objFrames p a0)).leaveShelves p (s.objFrames p a0)).tableWrite (d.otBase + 32 * a0) (s.homeBytes a1 32)).mem ∧
         ∀ r ∈ q.regions, ¬ (r.part = p ∧ r.obj = a0)) ∧
     (cmd 0x13 → live → a0 < 2 ^ 52 →
       let obj := a0 % 2 ^ 20
       let od := s.homeNat (d.otBase + 32 * obj) 32
       let ea := ODesc.faAddr od + 8 * (a0 / 2 ^ 20)
       let size := if ODesc.pageShift od = 21 then 32 else 1
       let old := (s.homeNat ea 8).testBit 0
       let new := s.tbl.arg1.getLsbD 0
       let left := if old then [(bits (s.homeNat ea 8) 39 16 * 2 ^ 16, 2 ^ ODesc.pageShift od)] else []
       obj < d.otLen → a0 / 2 ^ 20 < ODesc.pages od → s.objBad p obj = none → s.handlesBad p = none →
       (new = true → old = false → d.gQuota < x.gused + size → exec .setFrame s = .next (s.endCmd p 0x3C)) ∧
       (¬ (new = true ∧ old = false ∧ d.gQuota < x.gused + size) → s.handleBusy p (s.namesObj p obj) = false →
         exec .setFrame s = done ((((s.flushHandles p (s.namesObj p obj) (s.objFrames p obj)).leaveShelves p left).tableWrite ea
           (leBytes 8 a1)).mapPart p
           fun y => { y with gused :=
             if new = true ∧ old = false then y.gused + size else if old = true ∧ new = false then y.gused - size else y.gused }))) ∧
     (cmd 0x20 → live → a0 < 2 ^ 40 → a1 < 2 ^ 40 → a0 < s.capacity → a1 < s.capacity → s.badIn a0 32 = none → s.mapBad p = none →
       let body := s.reportBody p (s.homeBytes a0 32)
       exec .attest s = done (s.tableWrite a1 (body ++ edSign (leBytes 32 s.boot.attSeed.toNat) body))) ∧
     (∀ k i, (k, i) ∈ [(0x01, Instr.claim), (0x03, .retire), (0x05, .release)] → cmd k → x.st = .resetting →
       exec i s = .next (s.endCmd p 1)) ∧
     (∀ r, r < 256 → s.tbl.stops = [] → (s.endCmd p r).tbl.cmd = none ∧ (s.endCmd p r).tbl.result.toNat = r) ∧
     exec .tblStatRead s = .next { s with
       busRead := BitVec.ofNat 64 (2 ^ 63 + if s.tbl.drop then 2 ^ 62 else 0), busFault := false, tbl := { s.tbl with drop := false } }) ∧
  (∀ (s : State) (p q m core : Nat) (v : DWord), s.queueExists p q = true →
     let x := s.getQueue p q
     let n := v.toNat % 2 ^ 20
     let run : Prop := (s.getPart p).st = .runnable
     let wake (r : State) : State :=
       if s.apertureGated then r.mapQueue p q fun y => { y with pend := true } else r.raiseSignal 0 (p * 16 + q)
     let put (f : Queue → Queue) : State := s.mapQueue p q f
     (n % 32 = 0 → n < x.ringSize → x.en = true → run → exec (.qwrWrite p q v) s = .next (wake (put fun y => { y with qwr := n }))) ∧
     (n % 32 = 0 → n < x.ringSize → x.en = true → ¬ run → exec (.qwrWrite p q v) s = .next (put fun y => { y with qwr := n })) ∧
     (n % 32 ≠ 0 ∨ x.ringSize ≤ n ∨ x.en = false → exec (.qwrWrite p q v) s = .next (put fun y => { y with badwr := true })) ∧
     (x.st = .parked → run → exec (.qretryWrite p q) s = .next (wake (put fun y => { y with retry := true }))) ∧
     (x.st ≠ .parked → s.apertureGated = false → exec (.qretryWrite p q) s = .next s) ∧
     (x.st ≠ .parked → s.apertureGated = true → run → exec (.qretryWrite p q) s = .next (wake s)) ∧
     (bits v.toNat 55 52 ≤ 8 → p < s.parts.length → q < (s.getPart p).queues.length → ∃ r, exec (.qctlWrite p q v) s = .next r ∧
       let y := r.getQueue p q
       y.en = v.getLsbD 63 ∧
       (x.en = false → y.size = bits v.toNat 55 52 ∧ y.hnd = n) ∧
       (x.en = true → y.size = x.size ∧ y.hnd = x.hnd ∧ y.qwr = x.qwr) ∧
       (x.en = false → v.getLsbD 63 = true → y.qrd = 0 ∧ y.qwr = 0 ∧ y.badwr = false)) ∧
     (m < (s.getPart p).desc.mailboxes → run → s.apertureGated = false → exec (.mboxWrite p m) s
       = .next ((s.mapMailbox p m fun y =>
           if y.count = 65535 then { y with overflow := true } else { y with count := y.count + 1 }).raiseSignal 1 (p * 64 + m))) ∧
     ((s.getPart p).desc.mailboxes ≤ m → exec (.mboxWrite p m) s = .next s) ∧
     (s.apertureGated = true → ∃ r, exec .apertureWake s = .next r ∧ r.apertureGated = false ∧
       (x.pend = true → (0, p * 16 + q) ∈ r.signals) ∧ (r.getQueue p q).pend = false ∧ ∀ e ∈ s.signals, e ∈ r.signals) ∧
     (core < 4 → exec (.gondolaTimer core) s = .next (s.raiseSignal 4 core)) ∧
     (∀ k i, (k, i) ∈ (s.raiseSignal k i).signals))

/-- R57, R59, R60, R61, R62, R64, R68, R132, R174, R188: each packet at the head of a running queue, its checks passed, has its
effect, and QRD passes it or it stays open until it completes. An unmet WAIT holds its queue at it (DEDUCED, log entry 85); the
reads of a title and of a record are the gondola's own (log entries 29, 37, 38, 56), and the lines of what it reads are asked for
at their homes (R130). The rights of an add, and locations that name nothing, are the model's choices (log entry 93). R60, R61,
R62, R69, R202: what completes a packet or starts a handler: the last neighbourhood of a launch, a WAIT's word read again, a
COPY's bytes, an envelope that nothing requires any longer, and a mailbox's arrival. A re-read goes on, and a COPY completes,
while EN is 0 (log entry 85). -/
def Obligations.PacketResults : Prop :=
  (∀ (s : State) (p q : Nat) (b : List Byte), s.fetches p q = true →
     ¬ ((s.getQueue p q).st = .parked ∧ (s.getQueue p q).retry = false) → (s.getQueue p q).unmet = none →
     let r0 := s.resumeQueue p q
     let r := r0.touchRing p q b.length
     let head (typ : Nat) : Prop := r0.ringAt p q = .packet typ b
     let pass (t : State) : Out := .next (t.passPacket p q 1)
     let stays (t : State) (ids : List Nat) : Out := .next (t.openPacket p q b none ids)
     let h := pktHandle b
     let off := pktOff b
     let op := pktOp b
     let v := pktValue b
     let em := (r.getPart p).desc.emBase
     let e := bits op 11 8
     let m := bits op 13 8
     (head 0 → exec (.nopPacket p q) s = .next (r.passPacket p q (b.length / 32))) ∧
     (head 1 → (∀ t, (r.getQueue p q).slot = none → (r.touchRecord p b true).acceptLaunch p q b = .ok t → exec (.launch p q) s = .next t) ∧
       ((r.getQueue p q).slot ≠ none → exec (.launch p q) s = .next r)) ∧
     (head 2 → op.testBit 2 = false →
       (∀ pa, op % 4 = 0 → r.wordDest p h off [21] = .ok pa →
         exec (.signalStore p q) s = pass (r.deviceWrite p h off pa (leBytes 8 v))) ∧
       (∀ pa, op % 4 = 1 → r.wordDest p h off [21, 22] = .ok pa → r.badIn pa 8 = none →
         exec (.signalAdd p q) s = pass (r.deviceWrite p h off pa (leBytes 8 (r.homeNat pa 8 + v))))) ∧
     (head 3 → ∀ w, op % 4 ≠ 3 → off % 8 = 0 → r.waitWord p b = .ok w →
       let met : Prop := if op % 4 = 0 then v ≤ w else if op % 4 = 1 then w = v else w ≠ v
       let r1 := r.touchWait p b
       (met → exec (.wait p q) s = pass r1) ∧
         (¬ met → exec (.wait p q) s = .next (r1.mapQueue p q fun y => { y with st := .waiting, unmet := some b }))) ∧
     (head 4 → ∀ d1 d2, field b 0x20 8 ≠ 0 → field b 0x20 8 ≤ 2 ^ 40 → r.locCheck p h off (field b 0x20 8) [20] 4 = .ok d1 →
       r.locCheck p (field b 0x10 4) (field b 0x18 8) (field b 0x20 8) [21] 0x10 = .ok d2 →
       exec (.copyPacket p q) s = stays r []) ∧
     (head 5 → (∀ o d, op.testBit 0 = false → r.lookupHandle p h = .ok (o, d) → r.walkBad p h = none → ODesc.ok d = true →
         exec (.replayByPage p q) s = pass (r.replay p (.page h (off / 2 ^ ODesc.pageShift d)))) ∧
       (op.testBit 0 = true → exec (.replayByToken p q) s = pass (r.replay p (.token (field b 0x10 4))))) ∧
     (head 6 → op.testBit 0 = false → off % 4096 = 0 → ∀ hd img t,
       let r1 := r.touchLoc p h off 192
       let r2 := r1.touchLoc p h off (192 + field hd 8 4)
       r1.locBytes p h off 192 [20] 4 = .ok hd → envelopeBad hd = false →
       r2.locBytes p h off (192 + field hd 8 4) [20] 4 = .ok img → envelopeSigned r.fuses.hkh img = true → r2.mapBad p = none →
       r2.loadEnvelope p e img = .ok t → exec (.envelopeLoad p q) s = pass t) ∧
     (head 6 → op.testBit 0 = true → r.mapBad p = none →
       (r.envState p e = 0 → exec (.envelopeDrop p q) s = pass r) ∧
       (r.envState p e ≠ 0 → exec (.envelopeDrop p q) s = stays (r.tableWrite (em + 128 * e) [2]) [])) ∧
     (head 7 → ∀ rs, r.pinRange p b = .ok rs →
       (op.testBit 0 = true → exec (.unpin p q) s
         = pass (((r.pinLines p h off v).foldl (fun z l => z.unpinLine p l.1) r).mapPart p
           fun y => { y with pinned := y.pinned.filter fun k => !rs.contains k })) ∧
       (∀ cs, op.testBit 0 = false → v ≠ 0 → r.locate p h off v [20] 4 = .ok cs → r.chunksBad cs = none →
         let new := rs.filter fun k => !(r.getPart p).pinned.contains k
         (r.getPart p).pinUsed + new.length ≤ (r.getPart p).desc.pinq * 16 →
         exec (.pin p q) s = pass (((r.pinLines p h off v).foldl (fun z l => z.stackAlloc p l.1 l.2 true) r).mapPart p
           fun y => { y with pinned := y.pinned ++ new }))) ∧
     (head 8 → let ids := ((List.range 16).filter fun i => op.testBit i).flatMap fun i => (r.getQueue p i).started.map (·.id)
       (ids = [] → exec (.fencePacket p q) s = pass r) ∧ (ids ≠ [] → exec (.fencePacket p q) s = stays r ids)) ∧
     (head 9 → ∀ pa, r.wordDest p h off [21] = .ok pa →
       exec (.timestamp p q) s = pass (r.deviceWrite p h off pa (leBytes 8 s.devTime.toNat))) ∧
     (head 10 → m < (r.getPart p).desc.mailboxes →
       let a := (r.getPart p).desc.mbxBase + 32 * m
       let r1 := r.touchRecord p b false
       (∀ k, op.testBit 0 = false → r1.validateRecord p h off false = .ok k → k.gridX = 1 → k.gridY = 1 → exec (.tetherBind p q) s
         = pass ((r1.tableWrite a (tetherEntry q h off)).mapMailbox p m fun y => { y with binding := some (k, q), seq := 0 })) ∧
       (op.testBit 0 = true → r.badIn a 32 = none → exec (.tetherUnbind p q) s
         = pass ((r.tableWrite a [r.homeByte a &&& 0xFE]).mapMailbox p m fun y => { y with binding := none }))) ∧
     (∀ typ f i, r0.ringAt p q = .stop (.fail f) → (typ, i) ∈ [(0, Instr.nopPacket p q), (1, .launch p q), (4, .copyPacket p q)] →
       exec i s = .next ((r0.touchRing p q 4).parkQueue p q f 0)) ∧
     (∀ typ pa i, r0.ringAt p q = .stop (.ecc pa) → (typ, i) ∈ [(0, Instr.nopPacket p q), (1, .launch p q), (4, .copyPacket p q)] →
       exec i s = .next ((r0.touchRing p q 4).uncorrectable pa false))) ∧
  (∀ (s : State) (p q m : Nat),
     (∀ id l k, s.launch? id = some l → l.prm.gridX * l.prm.gridY ≤ l.finished → l.rast = none →
       (s.getQueue l.part l.queue).started.find? (fun k => k.launch == some id) = some k →
       exec (.launchComplete id) s
         = .next (({ s with launches := s.launches.filter fun x => x.id != id }).completePacket l.part k.id)) ∧
     (∀ id l, s.launch? id = some l → l.finished < l.prm.gridX * l.prm.gridY → exec (.launchComplete id) s = .next s) ∧
     (s.works p q = true →
       let r := s.resumeQueue p q
       (∀ b w, (s.getQueue p q).unmet = some b → s.waitWord p b = .ok w →
         exec (.waitReread p q) s
           = .next (if waitMet b w then ((s.touchWait p b).mapQueue p q fun y => { y with unmet := none }).passPacket p q 1
             else s.touchWait p b)) ∧
       (∀ b, (s.getQueue p q).unmet = some b → exec (.nopPacket p q) s = .next s ∧ exec (.launch p q) s = .next s) ∧
       (∀ k t n, (r.getQueue p q).started.find? (fun k => k.typ == 4 && !k.stuck) = some k →
         State.copyOn p k.body (field k.body 0x20 8 - k.cursor) r k.cursor = (t, n, none) →
         exec (.copyPacketComplete p q) s = .next (t.completePacket p k.id))) ∧
     (∀ k, (s.getQueue p q).started.find? (fun k => k.typ == 6 && !s.entryRequired p (bits (pktOp k.body) 11 8)) = some k → s.mapsBad = none →
       exec (.envelopeDropComplete p q) s = .next ((s.emptyEntry p (bits (pktOp k.body) 11 8)).completePacket p k.id)) ∧
     (∀ x k hq, (s.getPart p).mailboxes[m]? = some x → x.binding = some (k, hq) → s.boot.stat = 0 → (s.getPart p).st = .runnable →
       x.count ≠ 0 → x.slot = none → p < s.parts.length → (∀ l ∈ s.launches, l.id ≠ s.nextId) → ∃ t y l, exec (.mailboxHandlerLaunch p m) s = .next t ∧
         (t.getPart p).mailboxes[m]? = some y ∧ y.count = x.count - 1 ∧ y.seq = x.seq + 1 ∧ y.slot = some s.nextId ∧
         t.launch? s.nextId = some l ∧ l.prm = k ∧ l.handlerSeq = some x.seq ∧ l.mailbox = some m))

/-- R73, R74, R76, R79, R80, R87: one dispatch decision, where `c` is the first class that has work. The oldest entry of its
return list that fits is placed; without return-list work its one ready launch that is still to be placed is, from a queue whose
deficit is positive; with no work in any class nothing changes but the timers. Memory changes only where a core comes back with
saved state (R87). A bad block in an envelope map that it reads is a machine check (R11). R78, R79: where the search finds an
origin, it lies in the allotment's search order, and each core there can take the launch's teams: no more than 16 slots, 256 KiB
of vector registers and 320 KiB of SRAM, and nothing of another partition. -/
def Obligations.PlacementResults : Prop :=
  (∀ (s : State),
     let s1 := s.settleTimers
     (∀ a, s.workMapBad = some a → exec .placeNeighbourhood s = .next (s.uncorrectable a false)) ∧
     (s.workMapBad = none → (∀ c < 4, s1.classWork c = false) → exec .placeNeighbourhood s = .next s1.settleTimers) ∧
     ∀ (c : Nat) (pre rest : List Nat), s1.classOrder = pre ++ c :: rest → (∀ d ∈ pre, s1.classWork d = false) → s.workMapBad = none →
       (∀ e es o, s1.returnsOf c = e :: es → s1.findPlace (fun _ => false) false e.1.part e.2.prm (some e.1) = some o →
         ∃ q, exec .placeNeighbourhood s = .next q ∧
           (∃ n ∈ q.nbs, n.id = e.1.id ∧ n.phase = .requested ∧ n.x = o.1 ∧ n.y = o.2 ∧ n.saved = e.1.saved) ∧
           e.1.id ∉ (q.getPart e.1.part).returns ∧ q.teams = s.teams ∧ ((s.getPart e.1.part).ballast = [] → q.mem = s.mem)) ∧
       (∀ l o, s1.returnsOf c = [] → s1.readyOf c = [l] → s1.servable l = true → l.queue < 16 → 0 < (s1.getQueue l.part l.queue).deficit →
         s1.findPlace (fun _ => false) false l.part l.prm none = some o →
         ∃ q, exec .placeNeighbourhood s = .next q ∧
           (∃ n ∈ q.nbs, n.id = s.nextId ∧ n.launch = l.id ∧ n.part = l.part ∧ n.grid = 0 ∧ n.phase = .requested ∧ n.x = o.1 ∧
             n.y = o.2) ∧
           q.getQueue l.part l.queue = (s.getQueue l.part l.queue).credit (-(l.prm.teams * s.adv * 256 : Nat)) ∧
           q.teams = s.teams ∧ ((s.getPart l.part).ballast = [] → q.mem = s.mem))) ∧
  (∀ (s : State) (part : Nat) (p : LaunchRec) (o : Nat × Nat),
     s.findPlace (fun _ => false) false part p none = some o → 0 < p.t →
     o ∈ origins (s.getPart part).desc p.w p.h ∧
     ∀ i j, i < p.w → j < p.h →
       let core := coreAt (o.1 + i) (o.2 + j)
       let cs := s.claims (fun _ => false) core
       (∀ c ∈ cs, c.part = part) ∧ cs.length + p.t ≤ 16 ∧
       (cs.map fun c => c.prm.vregs * c.prm.lanes * 4).sum + p.t * (p.vregs * p.lanes * 4) ≤ 262144 ∧
       (cs.map fun c => c.prm.scratch + 8192).sum + p.t * (p.scratch + 8192) + 1024 * p.l1floor ≤ 327680 ∧
       ∀ k < 2, (s.getSlot core k).env = none ∨ (s.getSlot core k).part = part)

/-- R72, R75, R81, R82: a starved class is promoted; the winch's window and the writes of its register. R80, R81, R89, R90, R187:
a placed neighbourhood that was never saved starts whole, in the winch's present window, when no row of it is held back, no slot
has to be reloaded and no evicted team returns there first; a slot that waits for its envelope takes it, with its registers
reset, once its queue is empty. -/
def Obligations.TimersWinchAndStarts : Prop :=
  (∀ (s : State) (c y : Nat) (v : DWord),
     let s1 := s.settleTimers
     let step := v.toNat % 64
     let rise := v.toNat / 256 % 64
     let fall := v.toNat / 65536 % 64
     (∀ k, 1 ≤ c → c < 4 → s1.starveFrom[c]?.getD none = some k → s.starve * 2600 ≤ s.clk - k →
       exec (.starvationPromote c) s = .next { s1 with promoted := modifyAt s1.promoted c fun _ => true }) ∧
     (c = 0 ∨ 4 ≤ c ∨ s1.starveFrom[c]?.getD none = none → exec (.starvationPromote c) s = .next s) ∧
     (∀ w, s.winch[y]? = some w → s.clk < w.window + 256 → exec (.winchWindow y) s = .next s) ∧
     (∀ w, s.winch[y]? = some w → w.window + 256 ≤ s.clk → ∃ q z, exec (.winchWindow y) s = .next q ∧ q.winch[y]? = some z ∧
       let held : Prop := w.held = true ∨ s.heldIn y = true
       z.budget = z.cap + min w.budget 0 ∧ z.held = false ∧ z.window = w.window + 256 ∧
       (held → z.cap = if w.rise ≤ w.heldRun + 1 then min (w.cap + 1) w.stepUp else w.cap) ∧
       (¬ held → z.cap = if w.fall ≤ w.freeRun + 1 then max (w.cap - 1) 1 else w.cap) ∧
       (∀ x ∈ (s.waitingGates y).take w.stepUp, x < s.cores.length →
         (q.getCore x).clocked = false ∧ (q.getCore x).emptied = none) ∧
       (∀ x, x ∉ (s.waitingGates y).take w.stepUp → q.getCore x = s.getCore x) ∧ q.teams = s.teams ∧ q.mem = s.mem) ∧
     (s.boot.stat = 0 → step ≠ 0 → rise ≠ 0 → fall ≠ 0 → exec (.winchWrite y v) s = .next { s with winch := modifyAt s.winch y fun w =>
       { w with stepUp := step, rise := rise, fall := fall, cap := min w.cap step } }) ∧
     (step = 0 ∨ rise = 0 ∨ fall = 0 → exec (.winchWrite y v) s = .next s)) ∧
  (∀ (s : State) (id core slot : Nat),
     (∀ n l, s.nb? id = some n → s.launch? n.launch = some l → n.phase = .requested → s.neededMapBad n.part l.prm = none →
       s.reloadsFor n.part l.prm (l.prm.coresAt n.x n.y) = [] → s.homeFirst (l.prm.coresAt n.x n.y) = false →
       s.windowed n.y l.prm.h = true →
       (s.heldRows n.y l.prm.h = [] → n.saved = [] → n.pads = [] → n.retired = [] → s.nbTeams id = [] →
         ∃ q, exec (.neighbourhoodStart id) s = .next q ∧ (∃ m ∈ q.nbs, m.id = id ∧ m.phase = .resident ∧ m.startClk = s.clk) ∧
           ∀ r, r < l.prm.teams → ∃ t ∈ q.teams, t.nb = id ∧ t.rank = r ∧ t.part = n.part ∧
             t.core = l.prm.coreOf n.x n.y r ∧ t.pc = l.prm.entry ∧ t.status = .running ∧ t.port = none) ∧
       (s.heldRows n.y l.prm.h ≠ [] → exec (.neighbourhoodStart id) s = .next (s.holdRows (s.heldRows n.y l.prm.h)))) ∧
     (∀ n e, (s.getSlot core slot).reloading = true → (s.getSlot core slot).tris = [] → (s.getSlot core slot).queue = [] →
       (s.nbs.findSome? fun n => (n.reloads.find? fun r => r.1 == core && r.2.1 == slot).map fun r => (n.part, r.2.2)) = some (n, e) →
       s.mapBad n = none →
       exec (.envelopeReload core slot) s = .next (({ s with nbs := s.nbs.map fun m =>
         { m with reloads := m.reloads.filter fun r => !(r.1 == core && r.2.1 == slot) } } : State).mapSlot core slot fun x =>
         { x with env := some (s.envOf n e), part := n, regs := resetRegs (s.envOf n e).cls, cache := [], reloading := false })))

/-- R94, R95, R97, R110, R166: runs start where the operands of the next instruction are ready, are cut at 24 instructions, and
end in the watchdog after 2^24 clk; a team that is retiring and drained leaves its slot. R83, R85, R86, R175: one neighbourhood
is sliced out for the head of the return list; a partition is switched in, in no clk in which something that would leave has
started (log entry 87); a parked team is evicted, and a woken one returns. In the clk in which its park limit ends a team is not
evicted yet, so that a REPLAY in that clk wakes it: that is the model's reading of R183 (DEDUCED, log entry 87). What a save or a
restore itself does is the statement SaveAndRestore. -/
def Obligations.RunsAndDepartures : Prop :=
  (∀ (s : State) (n : Nat) (t : Team), s.team? n = some t →
     (∀ k, s.portFree t.core 0 = true ∧ k = 0 ∨ s.portFree t.core 0 = false ∧ s.portFree t.core 1 = true ∧ k = 1 → s.mayRun t = true →
       (∀ x ∈ s.teams, x.core = t.core → x.uid ≠ t.uid → s.mayRun x = true → s.precedes x t = true →
         s.operandsReady x = false) → s.operandsReady t = true →
       t.due = none → t.async = none →
       exec (.runStart n) s = .next (s.setTeam { t with port := some k, runLen := 0, runClk := s.clk, runs := t.runs + 1 })) ∧
     (s.operandsReady t = false → exec (.runStart n) s = .next s) ∧
     (24 ≤ t.runLen → exec (.forcedBoundary n) s
       = .next (s.setTeam { t with runLen := 0, port := none, forced := min (t.forced + 1) 255 })) ∧
     (t.runLen < 24 → exec (.forcedBoundary n) s = .next s) ∧
     (t.status = .retiring → t.drained = true → s.hasWork n = false → ∃ q, exec (.teamRetire n) s = .next q ∧ q.team? n = none ∧
       q.mem = s.mem ∧ (∀ x ∈ s.teams, x.uid ≠ n → x ∈ q.teams) ∧ ((q.nb? t.nb = none) ∨ ∃ m, q.nb? t.nb = some m ∧ t.rank ∈ m.retired)) ∧
     (t.port.isSome = true → t.runClk + 2 ^ 24 ≤ s.clk → exec (.teamWatchdog n) s
       = .next (s.takeTrap { t with inLdb := false, loads := t.loads.filter fun p => p.bound.isNone }
           { code := 0x5F, info := t.pc.toNat, lane := 0, handle := 0, next := false } false t.pc t.pc none)) ∧
     (t.port = none ∨ s.clk < t.runClk + 2 ^ 24 → exec (.teamWatchdog n) s = .next s)) ∧
  (∀ (s : State) (p team : Nat),
     (∀ n l o v lv s2, (s.getPart p).st = .runnable → (s.getPart p).returns.head? = some n.id → s.nb? n.id = some n →
       s.launch? n.launch = some l → s.findPlace (fun _ => false) false p l.prm (some n) = none →
       s.findPlace (s.sliceable p) false p l.prm (some n) = some o → s.pendingOn (l.prm.coresAt o.1 o.2) = [] →
       (s.nbs.filterMap fun v => match s.launch? v.launch with
         | none => none
         | some lv => if s.sliceable p v && s.holdsCores v lv (l.prm.coresAt o.1 o.2) then some (v, lv) else none) = [(v, lv)] →
       (∀ t ∈ s.nbTeams v.id, t.due = none ∧ s.saveReady t 1 = true) → s.evictedReady (v, lv) (lv.prm.coresAt v.x v.y) 1 = true →
       (s.sliceNb lv v = .ok s2 → (s2.nb? v.id).isSome = true → exec (.sliceOut p) s = .next (s2.toTail p [v.id]).settleTimers) ∧
       (∀ rank, s.sliceNb lv v = .error rank → exec (.sliceOut p) s = .next (s.postSliceFault lv v rank).settleTimers)) ∧
     (∀ (scope : List Nat) r, let cores := (s.getPart p).desc.cores
       (s.getPart p).st = .runnable → (∀ x, x ∈ scope ↔ x ∈ cores) → s.switchRank p = some r →
       (∀ q k, q ≤ 128 → s.switchRank q = some k → r ≤ k) → s.outgoing p cores ≠ [] → (∀ q ∈ s.outgoing p cores, s.mayLeave cores q = true) →
       s.islandsQuiet p cores = true → (∀ t ∈ s.teams, t.part ≠ p → t.core ∈ cores → t.due = none ∧ s.saveReady t 2 = true) →
       (∀ e ∈ s.leavingNbs p cores, (∀ t ∈ s.nbTeams e.1.id, t.core ∉ cores → t.port = none) ∧ s.padsQuiet e cores = true ∧
         s.evictedReady e cores 2 = true ∧ (e.1.phase = .resident → e.1.startClk ≠ s.clk)) → s.mapBad p = none →
       ∃ q, exec (.partitionSwitch p scope) s = .next q ∧ q = (s.switchIn p cores).settleTimers ∧ q.lastSwitch = p) ∧
     (∀ t s1 tok, s.team? team = some t → t.status = .parked tok → t.parkClk + s.parkLim * 2600 < s.clk → s.saveReady t 3 = true →
       s.sliceChosen t.part t.nb = false → s.saveFrame t 3 none = some s1 → (s1.saved? team).isSome = true →
       let d : Deferred := ⟨t.nb, t.rank, t.core, t.parkCause, t.parkKey, tok, false⟩
       exec (.parkLimitEvict team) s
         = .next ((s1.mapPart t.part fun x => { x with deferred := x.deferred ++ [d] }).post t.part
           (FaultRec.of t.parkCause 6 tok (bits t.parkKey.toNat 63 44) t.core t.slot 0 t.parkKey.toNat t.parkCause t.pc t.parkLane))) ∧
     (∀ t, s.team? team = some t → (∀ tok, t.status = .parked tok → s.clk ≤ t.parkClk + s.parkLim * 2600) →
       (∀ tok, t.status ≠ .evictDue tok) → exec (.parkLimitEvict team) s = .next s) ∧
     (∀ d n l v k, (s.getPart p).deferred = [d] → s.comesHome p d = some (n, l, v, k, []) → (s.getPart p).st = .runnable →
       s.windowed (d.core / 12) 1 = true → s.heldRows (d.core / 12) 1 = [] → s.neededMapBad p l.prm = none →
       exec (.evictedTeamReturn p) s = .next ((((({ s with winch := modifyAt s.winch (d.core / 12) fun w =>
         { w with budget := w.budget - 1 } } : State).takeCore p d.core).ungate d.core).restoreTeam l n v d.core k).fitWays d.core)))

/-- R86, R124, R179, R180, R181, R182: a save takes the lowest free frame of SAVEF and the team out of its slot; a frame that
holds the pieces of R181 gives back the team's registers; a restore puts the team on a slot from its image; and a core that
changes hands at a switch keeps its slots and weight buffer in the leaving partition's ballast area and receives those of the
entering one. What the Held section holds is free (log entry 80), and which round-table entries come along is DEDUCED (log entry
79). -/
def Obligations.SaveAndRestore : Prop :=
  ∀ (s : State) (t : Team) (l : Launch) (n : Nb) (v : SavedTeam) (reason i core slot p q : Nat) (us : Option (List WbUnit)),
    let h := Cap.handle t.prm.savef
    let fs := (frameLayout t.prm).size
    (s.freeFrame t.part t.prm.savef fs = .ok i → i < Cap.length t.prm.savef / fs ∧
      (∃ pa, s.frameAddr t.part h (i * fs + 4) 1 = some pa ∧ s.homeByte pa = 0) ∧
      ∀ j < i, ∃ pa, s.frameAddr t.part h (j * fs + 4) 1 = some pa ∧ s.homeByte pa ≠ 0) ∧
    (∀ s1 rq ops f s2, s.freeFrame t.part t.prm.savef fs = .ok i →
      (s.touchStates t.part t.prm.savef fs i).withdraw t reason = (s1, rq, ops) → s.nb? t.nb = some n →
      f.reason = reason ∧ f.parked = t.parkToken.isSome ∧ f.token = t.parkToken.getD 0 ∧ f.pad = (reason != 3) ∧
        f.heldReqs = rq.length ∧ f.heldOps = ops.length ∧ f.held = s1.freeCtr ∧ f.weight = us →
      s1.frameWrite t.part h (i * fs) (frameChunks t f) = .ok s2 →
      ∃ r, s.saveFrame t reason us = some r ∧ r.team? t.uid = none ∧
        ∃ m v, r.nb? t.nb = some m ∧ v ∈ m.saved ∧ v.uid = t.uid ∧ v.rank = t.rank ∧ v.reason = reason ∧ v.place = .frame i ∧
          v.lines = t.lines ∧ v.barrs = t.barrs ∧ v.async = t.async ∧ v.due = t.due ∧ v.core = t.core ∧
          v.heldReqs.length = rq.length ∧ v.heldOps.length = ops.length ∧ (reason = 3 → (t.rank, t.scratch) ∈ m.pads)) ∧
    (∀ (f : FrameInfo) (base : Team) (bs : List Byte), base.prm = t.prm → (∀ c ∈ frameChunks t f, (bs.drop c.1).take c.2.length = c.2) →
      t.sreg.length = 64 → t.areg.length = 32 → t.creg.length = 16 → t.lines.length = 8 → t.tags.length = 8 →
      t.vreg.length = t.prm.vregs → (∀ r ∈ t.vreg, r.length = t.lanes) → t.y0.length = t.lanes → t.y1.length = t.lanes →
      let r := teamOfFrame base bs
      r.pc = t.pc ∧ r.qreg = t.qreg ∧ r.flags = t.flags ∧ r.trapCause = t.trapCause ∧ r.trapInfo = t.trapInfo ∧
      r.trapPc = t.trapPc ∧ r.inTrap = t.inTrap ∧ r.sreg = t.sreg ∧ r.areg = t.areg ∧ r.creg = t.creg ∧ r.vreg = t.vreg ∧
      r.y0 = t.y0 ∧ r.y1 = t.y1) ∧
    (n.barriers = [] → s.nb? n.id = some n →
      let place : Place2 :=
        { uid := v.uid, part := n.part, launch := l.id, nb := n.id, grid := n.grid, rank := v.rank, core := core, slot := slot }
      let base := { teamStart l.prm place none s.clk with scratch := ((n.pads.find? fun x => x.1 == v.rank).map (·.2)).getD [] }
      let img := (s.savedImage l n v base).1
      (∀ im, v.place = .ballast im → img = im) ∧
      (∀ k, v.place = .frame k →
        img = teamOfFrame base (s.frameRead n.part (Cap.handle l.prm.savef) (k * (frameLayout l.prm).size) (frameLayout l.prm).size)) ∧
      (s.savedBad l n v = none → ∃ x ∈ (s.restoreTeam l n v core slot).teams, x.uid = img.uid ∧ x.core = core ∧ x.slot = slot ∧
        x.status = v.status ∧ x.lines = v.lines ∧ x.async = v.async ∧ x.due = v.due ∧ x.barrs = v.barrs ∧ x.pc = img.pc ∧
        x.sreg = img.sreg ∧ x.areg = img.areg ∧ x.creg = img.creg ∧ x.vreg = img.vreg ∧ x.preg = img.preg ∧ x.rng = img.rng ∧
        x.active = img.active ∧ x.stack = img.stack ∧ x.flags = img.flags ∧ x.scratch = img.scratch) ∧
      (∀ a, s.savedBad l n v = some a → s.restoreTeam l n v core slot = s.uncorrectable a false)) ∧
    (core < s.cores.length → p < s.parts.length → q < s.parts.length → p ≠ q →
      let c := s.getCore core
      ((s.getPart q).st = .runnable → ∃ b ∈ ((s.saveCore p core (some q)).getPart q).ballast, b.core = core ∧ b.wb = c.wb ∧
        b.slotA = { c.slotA with cache := [], reloading := false } ∧ b.slotB = { c.slotB with cache := [], reloading := false }) ∧
      (∀ b, (s.getPart p).ballast.find? (fun y => y.core == core) = some b →
        (∀ r ∈ b.slotA.queue ++ b.slotB.queue, r.fence = none) →
        let d := (s.loadCore p core (some q)).getCore core
        d.wb = b.wb ∧ d.slotA = s.slotBack p b.slotA ∧ d.slotB = s.slotBack p b.slotB ∧ d.resPart = some p) ∧
      s.loadCore p core (some p) = s)

/-- R121, R126, R135, R149, R331: a store drains, once nothing older of its team holds it: the entry leaves the queue, and under
.W (or .N) with no owner of its words and no copy in the issuing L1, every byte stored reads back at its home and every other
byte but the frame entry's DIRTY bit is as it was. A pending store to a scratchpad puts its bytes there. R134, R143, R149: a load
that nothing older of its team holds performs and delivers what it reads: from memory its bytes, from a scratchpad the bytes
there; a bounded load keeps its value until its instruction completes. A fetch, a bounded load's too, waits for an earlier fetch
of its word by the core (R118). -/
def Obligations.DrainAndLoadResults : Prop :=
  (∀ (s : State) (n idx : Nat) (t : Team), s.team? n = some t →
     (∀ e, t.storeQ[idx]? = some e → t.mayDrain idx e = true →
       s.sentBefore t.core e.seq e.pa e.bytes.length = false → s.drainBad t e = none →
       exec (.storeDrain n idx) s = .next ((s.drain t e).setTeam { t with storeQ := dropAt t.storeQ idx }.settleQ) ∧
       (e.kind = .writeThrough ∨ e.kind = .nonAlloc → s.registry = [] →
         (∀ w ∈ wordsOf e.pa e.bytes.length, (s.getCore t.core).l1For? t.part w = none) →
         (∀ i < e.bytes.length, (s.drain t e).homeByte (e.pa + i) = e.bytes[i]?.getD 0) ∧
         (∀ a, (a < e.pa ∨ e.pa + e.bytes.length ≤ a) →
           (∀ o d, s.lookupHandle t.part e.handle = .ok (o, d) → a ≠ ODesc.faAddr d + 8 * (e.off / 2 ^ ODesc.pageShift d)) →
           (s.drain t e).homeByte a = s.homeByte a))) ∧
     (∀ e, t.storeQ[idx]? = some e → t.mayDrain idx e = false ∨ s.sentBefore t.core e.seq e.pa e.bytes.length = true → exec (.storeDrain n idx) s = .next s) ∧
     (∀ w, t.storeQ = [] → t.loads = [] → t.atomics = [] → t.winStores = [w] → idx = 0 →
       exec (.storeDrain n 0) s = .next ((s.setTeam { t with winStores := [] }).setPad t.nb w.rank w.off w.bytes))) ∧
  (∀ (s : State) (n : Nat) (t : Team) (p : PendLoad), s.team? n = some t → t.loads = [p] → p.got = none → t.atomics = [] →
     t.winStores = [] →
     (∀ handle off pa, p.place = .obj handle off pa → p.bound = none → s.loadBad t p handle off pa = none →
       s.servedLocal t p pa = true ∨ s.sentBefore t.core p.seq pa p.size = false →
       let r := (s.accessL1 t.core t.part pa p.size).loadBytes t p handle off pa
       exec (.loadPerform n 0) s
         = .next (r.1.setTeam ({ t with loads := [] }.deliver p.target (loadWords p.size p.signed r.2)).settleQ) ∧
       (t.storeQ = [] → (∀ w, (s.getCore t.core).serves t.part p.rq w = none) → r.2 = s.homeBytes pa p.size)) ∧
     (∀ handle off pa b v, p.place = .obj handle off pa → p.bound = some b → s.boundValue t p handle off pa b.1 b.2 = some v →
       s.boundBad t p handle off pa b.1 = none → s.boundLocal t p pa b.1 = true ∨ s.sentBefore t.core p.seq pa p.size = false →
       let seen := s.accessL1 t.core t.part pa p.size
       exec (.loadPerform n 0) s = .next ((if s.boundLocal t p pa b.1 then seen else seen.request t.part handle off pa p.size p.hint).setTeam
         { t with loads := [{ p with got := some v }] })) ∧
     (∀ handle off pa, p.place = .obj handle off pa →
       (p.bound = none ∧ s.servedLocal t p pa = false) ∨ (∃ b, p.bound = some b ∧ s.boundLocal t p pa b.1 = false) →
       s.sentBefore t.core p.seq pa p.size = true → exec (.loadPerform n 0) s = .next s) ∧
     (∀ rank off, p.place = .scratch rank off →
       exec (.loadPerform n 0) s = .next (s.setTeam
         ({ t with loads := [] }.deliver p.target (loadWords p.size p.signed (cellRead 0 (s.pad t.nb rank) off p.size))))))

/-- R331: the new value of an atomic's word for each operation, or none where it writes nothing. R149, R331, R333, R334: an
atomic that may perform delivers the old value of its word and writes the new one, in memory or in a scratchpad. -/
def Obligations.AtomicResults : Prop :=
  (∀ (n old b c : Nat), n = 4 ∨ n = 8 → old < 2 ^ (8 * n) → b < 2 ^ (8 * n) →
     let sgn (x : Nat) : Int := if x < 2 ^ (8 * n - 1) then x else (x : Int) - (2 ^ (8 * n) : Nat)
     atomicOp 0 n old b c = some ((old + b) % 2 ^ (8 * n)) ∧
     (∃ v, atomicOp 1 n old b c = some v ∧ (v = old ∨ v = b) ∧ sgn v ≤ sgn old ∧ sgn v ≤ sgn b) ∧
     (∃ v, atomicOp 2 n old b c = some v ∧ (v = old ∨ v = b) ∧ sgn old ≤ sgn v ∧ sgn b ≤ sgn v) ∧
     atomicOp 3 n old b c = some (min old b) ∧ atomicOp 4 n old b c = some (max old b) ∧
     (∀ i, ((atomicOp 5 n old b c).getD 0).testBit i = (old.testBit i && b.testBit i)) ∧
     (∀ i, ((atomicOp 6 n old b c).getD 0).testBit i = (old.testBit i || b.testBit i)) ∧
     (∀ i, ((atomicOp 7 n old b c).getD 0).testBit i = (old.testBit i != b.testBit i)) ∧
     atomicOp 8 n old b c = some b ∧
     (old = c → atomicOp 9 n old b c = some b) ∧ (old ≠ c → atomicOp 9 n old b c = none) ∧
     (∀ op, op < 10 → ∀ v, atomicOp op n old b c = some v → v < 2 ^ (8 * n)) ∧
     (diminWins b old = true → atomicOp 11 n old b c = some b) ∧ (diminWins b old = false → atomicOp 11 n old b c = none) ∧
     (n = 8 → (un32 (BitVec.ofNat 32 (b / 2 ^ 32))).isNaN = true → diminWins b old = false)) ∧
  (∀ (s : State) (n : Nat) (t : Team) (a : PendAtomic), s.team? n = some t → t.atomics = [a] → t.mayAtomic 0 a = true →
     let done (old : Nat) : Team := ({ t with atomics := [] }.deliver a.target (valueWords a.size old)).settleQ
     (∀ handle off pa, a.place = .obj handle off pa → s.badIn pa a.size = none → s.entryBad t.part handle off = none →
       s.sentBefore t.core a.seq pa a.size = false → a.acquire = false →
       ∃ q, exec (.atomicPerform n 0) s = .next q ∧
         (a.loc = false → s.registry = [] → q.team? n = some (done (s.homeNat pa a.size)) ∧
           (atomicOp a.op a.size (s.homeNat pa a.size) a.b.toNat a.c.toNat = none → q.mem = s.mem) ∧
           (∀ v, atomicOp a.op a.size (s.homeNat pa a.size) a.b.toNat a.c.toNat = some v → pa % 4 = 0 → a.size = 4 ∨ a.size = 8 →
             (∀ w, (s.getCore t.core).serves t.part 1 w = none) → q.homeBytes pa a.size = leBytes a.size v))) ∧
     (∀ rank off, a.place = .scratch rank off → a.acquire = false →
       let old := cellNat 0 (s.pad t.nb rank) off a.size
       (atomicOp a.op a.size old a.b.toNat a.c.toNat = none → exec (.atomicPerform n 0) s = .next (s.setTeam (done old))) ∧
       (∀ v, atomicOp a.op a.size old a.b.toNat a.c.toNat = some v →
         exec (.atomicPerform n 0) s = .next ((s.setTeam (done old)).setPad t.nb rank off (leBytes a.size v)))))

/-- R128, R136, R140, R149: words leave an L1; a recall writes the owner's dirty bytes to the home copy and clears the
registration; a round is released once everything older has performed; a core's ways change at the end of an interval of 65,536
clk. That N below Nmin grows too is DEDUCED (log entry 21). R143, R166, R348, R349: what ends a wait: a bounded load whose bound
is not met in 2^21 clk traps, and one whose bound is met does not; so does a WAITT or a WAITW that has slept 2^25 clk, at its
instruction; a sleeping WAITW reads its word again, and goes on, with the acquire, where its condition holds. -/
def Obligations.CacheAndWaitResults : Prop :=
  (∀ (s : State) (core n idx addr : Nat),
     (∀ x, (s.getCore core).l1Word? (addr / 4) = some x → x.st = .valid → exec (.l1Drop core addr) s
       = .next (s.mapCore core fun c => c.dropL1 (addr / 4))) ∧
     (∀ x k, (s.getCore core).l1Word? (addr / 4) = some x → x.st = .round k → exec (.l1Drop core addr) s = .next s) ∧
     ((s.getCore core).l1Word? (addr / 4) = none → exec (.l1Drop core addr) s = .next s) ∧
     (∀ x, (s.getCore core).l1Word? (addr / 4) = some x → x.st = .owned → s.owner (addr / 4) = some (.core core) →
       core < s.cores.length → x.addr = addr / 4 →
       (∃ q, exec (.l1Drop core addr) s = .next q ∧ exec (.registryRecall addr) s = .next q ∧ q.owner (addr / 4) = none ∧
         (q.getCore core).l1Word? (addr / 4) = none ∧ q.teams = s.teams ∧
         (∀ i < 4, cellGet Config.memDefault q.mem (4 * (addr / 4) + i) = if x.dirty.getLsbD i = true then wordByte x.data i
           else cellGet Config.memDefault s.mem (4 * (addr / 4) + i)) ∧
         (∀ a, a / 4 ≠ addr / 4 → cellGet Config.memDefault q.mem a = cellGet Config.memDefault s.mem a))) ∧
     (s.owner (addr / 4) = none → exec (.registryRecall addr) s = .next s) ∧
     (∀ t e, s.team? n = some t → t.storeQ[idx]? = some e → e.kind = .rrel → t.olderDone e.seq = true →
       s.releaseBad t e.handle = none →
       ∃ q, exec (.rrelPerform n idx) s = .next q ∧ q.team? n = some { t with storeQ := dropAt t.storeQ idx }.settleQ ∧
         (∀ obj d h, s.lookupHandle t.part e.handle = .ok (obj, d) → s.halo? d = some h →
           q.tileRound t.part obj t.rank = min (s.tileRound t.part obj t.rank + 1) 0xFFFFFFFF)) ∧
     (∀ t e, s.team? n = some t → t.storeQ[idx]? = some e → e.kind ≠ .rrel → exec (.rrelPerform n idx) s = .next s) ∧
     (∀ c, s.core? core = some c → s.clk < c.adjClk + 65536 → exec (.l1WayAdjust core) s = .next s) ∧
     (∀ c, s.core? core = some c → c.adjClk + 65536 ≤ s.clk → ∃ q z, exec (.l1WayAdjust core) s = .next q ∧ q.core? core = some z ∧
       z.sampA = 0 ∧ z.sampG = 0 ∧ z.sampZ = 0 ∧ z.adjClk = s.clk ∧
       z.ways = (if c.ways < s.wayMax core ∧ (c.sampA ≤ c.sampG * 64 ∨ c.ways < s.wayMin core) then c.ways + 1
         else if s.wayMin core < c.ways ∧ c.sampZ * 256 < c.sampA then c.ways - 1 else c.ways) ∧ q.teams = s.teams)) ∧
  (∀ (s : State) (n : Nat) (t : Team), s.team? n = some t →
     (∀ p handle off pa b v, t.loads = [p] → p.bound = some b → p.place = .obj handle off pa → p.got = some v ∨
       (∃ v, s.boundValue t p handle off pa b.1 b.2 = some v) → exec (.staleTimeout n) s = .next s) ∧
     (∀ p handle off pa b, t.loads = [p] → p.bound = some b → p.got = none → p.place = .obj handle off pa →
       s.boundValue t p handle off pa b.1 b.2 = none → t.inLdb = true →
       t.sleepClk + 2 ^ 21 ≤ s.clk → ∃ m, exec (.staleTimeout n) s
         = .next (s.takeTrap { t with inLdb := false, loads := [] }
             { code := 0x38, info := infoA off p.size, lane := p.target.lane, handle := handle, next := false } false t.pc t.pc
             (some m)) ∧ (∀ l < 1024, m.getLsbD l = (l == p.target.lane))) ∧
     ((∃ k j, t.status = .waitTags k j) ∨ (∃ x y c m, t.status = .waitWord x y c m) → 2 ^ 25 ≤ s.sleptClk t →
       let t0 : Team := { t with status := .running, slept := 0 }
       let cause : Cause := { code := 0x46, info := s.sleptClk t, lane := 0, handle := 0, next := false }
       exec (.waitTimeout n) s = .next ((s.setTeam t0).takeTrap t0 cause false t.pc t.pc none) ∧
       (t.prm.trapEnt ≠ 0xFFFFFFFF → t.inTrap = false → callCount t.stack < 64 → t.stack.length < depthLimit t.lanes →
         ∃ q u, exec (.waitTimeout n) s = .next q ∧ q.team? n = some u ∧ u.pc = t.prm.trapEnt ∧ u.inTrap = true ∧ u.trapPc = t.pc ∧
           u.trapCause = trapWord cause false ∧ u.trapInfo = BitVec.ofNat 64 (s.sleptClk t) ∧ u.status = .running ∧
           (∃ e es, u.stack = e :: es ∧ e.kind = .call ∧ e.pc = t.pc ∧ e.trapCall = true ∧ es = t.stack) ∧
           u.sreg = t.sreg ∧ u.vreg = t.vreg ∧ q.mem = s.mem)) ∧
     (s.sleptClk t < 2 ^ 25 → exec (.waitTimeout n) s = .next s) ∧
     (∀ x y c m a as, t.status = .waitWord x y c m → t.loads = [] → t.atomics = [] → t.winStores = [] → t.storeQ = [] →
       t.noStep →
       let t0 : Team := { t with status := .running, slept := s.sleptClk t }
       let s0 := s.setTeam t0
       s0.access t0 (t.readC c) [20] 8 0x30 false [(0, (t.readS x).toNat)] = .ok (a :: as) →
       let p : PendLoad := { seq := s.nextSeq, place := .obj (Cap.handle (t.readC c)) a.off a.xl.pa, size := 8, signed := false
                             rq := 1, hint := 0, target := { cls := 0, reg := 0, lane := 0, ySlot := 2, first := false, n := 0 }
                             bound := none, got := none }
       s0.loadBad t0 p (Cap.handle (t.readC c)) a.off a.xl.pa = none → s0.sentBefore t.core p.seq a.xl.pa 8 = false →
       let r := (s0.accessL1 t.core t.part a.xl.pa 8).loadBytes t0 p (Cap.handle (t.readC c)) a.off a.xl.pa
       (waitHolds m (leNat r.2) (t.readS64 y) = false → exec (.waitwReread n) s
         = .next (r.1.setTeam { t0 with status := .waitWord x y c m, sleepClk := s.clk, port := none, runLen := 0 })) ∧
       (waitHolds m (leNat r.2) (t.readS64 y) = true → t0.watch true false (Cap.handle (t.readC c)) 8 (a :: as) = [] →
         ∃ q, exec (.waitwReread n) s = .next q ∧
           q.team? n = some { t0 with slept := 0, pc := t.pc + 8, runLen := 0, port := none })))

/-- R171, R172, R173, R175: a batch closes 2 µs after it opened or at 32 entries, and each partition gets a header and its
records, with the device time of the close; the oldest waiting record, or the batch that it heads, goes to the fault queue where
it fits whole. -/
def Obligations.FaultQueueResults : Prop :=
  ∀ (s : State) (core p : Nat),
    let c := s.getCore core
    let x := s.getPart p
    let rec1 (e : WaitEntry) : FaultRec :=
      { FaultRec.of e.cause 1 e.token e.handle core e.slot e.agent e.info.toNat e.info.toNat e.pc e.lane with
          cursor := BitVec.ofNat 64 e.cursor, count := e.waiters, time := s.devTime }
    let head (n : Nat) : FaultRec := { FaultRec.of 0 2 0 0 core 0 0 0 0 0 0 with count := n, time := s.devTime }
    (∀ k e, c.batchClk = some k → core < s.cores.length → k + 2 * 2600 ≤ s.clk → c.waits = [e] → e.posted = false → e.part = p →
      c.batch.length ≤ 1 → p < s.parts.length →
      ∃ q, exec (.faultBatchClose core) s = .next q ∧ (q.getPart p).records = x.records ++ [head 1, rec1 e] ∧
        (q.getCore core).batchClk = none ∧ (q.getCore core).waits = (if e.wake = true then [] else [{ e with posted := true }]) ∧
        q.teams = s.teams) ∧
    (∀ k, c.batchClk = some k → k + 2 * 2600 ≤ s.clk ∨ 32 ≤ c.batch.length → core < s.cores.length → p < s.parts.length →
      ∃ q, exec (.faultBatchClose core) s = .next q ∧
        let es := (c.waits.filter fun e => !e.posted).take 32
        let mine := es.filter fun e => e.part == p
        (q.getPart p).records = x.records ++ (if mine = [] then [] else head mine.length :: mine.map rec1) ∧
        (q.getCore core).batch = c.batch.drop es.length ∧ q.teams = s.teams) ∧
    (∀ k, c.batchClk = some k → s.clk < k + 2 * 2600 → c.batch.length < 32 → exec (.faultBatchClose core) s = .next s) ∧
    (∀ r rs, p < s.parts.length → x.records = r :: rs → r.kind ≠ 2 → 2 ≤ x.desc.fqLen → x.fqRd < x.desc.fqLen → x.fqWr < x.desc.fqLen →
      ((x.fqWr + 1) % x.desc.fqLen ≠ x.fqRd → ∃ q, exec (.faultRecordPost p) s = .next q ∧ (q.getPart p).records = rs ∧
        (q.getPart p).fqWr = (x.fqWr + 1) % x.desc.fqLen ∧
        (q.getPart p).phase = (if (x.fqWr + 1) % x.desc.fqLen = 0 then !x.phase else x.phase) ∧
        (s.registry = [] → q.homeBytes (x.desc.fqBase + 64 * x.fqWr) 64 = r.bytes p x.phase)) ∧
      ((x.fqWr + 1) % x.desc.fqLen = x.fqRd → exec (.faultRecordPost p) s = .next s)) ∧
    (∀ r rs tail, p < s.parts.length → x.records = r :: (rs ++ tail) → r.kind = 2 → r.count = rs.length → 2 ≤ x.desc.fqLen →
      x.fqRd < x.desc.fqLen → x.fqWr < x.desc.fqLen →
      let room := x.desc.fqLen - 1 - (x.fqWr + x.desc.fqLen - x.fqRd) % x.desc.fqLen
      (rs.length + 1 ≤ room → ∃ q, exec (.faultRecordPost p) s = .next q ∧ (q.getPart p).records = tail ∧
        (q.getPart p).fqWr = (x.fqWr + rs.length + 1) % x.desc.fqLen) ∧
      (room < rs.length + 1 → exec (.faultRecordPost p) s = .next s))

/-- R153, R154, R155, R339, R340, R342, R346: the head of a copy queue performs once the older stores of its team have drained,
and its completion is one step: the word gains one, its mailbox gets its arrival, the tag retires. A copy between two scratchpads
moves its bytes in ascending order and fills the rest with zeros. An operation waits while a scratchpad that it writes is saved
with its team. What a stop does to the queue is log entries 35 and 36. R124, R156, R220, R356, R357, R358: the head of the
weight-buffer queue performs; a tile takes the units that its element code asks for; units are written whole; an element's code
sits in its own bits of the tile; a gathered tile that lies beyond the matrix's rows is its header alone. A parked WBGTH goes on
from its cursor; what has been built of its tile is placed (log entry 44). R176, R191, R192, R194, R212, R213: an operation that
asked for a wait-table entry parks when one can be had; a request that has performed writes its words into the entries that its
line is owed, and its tag completes once no entry is owed to its ISEND; a request that hangs raises ISL_HANG, gives null records,
and the slot reloads its own envelope. Which request counts as hung is log entry 37. -/
def Obligations.EngineResults : Prop :=
  (∀ (s : State) (core : Nat) (op : EngineOp) (rest : List EngineOp), (s.getCore core).copyQ = op :: rest →
     (s.engReady op = true → ∀ op1, s.startEng op = .ok op1 →
       (∀ s1 op2, s.copyWork core op1 = (s1, op2, none) →
         exec (.enginePerform core) s = .next (s1.setEngHead core false { op2 with done := true })) ∧
       (∀ s1 op2 e, s.copyWork core op1 = (s1, op2, some e) → exec (.enginePerform core) s = .next (s1.stopEng core false op2 e))) ∧
     (s.engReady op = true → ∀ f, s.startEng op = .error f → exec (.enginePerform core) s = .next (s.stopEng core false op (.fail f))) ∧
     (s.engReady op = false → exec (.enginePerform core) s = .next s) ∧
     (∀ r ∈ op.job.padsWritten, (s.padAway op.nb r).isSome = true → exec (.enginePerform core) s = .next s) ∧
     (∀ r1 r2 a b n v, op.job = .pieces [{ src := .scratch r1, srcOff := a, valid := v, dst := .scratch r2, dstOff := b, len := n
                                           lane := 0 }] →
       op.cw = none → op.cursor = 0 → s.engReady op = true → r1 ≠ r2 → s.padAway op.nb r1 = none → (∃ t, s.rankTeam? op.nb r2 = some t) →
       (∀ x ∈ s.teams, ∀ y ∈ s.teams, x.uid = y.uid → x = y) →
       ∃ q, exec (.enginePerform core) s = .next q ∧ (∀ o, cellGet 0 (q.pad op.nb r2) o = if b ≤ o ∧ o < b + n then
           (if o - b < v then cellGet 0 (s.pad op.nb r1) (a + (o - b)) else 0) else cellGet 0 (s.pad op.nb r2) o) ∧
         q.mem = s.mem ∧ q.pad op.nb r1 = s.pad op.nb r1) ∧
     (∀ pa, op.done = true → s.cwBad op = some pa → exec (.copyCompletion core) s = .next (s.uncorrectable pa false)) ∧
     (op.done = true → op.cw = none → op.hasTag = true →
       exec (.copyCompletion core) s = .next ((s.popEng core false).tagDone op.uid op.tag)) ∧
     (∀ w pa, op.done = true → op.cw = some w → w.pa = some pa → s.cwBad op = none →
       let q := (s.popEng core false).deviceWrite op.part w.handle w.off pa (leBytes 8 (s.homeNat pa 8 + 1))
       let u := match w.mailbox with
         | none => q
         | some m => q.arrival op.part m
       exec (.copyCompletion core) s = .next (if op.hasTag then u.tagDone op.uid op.tag else u)) ∧
     (op.done = false → exec (.copyCompletion core) s = .next s)) ∧
  (∀ (s : State) (core : Nat) (op : EngineOp) (rest : List EngineOp), (s.getCore core).wbQ = op :: rest → s.engReady op = true →
     (∀ h off lim u, op.job = .weightLoad h off lim u 1 →
       (∀ s1 k, s.loadTile core op.part op.nb op.hint h off lim u = .ok (s1, k) → exec (.wbldPerform core) s = .next (s1.popEng core true)) ∧
       (∀ e, s.loadTile core op.part op.nb op.hint h off lim u = .error e → exec (.wbldPerform core) s = .next (s.stopEng core true op e))) ∧
     (∀ h off base lim u k0 n0 d s0, op.job = .weightGather h off base lim u k0 n0 none →
       (∀ e, s.gatherRead op h 0 lim off 64 = .error e → exec (.wbgthPerform core) s = .next (s.stopEng core true op e)) ∧
       (s.gatherRead op h 0 lim off 64 = .ok (s0, d) → gatherOk d = true → bits d 388 388 = 0 → bits d 31 0 ≤ k0 →
         u + tileUnits (bits (bits d 391 384) 3 0) ≤ 1024 → exec (.wbgthPerform core) s = .next ((s0.mapCore core fun c =>
           c.putUnits op.nb h u (leBytes (64 * tileUnits (bits (bits d 391 384) 3 0)) (bits d 391 384))).popEng core true)) ∧
       (s.gatherRead op h 0 lim off 64 = .ok (s0, d) → gatherOk d = false →
         exec (.wbgthPerform core) s = .next (s.stopEng core true op (wbFail 0x48 (bits d 391 384) h)))) ∧
     (∀ h off base lim u k0 n0 c s1 c1 e, op.job = .weightGather h off base lim u k0 n0 (some c) →
       s.gatherWork op h base lim k0 n0 c = (s1, c1, some e) → exec (.wbgthPerform core) s
         = .next ((s1.mapCore core fun x => x.putUnits op.nb h u
           (leBytes (64 * tileUnits (bits (gatherOf c.desc).fmt 3 0)) c1.tile)).stopEng core true
             { op with job := .weightGather h off base lim u k0 n0 (some c1) } e)) ∧
     (∀ (c : Core) nb h u bs i, i < ceilDiv bs.length 64 → (c.putUnits nb h u bs).unit (u + i)
       = (bs.drop (64 * i)).take 64 ++ List.replicate (64 - ((bs.drop (64 * i)).take 64).length) 0) ∧
     (∀ (c : Core) nb h u bs j, j < u ∨ u + ceilDiv bs.length 64 ≤ j → (c.putUnits nb h u bs).unit j = c.unit j) ∧
     (List.range 16).map tileUnits = [9, 9, 9, 9, 9, 13, 13, 17, 17, 17, 17, 17, 33, 33, 65, 33] ∧
     (∀ w tile k n v, w = 4 ∨ w = 6 ∨ w = 8 ∨ w = 16 ∨ w = 32 → k < 32 → n < 32 →
       tilePut w tile k n v / 2 ^ (512 + n * 32 * w + k * w) % 2 ^ w = v % 2 ^ w ∧
       ∀ i, i < 512 + n * 32 * w + k * w ∨ 512 + n * 32 * w + k * w + w ≤ i → (tilePut w tile k n v).testBit i = tile.testBit i)) ∧
  (∀ (s : State) (core slot : Nat),
     (∀ op a, (s.getCore core).copyQ = [op] → op.asking = some a → (s.getCore core).slotA.queue = [] →
       (s.getCore core).slotB.queue = [] → (s.getCore core).wbQ = [] →
       ((s.getCore core).openWaits.length < 64 → exec (.engineParkEntryGrant core 0) s = .next (s.parkEng core false op a) ∧
         (core < s.cores.length → ∃ tok z, (s.parkEng core false op a).core? core = some z ∧
           z.copyQ = [{ op with parked := some tok, asking := none }])) ∧
       (64 ≤ (s.getCore core).openWaits.length → (s.getCore core).waitFor? op.part a.key = none →
         exec (.engineParkEntryGrant core 0) s = .next s)) ∧
     (∀ r, (s.getSlot core slot).queue = [r] → r.lanes = [] → r.out = false → r.fence = none →
       exec (.islandEntryWrite core slot) s = .next (((((s.mapSlot core slot fun x => { x with queue := [] }).settleCore
         core).writeLines r).passTraps core slot r).isendTags ((r.id, r.uid, r.tag) :: (s.owing r.uid).map fun o => (o.1, r.uid, o.2)))) ∧
     (∀ uid l id tag, (∀ q, q ∈ l ↔ q = (id, uid, tag)) → s.isendTags l = if s.isendDone id uid then s.tagDone uid tag else s) ∧
     (∀ id uid t ln o, s.team? uid = some t → ln ∈ t.lines → o ∈ ln.owed → o.req = id → s.isendDone id uid = false) ∧
     (∀ r t x, (s.getSlot core slot).queue = [r] → r.lanes = [] → r.out = false → r.fence = none → r.traps = [x] → slot < 2 →
       s.team? r.uid = some t → t.status = .running → t.async = none →
       ∃ q u, exec (.islandEntryWrite core slot) s = .next q ∧ q.team? r.uid = some u ∧ u.async = some x) ∧
     (∀ (l : Line) req tag pass word (ws : List (Nat × Word)) (v : Nat → Word),
       l.owed = [{ req := req, tag := tag, pass := pass, word := word, data := List.replicate 32 none }] →
       ws = (List.range 32).map (fun i => (i, v i)) →
       l.put req pass word ws = { entries := l.entries ++ [(List.range 32).map v], owed := [] }) ∧
     (∀ r e t, slot < 2 → core < s.cores.length → (s.getSlot core slot).queue = [r] → (s.getSlot core slot).tris = [] →
       (s.getSlot core slot).reloading = false → (s.getSlot core slot).env = some e → r.fence = none → r.out = false → r.traps = [] →
       s.nextOf core slot = some 0 → r.since + e.hangBound + 2 ^ 20 ≤ s.clk →
       s.team? r.uid = some t → t.status = .running → t.async = none →
       ∃ q u, exec (.islHang core slot) s = .next q ∧ q.team? r.uid = some u ∧ u.pc = t.pc ∧
         u.async = some
           { cause := 0x57, info := BitVec.ofNat 64 slot, handle := 0, lane := 0, pc := r.pc, agent := 2 + slot, cursor := 0 } ∧
         (q.getSlot core slot).queue = [] ∧ (q.getSlot core slot).reloading = true ∧
         (q.getSlot core slot).regs = resetRegs e.cls ∧ (q.getSlot core slot).env = some e ∧
         ∀ (j : Nat) (ln : Line) (o : Owed), t.lines[j]? = some ln → ln.owed = [o] → o.req = r.id → o.pass = r.pass →
           u.lines[j]? = some { entries := ln.entries ++ [List.replicate 32 0], owed := [] }) ∧
     (∀ e, (s.getSlot core slot).env = some e → (∀ r ∈ (s.getSlot core slot).queue, s.clk < r.since + e.hangBound + 2 ^ 20) →
       exec (.islHang core slot) s = .next s))

/-- R153, R189, R190, R196, R200, R204, R208, R210, R212: one request of a slot. The first lane of the request that performs next
is served by the step of its class and KIND: its words join the request's result and it leaves; a trap-class failure gives it the
null record and one trap for each cause of its ISEND, the lowest lane's; a park-class one makes it step out, and the lanes behind
it go on. An ISEND.SYNC waits for the older loads and atomics of its team. Title requests are the title's own (log entry 14). -/
def Obligations.IslandRequestResults : Prop :=
  ∀ (s : State) (core slot i : Nat) (r : IslandReq) (l : LaneReq) (rest : List LaneReq),
    s.nextOf core slot = some i → (s.getSlot core slot).queue[i]? = some r → r.lanes = l :: rest →
    s.submitted r.uid r.after = true →
    let done (s1 : State) (ws : List Word) : State :=
      s1.mapReq core slot i fun r =>
        { r with lanes := r.lanes.drop 1, result := r.result ++ [(l.lane, ws)]
                 missed := r.missed || decide ((s1.getSlot core slot).cache ≠ (s.getSlot core slot).cache) }
    let all : List Instr := [.bind core slot, .regw core slot, .texfBilinear core slot, .texfTrilinear core slot,
      .texfAnisotropic core slot, .travClosestHit core slot, .travAnyHit core slot, .travKeyLookup core slot,
      .splatComposite core slot, .blndBlend core slot, .blndResolve core slot, .titleRequest core slot]
    (r.sync = true → s.loadsBefore r.uid r.after = false → ∀ e ∈ all, exec e s = .next s) ∧
    (r.sync = false → r.bad = true → ∀ e ∈ all, exec e s
      = .next (s.trapReq core slot i { cause := 0x52, info := l.lane, lane := l.lane, handle := 0, park := false, page := 0 })) ∧
    (∀ f : Fail, slot < 2 → core < s.cores.length → ∃ r1, (s.trapReq core slot i f).teams = s.teams ∧
      ((s.trapReq core slot i f).getSlot core slot).queue[i]? = some r1 ∧ r1.lanes = rest ∧
      r1.result = r.result ++ [(f.lane, List.replicate r.k 0)] ∧ (f.cause ∈ r.noted → r1.traps = r.traps) ∧
      (f.cause ∉ r.noted → let x : AsyncTrap := { cause := BitVec.ofNat 8 f.cause, info := BitVec.ofNat 64 f.info, handle := f.handle
                                                  lane := f.lane, pc := r.pc, agent := 2 + slot, cursor := 0 }
        (r.traps = [] → r1.traps = [x]) ∧
        ∀ y, r.traps = [y] → r1.traps = if y.cause = x.cause then (if x.lane < y.lane then [x] else [y]) else [y, x])) ∧
    (∀ f : Fail, slot < 2 → core < s.cores.length → ∃ o, ((s.stepOut core slot i r f).getSlot core slot).queue
        = (s.getSlot core slot).queue.take i ++ o :: { r with lanes := rest } :: (s.getSlot core slot).queue.drop (i + 1) ∧
      o.lanes = [l] ∧ o.id = r.id ∧ o.result = [] ∧ o.traps = [] ∧ o.out = true) ∧
    (r.sync = false → r.bad = false → kindWords r.cls (l.words.headD 0) r.k = some r.k →
      (l.kind = 0xE → l.word 0 < 128 → exec (.bind core slot) s = .next (done (s.mapSlot core slot fun x =>
        { x with regs := (List.range 4).foldl (fun rs j => modifyAt rs (4 * (l.word 0 / 16 % 8) + j) fun _ =>
          BitVec.ofNat 32 (r.cap.toNat / 2 ^ (32 * j))) x.regs }) [])) ∧
      (∀ e, l.kind = 0xF → (s.getSlot core slot).env = some e → l.word 0 < 4096 → l.word 0 / 16 % 4 = 0 →
        regwListed e (l.word 0 / 16) = true → exec (.regw core slot) s = .next (done (s.mapSlot core slot fun x =>
          { x with regs := modifyAt x.regs (l.word 0 / 64) fun _ => BitVec.ofNat 32 (l.word 1) }) [])) ∧
      ∀ (e : Instr) (f : State → IslandReq → LaneReq → Except EngStop (State × List Word)),
        (r.cls = 1 ∧ l.kind = 1 ∧ e = .texfBilinear core slot ∧ f = State.texf core slot) ∨
        (r.cls = 1 ∧ l.kind = 2 ∧ e = .texfTrilinear core slot ∧ f = State.texf core slot) ∨
        (r.cls = 1 ∧ l.kind = 3 ∧ e = .texfAnisotropic core slot ∧ f = State.texf core slot) ∨
        (r.cls = 2 ∧ l.kind = 1 ∧ (s.getSlot core slot).tris.length < 64 ∧ e = .rastTriangle core slot ∧ f = State.rast core slot) ∨
        (r.cls = 3 ∧ l.kind = 1 ∧ e = .travClosestHit core slot ∧ f = State.trav core slot) ∨
        (r.cls = 3 ∧ l.kind = 2 ∧ e = .travAnyHit core slot ∧ f = State.trav core slot) ∨
        (r.cls = 3 ∧ l.kind = 3 ∧ e = .travKeyLookup core slot ∧ f = State.trav core slot) ∨
        (r.cls = 4 ∧ l.kind = 1 ∧ e = .splatComposite core slot ∧ f = State.splat core slot) ∨
        (r.cls = 5 ∧ l.kind = 1 ∧ e = .blndBlend core slot ∧ f = State.blend core slot) ∨
        (r.cls = 5 ∧ l.kind = 2 ∧ e = .blndResolve core slot ∧ f = State.resolve core slot) ∨
        (r.cls = 6 ∧ l.kind ≠ 0xE ∧ l.kind ≠ 0xF ∧ e = .titleRequest core slot ∧ f = State.title core slot) →
        (∀ s1 ws, f s r l = .ok (s1, ws) → exec e s = .next (done s1 ws)) ∧
        (∀ x, f s r l = .error (.fail x) → x.cause ≠ 0x39 →
          exec e s = .next (if x.park then s.stepOut core slot i { r with sync := false } x else s.trapReq core slot i x)) ∧
        (∀ a, f s r l = .error (.ecc a) → exec e s = .next (s.uncorrectable a false)))

/-- R195, R197, R201, R202: the weights of the taps of a filter add up to one; the addressing of columns and rows; each edge owns
its points on one side only; every pixel that a triangle covers is in a quad of its list, and each quad covers a pixel. R205,
R206, R207, R209, R211: a key leaf answers the value beside its key and a key node the child after its keys; a miss returns
infinity (zero for a key) and all ones; splats are sorted by their keys, equals in list order; a blend stores 8-bit channels
exactly and averages four samples to nearest. -/
def Obligations.IslandArithmeticResults : Prop :=
  ((∀ (t : TexDesc) (m n : Nat) (u v lod du dv : Word), 0 < n →
     ((t.bilin 1 m u v).map Tap.weight).sum = 2 ^ 16 ∧ ((t.tril u v lod).map Tap.weight).sum = 2 ^ 24 ∧
     ((t.aniso n u v lod du dv).map Tap.weight).sum = 2 ^ 24 * n) ∧
   (∀ (n : Nat) (i : Int), 0 < n → (∃ j, texAddr 0 n i = some j ∧ j < n ∧ (n : Int) ∣ i - j) ∧
     (∃ j, texAddr 1 n i = some j ∧ j < n ∧ ((0 ≤ i ∧ i < n) → (j : Int) = i) ∧ (i < 0 → j = 0) ∧ ((n : Int) ≤ i → j = n - 1)) ∧
     (texAddr 2 n i = if 0 ≤ i ∧ i < n then some i.toNat else none)) ∧
   (∀ (i j : Vertex) (px py : Int), edgeFn i j px py = 0 → (i.x ≠ j.x ∨ i.y ≠ j.y) → edgeIn i j px py = !edgeIn j i px py) ∧
   (∀ (t : TriSetup), 0 ≤ t.x0 → 0 ≤ t.y0 →
     (∀ x y, t.covers x y = true → ∃ q ∈ t.quads, q.x = x / 2 * 2 ∧ q.y = y / 2 * 2 ∧ q.cover[x % 2 + y % 2 * 2]? = some true) ∧
     (∀ q ∈ t.quads, q.x % 2 = 0 ∧ q.y % 2 = 0 ∧ true ∈ q.cover ∧ q.cover.length = 4)) ∧
   (∀ (s : State) (core slot : Nat) (t : Tri) (rest : List Tri), (s.getSlot core slot).tris = t :: rest →
     ∃ q la, exec (.rastPixelTeamOffer core slot) s = .next q ∧ q.launches = s.launches ++ [la] ∧ la.id = s.nextId ∧
       la.part = t.part ∧ la.queue = t.queue ∧ la.cls = t.cls ∧ la.prm = t.prm ∧ la.quads = t.quads.take (t.prm.lanes / 4) ∧
       la.handlerSeq = some t.ident ∧ la.started = false ∧ q.teams = s.teams ∧ q.mem = s.mem)) ∧
  ((∀ (e : TravEnv) (fan prim : Nat) (ws : List Word) (t : Trav) (i : Nat), e.kind = 3 → i < fan → fan ≤ ws.length →
     ws[i]? = some e.key → (∀ j < i, ws[j]? ≠ some e.key) →
     visit e ⟨6, fan, 0, 0⟩ prim ws t
       = ([], { t with hit := some { t := 0, id := (ws[fan + i]?).getD 0, u := 0, v := 0 }, stopped := true })) ∧
   (∀ (e : TravEnv) (fan prim : Nat) (ws : List Word) (t : Trav), e.kind = 3 → (∀ j < fan, ws[j]? ≠ some e.key) →
     visit e ⟨6, fan, 0, 0⟩ prim ws t = ([], t)) ∧
   (∀ (e : TravEnv) (fan prim : Nat) (ws : List Word) (t : Trav), e.kind = 3 → ws.length = fan - 1 →
     visit e ⟨5, fan, 0, 0⟩ prim ws t = ([(ws.filter fun k => decide (k.toNat ≤ e.key.toNat)).length], t)) ∧
   (∀ (t : Trav) uv, t.hit = none → travWords 1 uv t = (if uv then [0x7F800000, 0xFFFFFFFF, 0, 0] else [0x7F800000, 0xFFFFFFFF]) ∧
     travWords 3 false t = [0, 0xFFFFFFFF]) ∧
   (∀ l : List Splat, (sortSplats l).Perm l ∧ (sortSplats l).Pairwise (fun a b => a.key ≤ b.key) ∧
     ∀ k, (sortSplats l).filter (fun x => x.key == k) = l.filter fun x => x.key == k) ∧
   (∀ c < 256, unorm8 (BitVec.ofNat 32 (ratRound fp32 (c : Nat) 255 0)) = c) ∧
   (∀ x : Word, unorm8 x ≤ 255) ∧
   (∀ v : Nat, ∀ c < 4, ∃ b : Byte, (average false v)[c]? = some b ∧
     let sum := bits v (8 * c + 7) (8 * c) + bits v (8 * c + 39) (8 * c + 32) + bits v (8 * c + 71) (8 * c + 64) +
       bits v (8 * c + 103) (8 * c + 96)
     4 * b.toNat ≤ sum + 2 ∧ sum ≤ 4 * b.toNat + 2))
end

