-- ==== Sys2Proof/Laws/Arith.lean ====
section
/-!
SUPPORT. The integer functions of Machine/Arith.lean, each as the arithmetic that R274, R275 and R285 name.
-/
namespace Sys2Proof.Machine

theorem mulLow_eq (a b : Word) : mulLow a b = BitVec.ofNat 32 (a.toNat * b.toNat) := by
  apply BitVec.eq_of_toNat_eq
  simp [mulLow, BitVec.toNat_mul]

/-- A product of two words keeps its exact signed value in 64 bits. -/
theorem signExtend_mul_toInt (a b : Word) : (a.signExtend 64 * b.signExtend 64).toInt = a.toInt * b.toInt := by
  have h1 := BitVec.toInt_mul_toInt_le (x := a) (y := b)
  have h2 := BitVec.le_toInt_mul_toInt (x := a) (y := b)
  rw [BitVec.toInt_mul, BitVec.toInt_signExtend_of_le (by omega), BitVec.toInt_signExtend_of_le (by omega)]
  apply Int.bmod_eq_of_le <;> omega

theorem mulHighS_eq (a b : Word) : mulHighS a b = (a.signExtend 64 * b.signExtend 64).extractLsb' 32 32 := by
  have h := signExtend_mul_toInt a b
  apply BitVec.eq_of_toNat_eq
  generalize hp : a.signExtend 64 * b.signExtend 64 = p at h
  rw [mulHighS, ← h, BitVec.extractLsb'_toNat, BitVec.toNat_ofInt, BitVec.toInt_eq_toNat_cond, Nat.shiftRight_eq_div_pow]
  have := p.isLt
  split <;> omega

theorem mulHighU_eq (a b : Word) : mulHighU a b = (a.setWidth 64 * b.setWidth 64).extractLsb' 32 32 := by
  apply BitVec.eq_of_toNat_eq
  have ha := a.isLt
  have hb := b.isLt
  have h : a.toNat * b.toNat < 2 ^ 32 * 2 ^ 32 := Nat.mul_lt_mul'' ha hb
  rw [mulHighU, BitVec.extractLsb'_toNat, BitVec.toNat_ofNat, BitVec.toNat_mul, BitVec.toNat_setWidth, BitVec.toNat_setWidth,
    Nat.shiftRight_eq_div_pow, Nat.mod_eq_of_lt (a := a.toNat) (by omega), Nat.mod_eq_of_lt (a := b.toNat) (by omega),
    Nat.mod_eq_of_lt (a := a.toNat * b.toNat) (by omega)]

theorem shl_eq (a b : Word) : shl a b = if 32 ≤ b.toNat then 0 else BitVec.ofNat 32 (a.toNat * 2 ^ b.toNat) := by
  unfold shl
  split
  · rfl
  · apply BitVec.eq_of_toNat_eq
    rw [BitVec.toNat_shiftLeft, BitVec.toNat_ofNat, Nat.shiftLeft_eq]

theorem shr_eq (a b : Word) : shr a b = if 32 ≤ b.toNat then 0 else BitVec.ofNat 32 (a.toNat / 2 ^ b.toNat) := by
  unfold shr
  split
  · rfl
  · apply BitVec.eq_of_toNat_eq
    have := Nat.div_le_self a.toNat (2 ^ b.toNat)
    have := a.isLt
    rw [BitVec.toNat_ushiftRight, BitVec.toNat_ofNat, Nat.shiftRight_eq_div_pow, Nat.mod_eq_of_lt (by omega)]

theorem sar_eq (a b : Word) : sar a b = BitVec.ofInt 32 (a.toInt / ((2 ^ min b.toNat 31 : Nat) : Int)) := by
  unfold sar
  split
  · have h : min b.toNat 31 = 31 := by omega
    rw [h]
    have h1 := BitVec.toInt_lt (x := a)
    have h2 := BitVec.le_toInt a
    have h3 : a.getLsbD 31 = decide (a.toInt < 0) := by
      rw [← BitVec.msb_eq_toInt, BitVec.msb_eq_getLsbD_last]
    rw [h3]
    by_cases k : a.toInt < 0
    · have : a.toInt / ((2 ^ 31 : Nat) : Int) = -1 := by omega
      simp only [k, decide_true, this]
      rfl
    · have : a.toInt / ((2 ^ 31 : Nat) : Int) = 0 := by omega
      simp only [k, decide_false, this]
      rfl
  · have h : min b.toNat 31 = b.toNat := by omega
    rw [h]
    apply BitVec.eq_of_toInt_eq
    rw [BitVec.toInt_sshiftRight, BitVec.toInt_ofInt, Int.shiftRight_eq_div_pow]
    symm
    have h1 := BitVec.toInt_lt (x := a)
    have h2 := BitVec.le_toInt a
    have hp : (0 : Int) < ((2 ^ b.toNat : Nat) : Int) := by exact_mod_cast Nat.two_pow_pos _
    have h4 : a.toInt / ((2 ^ b.toNat : Nat) : Int) < 2 ^ 31 := Int.ediv_lt_of_lt_mul hp (by
      have : (2 : Int) ^ 31 ≤ 2 ^ 31 * ((2 ^ b.toNat : Nat) : Int) := by omega
      omega)
    have h5 : -(2 ^ 31 : Int) ≤ a.toInt / ((2 ^ b.toNat : Nat) : Int) := Int.le_ediv_of_mul_le hp (by
      have : (2 : Int) ^ 31 ≤ 2 ^ 31 * ((2 ^ b.toNat : Nat) : Int) := by omega
      omega)
    apply Int.bmod_eq_of_le <;> omega

theorem minS_eq (a b : Word) : minS a b = if b.toInt < a.toInt then b else a := by
  unfold minS
  by_cases h : a.toInt ≤ b.toInt
  · rw [if_pos h, if_neg (by omega)]
  · rw [if_neg h, if_pos (by omega)]

theorem maxS_eq (a b : Word) : maxS a b = if a.toInt < b.toInt then b else a := by
  unfold maxS
  by_cases h : a.toInt < b.toInt
  · rw [if_pos (by omega), if_pos h]
  · by_cases k : a.toInt = b.toInt
    · rw [if_pos (by omega), if_neg h]; exact (BitVec.eq_of_toInt_eq k).symm
    · rw [if_neg (by omega), if_neg h]

theorem minU_eq (a b : Word) : minU a b = if b.toNat < a.toNat then b else a := by
  unfold minU
  by_cases h : a.toNat ≤ b.toNat
  · rw [if_pos h, if_neg (by omega)]
  · rw [if_neg h, if_pos (by omega)]

theorem maxU_eq (a b : Word) : maxU a b = if a.toNat < b.toNat then b else a := by
  unfold maxU
  by_cases h : a.toNat < b.toNat
  · rw [if_pos (by omega), if_pos h]
  · by_cases k : a.toNat = b.toNat
    · rw [if_pos (by omega), if_neg h]; exact (BitVec.eq_of_toNat_eq k).symm
    · rw [if_neg (by omega), if_neg h]

theorem absW_eq (a : Word) : absW a = BitVec.ofNat 32 a.toInt.natAbs := by
  have h3 : a.getLsbD 31 = decide (a.toInt < 0) := by
    rw [← BitVec.msb_eq_toInt, BitVec.msb_eq_getLsbD_last]
  unfold absW
  rw [h3]
  have h1 := a.isLt
  have h2 := BitVec.toInt_eq_toNat_cond a
  by_cases k : a.toInt < 0
  · simp only [k, decide_true, if_true]
    apply BitVec.eq_of_toNat_eq
    rw [BitVec.toNat_neg, BitVec.toNat_ofNat]
    split at h2 <;> omega
  · simp only [k, decide_false]
    apply BitVec.eq_of_toNat_eq
    rw [BitVec.toNat_ofNat]
    split at h2 <;> simp <;> omega

/-- Bits of a number built from booleans. -/
theorem testBit_maskOfList (l : List Bool) (i : Nat) : (maskOfList l).testBit i = l[i]?.getD false := by
  induction l generalizing i with
  | nil => simp [maskOfList]
  | cons b bs ih =>
    cases i with
    | zero => cases b <;> simp [maskOfList, b2n, Nat.testBit_zero, Nat.add_mul_mod_self_left]
    | succ i =>
      have : (b2n b + 2 * maskOfList bs) / 2 = maskOfList bs := by cases b <;> simp [b2n] <;> omega
      rw [maskOfList, Nat.testBit_succ, this, ih]
      simp

theorem brev_eq (a : Word) : brev a = a.reverse := by
  apply BitVec.eq_of_getLsbD_eq
  intro i hi
  rw [brev, BitVec.getLsbD_ofNat, testBit_maskOfList, BitVec.getLsbD_reverse, BitVec.getMsbD]
  simp [hi]

theorem popc_prefix (a : Word) (n : Nat) :
    ∀ acc, BitVec.cpopNatRec a n acc = ((List.range n).filter fun i => a.getLsbD i).length + acc := by
  induction n with
  | zero => simp
  | succ n ih =>
    intro acc
    rw [BitVec.cpopNatRec_succ, ih, List.range_succ, List.filter_append]
    cases h : a.getLsbD n <;> simp [h] <;> omega

theorem popc_eq (a : Word) : popc a = a.cpop := by
  apply BitVec.eq_of_toNat_eq
  have h := popc_prefix a 32 0
  have := List.length_filter_le (fun i => a.getLsbD i) (List.range 32)
  rw [BitVec.toNat_cpop, h, popc, BitVec.toNat_ofNat, Nat.mod_eq_of_lt]
  · rfl
  · simp at this; omega

theorem clz_eq (a : Word) : clz a = a.clz := by
  apply BitVec.eq_of_toNat_eq
  have hle : a.clz.toNat ≤ 32 := by have := BitVec.clz_le (x := a); simpa [BitVec.le_def] using this
  rw [clz, bitLen, BitVec.toNat_ofNat]
  by_cases h : a = 0
  · subst h
    have : (0 : Word).clz = 32 := BitVec.clz_eq_iff_eq_zero.2 rfl
    rw [show ((0 : Word).toNat = 0) from rfl, this]
    rfl
  · have h0 : a.toNat ≠ 0 := fun e => h (BitVec.eq_of_toNat_eq (by simpa using e))
    rw [if_neg h0]
    have h1 := BitVec.two_pow_sub_clz_le_toNat_of_ne_zero (x := a) (by decide) h
    have h2 := BitVec.toNat_lt_two_pow_sub_clz (x := a)
    have h3 : a.clz.toNat < 32 := by
      have := BitVec.clz_lt_iff_ne_zero.2 h
      simpa [BitVec.lt_def] using this
    have h4 : a.toNat.log2 = 31 - a.clz.toNat := by
      rw [Nat.log2_eq_iff h0]
      refine ⟨by simpa using h1, ?_⟩
      rw [show 31 - a.clz.toNat + 1 = 32 - a.clz.toNat by omega]
      exact h2
    rw [h4]
    omega

end Sys2Proof.Machine
end

