-- ==== Sys2Proof/Laws/Memory.lean ====
section
/-!
SUPPORT. Every operation over memory keeps its canonical form, and the byte that a write leaves at an address.
-/
namespace Sys2Proof.Machine

theorem cellsWf_iff (d : Byte) (m : List Host.Cell) :
    cellsWf d m = true ↔ m.Pairwise (fun a b => a.1 < b.1) ∧ ∀ c ∈ m, c.2 ≠ d := by
  unfold cellsWf
  simp only [Bool.and_eq_true, decide_eq_true_eq, List.all_eq_true]

theorem cellsOf_bounds (d : Byte) (bs : List Byte) : ∀ (a : Nat), ∀ c ∈ cellsOf d a bs, a ≤ c.1 ∧ c.1 < a + bs.length ∧ c.2 ≠ d := by
  induction bs with
  | nil => intro a c h; simp [cellsOf] at h
  | cons b bs ih =>
    intro a c h
    unfold cellsOf at h
    by_cases e : b = d
    · rw [if_pos e] at h
      have k := ih (a + 1) c h
      simp only [List.length_cons]
      exact ⟨by omega, by omega, k.2.2⟩
    · rw [if_neg e] at h
      rcases List.mem_cons.1 h with rfl | h
      · simp [e]
      · have k := ih (a + 1) c h
        simp only [List.length_cons]
        exact ⟨by omega, by omega, k.2.2⟩

theorem cellsOf_sorted (d : Byte) (bs : List Byte) : ∀ (a : Nat), (cellsOf d a bs).Pairwise fun x y => x.1 < y.1 := by
  induction bs with
  | nil => intro a; simp [cellsOf]
  | cons b bs ih =>
    intro a
    unfold cellsOf
    by_cases e : b = d
    · rw [if_pos e]; exact ih (a + 1)
    · rw [if_neg e]
      refine List.Pairwise.cons ?_ (ih (a + 1))
      intro c h
      have k := cellsOf_bounds d bs (a + 1) c h
      show a < c.1
      omega

/-- A write of a run of bytes keeps the canonical form. -/
theorem cellSet_wf {d : Byte} {m : List Host.Cell} (h : cellsWf d m = true) (a : Nat) (bs : List Byte) :
    cellsWf d (cellSet d m a bs) = true := by
  rw [cellsWf_iff] at h ⊢
  unfold cellSet
  refine ⟨?_, ?_⟩
  · rw [List.pairwise_append, List.pairwise_append]
    refine ⟨⟨h.1.filter _, cellsOf_sorted d bs a, ?_⟩, h.1.filter _, ?_⟩
    · intro x hx y hy
      have k := cellsOf_bounds d bs a y hy
      have l := List.mem_filter.1 hx
      have l2 : x.1 < a := by simpa using l.2
      omega
    · intro x hx y hy
      have l : a + bs.length ≤ y.1 := by simpa using (List.mem_filter.1 hy).2
      rcases List.mem_append.1 hx with hx | hx
      · have l2 : x.1 < a := by simpa using (List.mem_filter.1 hx).2
        omega
      · have k := cellsOf_bounds d bs a x hx
        omega
  · intro c hc
    rcases List.mem_append.1 hc with hc | hc
    · rcases List.mem_append.1 hc with hc | hc
      · exact h.2 c (List.mem_filter.1 hc).1
      · exact (cellsOf_bounds d bs a c hc).2.2
    · exact h.2 c (List.mem_filter.1 hc).1

/-- Memory in canonical form. -/
def State.memWf (s : State) : Bool := Memory.wf s.mem

theorem memWf_of_mem {s q : State} (e : q.mem = s.mem) (h : s.memWf = true) : q.memWf = true := by
  unfold State.memWf at h ⊢; rw [e]; exact h

theorem setMem_wf {s : State} (h : s.memWf = true) (pa : Nat) (bs : List Byte) : (s.setMem pa bs).memWf = true := cellSet_wf h pa bs

theorem foldl_wf {α : Type} (f : State → α → State) (k : ∀ s x, s.memWf = true → (f s x).memWf = true) :
    ∀ (l : List α) (s : State), s.memWf = true → (l.foldl f s).memWf = true := by
  intro l
  induction l with
  | nil => intro s h; exact h
  | cons x xs ih => intro s h; exact ih (f s x) (k s x h)

theorem writeBack_wf {s : State} (h : s.memWf = true) (x : L1Word) : (s.writeBack x).memWf = true := by
  unfold State.writeBack
  refine foldl_wf _ ?_ _ _ h
  intro s i h
  by_cases e : x.dirty.getLsbD i = true
  · simp only [e, if_true]; exact setMem_wf h _ _
  · simp only [e]; exact h

theorem recall_wf {s : State} (h : s.memWf = true) (w : Nat) : (s.recall w).memWf = true := by
  unfold State.recall
  split
  · split
    · exact memWf_of_mem rfl (writeBack_wf h _)
    · exact memWf_of_mem rfl h
  · exact memWf_of_mem rfl h
  · exact h

theorem writeHome_wf {s : State} (h : s.memWf = true) (pa : Nat) (bs : List Byte) : (s.writeHome pa bs).memWf = true := by
  unfold State.writeHome
  exact setMem_wf (foldl_wf _ (fun s w h => recall_wf h w) _ _ h) _ _

theorem setDirty_wf {s : State} (h : s.memWf = true) (a : Nat) : (s.setDirty a).memWf = true := by
  unfold State.setDirty
  dsimp only
  split
  · exact h
  · exact writeHome_wf h _ _

theorem dirtyAt_wf {s : State} (h : s.memWf = true) (part handle off : Nat) : (s.dirtyAt part handle off).memWf = true := by
  unfold State.dirtyAt
  split
  · exact h
  · exact setDirty_wf h _

theorem tableWrite_wf {s : State} (h : s.memWf = true) (pa : Nat) (bs : List Byte) : (s.tableWrite pa bs).memWf = true :=
  writeHome_wf h _ _

theorem dropWord_wf {s : State} (h : s.memWf = true) (core w : Nat) : (s.dropWord core w).memWf = true := by
  unfold State.dropWord
  split
  · exact h
  · split
    · exact recall_wf h w
    · exact memWf_of_mem rfl h

theorem mapCore_wf {s : State} (h : s.memWf = true) (n : Nat) (f : Core → Core) : (s.mapCore n f).memWf = true := h

theorem setOwner_wf {s : State} (h : s.memWf = true) (w : Nat) (o : Option Owner) : (s.setOwner w o).memWf = true := h

theorem dropLine_wf {s : State} (h : s.memWf = true) (core : Nat) (x : Nat × Nat) : (s.dropLine core x).memWf = true := by
  unfold State.dropLine
  exact mapCore_wf (foldl_wf _ (fun (s : State) (w : L1Word) h => dropWord_wf h core w.addr) _ _ h) _ _

theorem fillLine_wf {s : State} (h : s.memWf = true) (core part line : Nat) : (s.fillLine core part line).memWf = true := by
  unfold State.fillLine
  have k := foldl_wf (fun s x => State.dropLine s core x) (fun s x h => dropLine_wf h core x)
    ((s.getCore core).lru.filter fun x => x.2 == line) s h
  dsimp only
  split
  · exact h
  · refine mapCore_wf ?_ _ _
    split
    · split
      · exact dropLine_wf k _ _
      · exact k
    · exact k

theorem fillWord_wf {s : State} (h : s.memWf = true) (core : Nat) (x : L1Word) : (s.fillWord core x).memWf = true := by
  unfold State.fillWord
  have k := fillLine_wf h core x.part (lineOf x.addr)
  dsimp only
  split
  · exact k
  · exact mapCore_wf k _ _

/-- The lines of the stacked cache name memory; they hold no byte of it. -/
theorem stackAlloc_mem (s : State) (part line cls : Nat) (pin : Bool) : (s.stackAlloc part line cls pin).mem = s.mem := by
  unfold State.stackAlloc
  dsimp only
  split
  · rfl
  · split
    · rfl
    · split
      · rfl
      · split <;> rfl

theorem yieldLine_mem (s : State) (part line : Nat) : (s.yieldLine part line).mem = s.mem := rfl

/-- What is noted of stores to round regions holds no byte of memory. -/
theorem noteHandle_mem (s : State) (part handle off n : Nat) : (s.noteHandle part handle off n).mem = s.mem := by
  unfold State.noteHandle State.noteStore
  split
  · rfl
  · split
    · dsimp only
      split <;> rfl
    · rfl
    · rfl

theorem noteHandle_wf {s : State} (h : s.memWf = true) (part handle off n : Nat) : (s.noteHandle part handle off n).memWf = true :=
  memWf_of_mem (noteHandle_mem s part handle off n) h

theorem request_wf {s : State} (h : s.memWf = true) (part handle off pa n hint : Nat) :
    (s.request part handle off pa n hint).memWf = true := by
  unfold State.request
  split
  · exact h
  · dsimp only
    split
    · exact foldl_wf _ (fun s l h => memWf_of_mem (yieldLine_mem s _ _) h) _ _ h
    · exact foldl_wf _ (fun s l h => memWf_of_mem (stackAlloc_mem s _ _ _ _) h) _ _ h

/-- A write by a device or an engine keeps the canonical form. -/
theorem deviceWrite_wf {s : State} (h : s.memWf = true) (part handle off pa : Nat) (bs : List Byte) :
    (s.deviceWrite part handle off pa bs).memWf = true := 
  writeHome_wf (request_wf (dirtyAt_wf (noteHandle_wf h _ _ _ _) _ _ _) _ _ _ _ _ _) _ _

theorem accessL1_wf {s : State} (h : s.memWf = true) (core part pa n : Nat) : (s.accessL1 core part pa n).memWf = true :=
  mapCore_wf h _ _

theorem requestWords_wf {s : State} (h : s.memWf = true) (part handle off hint : Nat) (ws : List Nat) :
    (s.requestWords part handle off hint ws).memWf = true :=
  foldl_wf _ (fun _ w h => request_wf h part handle off (4 * w) 4 hint) _ _ h

/-- Shelves cleared before their dirty lines reach GDDR7 leave memory in its canonical form. -/
theorem clearShelves_wf {s : State} (h : s.memWf = true) (part : Nat) : (s.clearShelves part).memWf = true := by
  unfold State.clearShelves
  refine foldl_wf (fun (s : State) (l : StackLine) => match l.under with
    | some bs => { s with mem := cellSet Config.memDefault s.mem (128 * l.line) bs }
    | none => s) ?_ _ _ h
  intro s l h
  cases l.under with
  | none => exact h
  | some bs => exact cellSet_wf h _ _

theorem own_wf {s : State} (h : s.memWf = true) (core part handle w : Nat) : (s.own core part handle w).memWf = true := by
  unfold State.own
  split
  · exact h
  · dsimp only
    split
    · exact fillWord_wf (recall_wf h w) _ _
    · exact setOwner_wf (fillWord_wf (recall_wf h w) _ _) _ _

theorem recallOther_wf {s : State} (h : s.memWf = true) (core w : Nat) : (s.recallOther core w).memWf = true := by
  unfold State.recallOther
  split
  · exact h
  · exact recall_wf h w

theorem drainThrough_wf {s : State} (h : s.memWf = true) (core part pa : Nat) (bs : List Byte) :
    (s.drainThrough core part pa bs).memWf = true := by
  unfold State.drainThrough
  exact mapCore_wf (setMem_wf (foldl_wf _ (fun s w h => recallOther_wf h core w) _ _ h) _ _) _ _

theorem drainOwn_wf {s : State} (h : s.memWf = true) (core part handle pa : Nat) (bs : List Byte) :
    (s.drainOwn core part handle pa bs).memWf = true := by
  unfold State.drainOwn
  split
  · exact drainThrough_wf h core part pa bs
  · exact foldl_wf _ (fun s w h => mapCore_wf (own_wf h core part handle w) _ _) _ _ h

theorem drainNonAlloc_wf {s : State} (h : s.memWf = true) (core pa : Nat) (bs : List Byte) :
    (s.drainNonAlloc core pa bs).memWf = true := by
  unfold State.drainNonAlloc
  exact mapCore_wf (writeHome_wf h _ _) _ _

/-- The drain of a store keeps the canonical form. -/
theorem drain_wf {s : State} (h : s.memWf = true) (t : Team) (e : StoreEntry) : (s.drain t e).memWf = true := by
  unfold State.drain
  dsimp only
  have k (ws : List Nat) := requestWords_wf (accessL1_wf (dirtyAt_wf h t.part e.handle e.off) t.core t.part e.pa e.bytes.length)
    t.part e.handle e.off e.hint ws
  split
  · exact drainOwn_wf (k _) _ _ _ _ _
  · exact drainThrough_wf (k _) _ _ _ _
  · exact drainNonAlloc_wf (k _) _ _ _
  · exact h
  · exact h

/-- The read-modify-write of an atomic keeps the canonical form. -/
theorem atomicWrite_wf {s : State} (h : s.memWf = true) (core part pa : Nat) (bs : List Byte) :
    (s.atomicWrite core part pa bs).memWf = true := by
  unfold State.atomicWrite
  refine foldl_wf _ ?_ _ _ h
  intro s w h
  dsimp only
  split
  · exact memWf_of_mem rfl h
  · exact memWf_of_mem rfl (setMem_wf h _ _)

theorem atomicMem_wf {s : State} (h : s.memWf = true) (t : Team) (a : PendAtomic) (handle off pa : Nat) :
    (s.atomicMem t a handle off pa).1.memWf = true := by
  unfold State.atomicMem
  have k : (if a.loc then (wordsOf pa a.size).foldl (fun s w => s.own t.core t.part handle w) s
      else (wordsOf pa a.size).foldl (fun s w => s.recallOther t.core w) s).memWf = true := by
    split
    · exact foldl_wf _ (fun s w h => own_wf h _ _ _ w) _ _ h
    · exact foldl_wf _ (fun s w h => recallOther_wf h _ w) _ _ h
  dsimp only
  split
  · exact k
  · exact atomicWrite_wf (dirtyAt_wf k _ _ _) _ _ _ _

end Sys2Proof.Machine
end

