-- ==== Sys2Proof/Laws/State.lean ====
section
/-!
SUPPORT. One lemma per field of State and update of it, and the lookup of a team after it is written.
-/
namespace Sys2Proof.Machine

@[simp] theorem setTeam_schedule (s : State) (t : Team) : (s.setTeam t).schedule = s.schedule := rfl
@[simp] theorem setTeam_cur (s : State) (t : Team) : (s.setTeam t).cur = s.cur := rfl
@[simp] theorem setTeam_gcur (s : State) (t : Team) : (s.setTeam t).gcur = s.gcur := rfl
@[simp] theorem setTeam_nextSeq (s : State) (t : Team) : (s.setTeam t).nextSeq = s.nextSeq := rfl
@[simp] theorem setTeam_nextId (s : State) (t : Team) : (s.setTeam t).nextId = s.nextId := rfl
@[simp] theorem setTeam_freeCtr (s : State) (t : Team) : (s.setTeam t).freeCtr = s.freeCtr := rfl
@[simp] theorem setTeam_busRead (s : State) (t : Team) : (s.setTeam t).busRead = s.busRead := rfl
@[simp] theorem setTeam_busFault (s : State) (t : Team) : (s.setTeam t).busFault = s.busFault := rfl
@[simp] theorem setTeam_clk (s : State) (t : Team) : (s.setTeam t).clk = s.clk := rfl
@[simp] theorem setTeam_devTime (s : State) (t : Team) : (s.setTeam t).devTime = s.devTime := rfl
@[simp] theorem setTeam_timeSynced (s : State) (t : Team) : (s.setTeam t).timeSynced = s.timeSynced := rfl
@[simp] theorem setTeam_timeRate (s : State) (t : Team) : (s.setTeam t).timeRate = s.timeRate := rfl
@[simp] theorem setTeam_timeFrac (s : State) (t : Team) : (s.setTeam t).timeFrac = s.timeFrac := rfl
@[simp] theorem setTeam_volt (s : State) (t : Team) : (s.setTeam t).volt = s.volt := rfl
@[simp] theorem setTeam_frozen (s : State) (t : Team) : (s.setTeam t).frozen = s.frozen := rfl
@[simp] theorem setTeam_apertureGated (s : State) (t : Team) : (s.setTeam t).apertureGated = s.apertureGated := rfl
@[simp] theorem setTeam_mem (s : State) (t : Team) : (s.setTeam t).mem = s.mem := rfl
@[simp] theorem setTeam_badBlocks (s : State) (t : Team) : (s.setTeam t).badBlocks = s.badBlocks := rfl
@[simp] theorem setTeam_sizeGiB (s : State) (t : Team) : (s.setTeam t).sizeGiB = s.sizeGiB := rfl
@[simp] theorem setTeam_cecnt (s : State) (t : Team) : (s.setTeam t).cecnt = s.cecnt := rfl
@[simp] theorem setTeam_uecnt (s : State) (t : Team) : (s.setTeam t).uecnt = s.uecnt := rfl
@[simp] theorem setTeam_flog (s : State) (t : Team) : (s.setTeam t).flog = s.flog := rfl
@[simp] theorem setTeam_flogNext (s : State) (t : Team) : (s.setTeam t).flogNext = s.flogNext := rfl
@[simp] theorem setTeam_flogClk (s : State) (t : Team) : (s.setTeam t).flogClk = s.flogClk := rfl
@[simp] theorem setTeam_flogRun (s : State) (t : Team) : (s.setTeam t).flogRun = s.flogRun := rfl
@[simp] theorem setTeam_stack (s : State) (t : Team) : (s.setTeam t).stack = s.stack := rfl
@[simp] theorem setTeam_registry (s : State) (t : Team) : (s.setTeam t).registry = s.registry := rfl
@[simp] theorem setTeam_regions (s : State) (t : Team) : (s.setTeam t).regions = s.regions := rfl
@[simp] theorem setTeam_tileClk (s : State) (t : Team) : (s.setTeam t).tileClk = s.tileClk := rfl
@[simp] theorem setTeam_tileStores (s : State) (t : Team) : (s.setTeam t).tileStores = s.tileStores := rfl
@[simp] theorem setTeam_cores (s : State) (t : Team) : (s.setTeam t).cores = s.cores := rfl
@[simp] theorem setTeam_nbs (s : State) (t : Team) : (s.setTeam t).nbs = s.nbs := rfl
@[simp] theorem setTeam_launches (s : State) (t : Team) : (s.setTeam t).launches = s.launches := rfl
@[simp] theorem setTeam_parts (s : State) (t : Team) : (s.setTeam t).parts = s.parts := rfl
@[simp] theorem setTeam_tbl (s : State) (t : Team) : (s.setTeam t).tbl = s.tbl := rfl
@[simp] theorem setTeam_boot (s : State) (t : Team) : (s.setTeam t).boot = s.boot := rfl
@[simp] theorem setTeam_fuses (s : State) (t : Team) : (s.setTeam t).fuses = s.fuses := rfl
@[simp] theorem setTeam_flash (s : State) (t : Team) : (s.setTeam t).flash = s.flash := rfl
@[simp] theorem setTeam_pslice (s : State) (t : Team) : (s.setTeam t).pslice = s.pslice := rfl
@[simp] theorem setTeam_starve (s : State) (t : Team) : (s.setTeam t).starve = s.starve := rfl
@[simp] theorem setTeam_adv (s : State) (t : Team) : (s.setTeam t).adv = s.adv := rfl
@[simp] theorem setTeam_ts (s : State) (t : Team) : (s.setTeam t).ts = s.ts := rfl
@[simp] theorem setTeam_winch (s : State) (t : Team) : (s.setTeam t).winch = s.winch := rfl
@[simp] theorem setTeam_rr (s : State) (t : Team) : (s.setTeam t).rr = s.rr := rfl
@[simp] theorem setTeam_starveFrom (s : State) (t : Team) : (s.setTeam t).starveFrom = s.starveFrom := rfl
@[simp] theorem setTeam_promoted (s : State) (t : Team) : (s.setTeam t).promoted = s.promoted := rfl
@[simp] theorem setTeam_lastSwitch (s : State) (t : Team) : (s.setTeam t).lastSwitch = s.lastSwitch := rfl
@[simp] theorem setTeam_ballast (s : State) (t : Team) : (s.setTeam t).ballast = s.ballast := rfl
@[simp] theorem setTeam_ballastSet (s : State) (t : Team) : (s.setTeam t).ballastSet = s.ballastSet := rfl
@[simp] theorem setTeam_parkLim (s : State) (t : Team) : (s.setTeam t).parkLim = s.parkLim := rfl
@[simp] theorem setTeam_envBase (s : State) (t : Team) : (s.setTeam t).envBase = s.envBase := rfl
@[simp] theorem setTeam_envLen (s : State) (t : Team) : (s.setTeam t).envLen = s.envLen := rfl
@[simp] theorem setTeam_kept (s : State) (t : Team) : (s.setTeam t).kept = s.kept := rfl
@[simp] theorem setTeam_ports (s : State) (t : Team) : (s.setTeam t).ports = s.ports := rfl
@[simp] theorem setTeam_filters (s : State) (t : Team) : (s.setTeam t).filters = s.filters := rfl
@[simp] theorem setTeam_streams (s : State) (t : Team) : (s.setTeam t).streams = s.streams := rfl
@[simp] theorem setTeam_ethSrc (s : State) (t : Team) : (s.setTeam t).ethSrc = s.ethSrc := rfl
@[simp] theorem setTeam_ethSync (s : State) (t : Team) : (s.setTeam t).ethSync = s.ethSync := rfl
@[simp] theorem setTeam_outputs (s : State) (t : Team) : (s.setTeam t).outputs = s.outputs := rfl
@[simp] theorem setTeam_gcores (s : State) (t : Team) : (s.setTeam t).gcores = s.gcores := rfl
@[simp] theorem setTeam_gmem (s : State) (t : Team) : (s.setTeam t).gmem = s.gmem := rfl
@[simp] theorem setTeam_signals (s : State) (t : Team) : (s.setTeam t).signals = s.signals := rfl

@[simp] theorem mapTeam_schedule (s : State) (n : Nat) (f : Team → Team) : (s.mapTeam n f).schedule = s.schedule := rfl
@[simp] theorem mapTeam_cur (s : State) (n : Nat) (f : Team → Team) : (s.mapTeam n f).cur = s.cur := rfl
@[simp] theorem mapTeam_gcur (s : State) (n : Nat) (f : Team → Team) : (s.mapTeam n f).gcur = s.gcur := rfl
@[simp] theorem mapTeam_nextSeq (s : State) (n : Nat) (f : Team → Team) : (s.mapTeam n f).nextSeq = s.nextSeq := rfl
@[simp] theorem mapTeam_nextId (s : State) (n : Nat) (f : Team → Team) : (s.mapTeam n f).nextId = s.nextId := rfl
@[simp] theorem mapTeam_freeCtr (s : State) (n : Nat) (f : Team → Team) : (s.mapTeam n f).freeCtr = s.freeCtr := rfl
@[simp] theorem mapTeam_busRead (s : State) (n : Nat) (f : Team → Team) : (s.mapTeam n f).busRead = s.busRead := rfl
@[simp] theorem mapTeam_busFault (s : State) (n : Nat) (f : Team → Team) : (s.mapTeam n f).busFault = s.busFault := rfl
@[simp] theorem mapTeam_clk (s : State) (n : Nat) (f : Team → Team) : (s.mapTeam n f).clk = s.clk := rfl
@[simp] theorem mapTeam_devTime (s : State) (n : Nat) (f : Team → Team) : (s.mapTeam n f).devTime = s.devTime := rfl
@[simp] theorem mapTeam_timeSynced (s : State) (n : Nat) (f : Team → Team) : (s.mapTeam n f).timeSynced = s.timeSynced := rfl
@[simp] theorem mapTeam_timeRate (s : State) (n : Nat) (f : Team → Team) : (s.mapTeam n f).timeRate = s.timeRate := rfl
@[simp] theorem mapTeam_timeFrac (s : State) (n : Nat) (f : Team → Team) : (s.mapTeam n f).timeFrac = s.timeFrac := rfl
@[simp] theorem mapTeam_volt (s : State) (n : Nat) (f : Team → Team) : (s.mapTeam n f).volt = s.volt := rfl
@[simp] theorem mapTeam_frozen (s : State) (n : Nat) (f : Team → Team) : (s.mapTeam n f).frozen = s.frozen := rfl
@[simp] theorem mapTeam_apertureGated (s : State) (n : Nat) (f : Team → Team) : (s.mapTeam n f).apertureGated = s.apertureGated := rfl
@[simp] theorem mapTeam_mem (s : State) (n : Nat) (f : Team → Team) : (s.mapTeam n f).mem = s.mem := rfl
@[simp] theorem mapTeam_badBlocks (s : State) (n : Nat) (f : Team → Team) : (s.mapTeam n f).badBlocks = s.badBlocks := rfl
@[simp] theorem mapTeam_sizeGiB (s : State) (n : Nat) (f : Team → Team) : (s.mapTeam n f).sizeGiB = s.sizeGiB := rfl
@[simp] theorem mapTeam_cecnt (s : State) (n : Nat) (f : Team → Team) : (s.mapTeam n f).cecnt = s.cecnt := rfl
@[simp] theorem mapTeam_uecnt (s : State) (n : Nat) (f : Team → Team) : (s.mapTeam n f).uecnt = s.uecnt := rfl
@[simp] theorem mapTeam_flog (s : State) (n : Nat) (f : Team → Team) : (s.mapTeam n f).flog = s.flog := rfl
@[simp] theorem mapTeam_flogNext (s : State) (n : Nat) (f : Team → Team) : (s.mapTeam n f).flogNext = s.flogNext := rfl
@[simp] theorem mapTeam_flogClk (s : State) (n : Nat) (f : Team → Team) : (s.mapTeam n f).flogClk = s.flogClk := rfl
@[simp] theorem mapTeam_flogRun (s : State) (n : Nat) (f : Team → Team) : (s.mapTeam n f).flogRun = s.flogRun := rfl
@[simp] theorem mapTeam_stack (s : State) (n : Nat) (f : Team → Team) : (s.mapTeam n f).stack = s.stack := rfl
@[simp] theorem mapTeam_registry (s : State) (n : Nat) (f : Team → Team) : (s.mapTeam n f).registry = s.registry := rfl
@[simp] theorem mapTeam_regions (s : State) (n : Nat) (f : Team → Team) : (s.mapTeam n f).regions = s.regions := rfl
@[simp] theorem mapTeam_tileClk (s : State) (n : Nat) (f : Team → Team) : (s.mapTeam n f).tileClk = s.tileClk := rfl
@[simp] theorem mapTeam_tileStores (s : State) (n : Nat) (f : Team → Team) : (s.mapTeam n f).tileStores = s.tileStores := rfl
@[simp] theorem mapTeam_cores (s : State) (n : Nat) (f : Team → Team) : (s.mapTeam n f).cores = s.cores := rfl
@[simp] theorem mapTeam_nbs (s : State) (n : Nat) (f : Team → Team) : (s.mapTeam n f).nbs = s.nbs := rfl
@[simp] theorem mapTeam_launches (s : State) (n : Nat) (f : Team → Team) : (s.mapTeam n f).launches = s.launches := rfl
@[simp] theorem mapTeam_parts (s : State) (n : Nat) (f : Team → Team) : (s.mapTeam n f).parts = s.parts := rfl
@[simp] theorem mapTeam_tbl (s : State) (n : Nat) (f : Team → Team) : (s.mapTeam n f).tbl = s.tbl := rfl
@[simp] theorem mapTeam_boot (s : State) (n : Nat) (f : Team → Team) : (s.mapTeam n f).boot = s.boot := rfl
@[simp] theorem mapTeam_fuses (s : State) (n : Nat) (f : Team → Team) : (s.mapTeam n f).fuses = s.fuses := rfl
@[simp] theorem mapTeam_flash (s : State) (n : Nat) (f : Team → Team) : (s.mapTeam n f).flash = s.flash := rfl
@[simp] theorem mapTeam_pslice (s : State) (n : Nat) (f : Team → Team) : (s.mapTeam n f).pslice = s.pslice := rfl
@[simp] theorem mapTeam_starve (s : State) (n : Nat) (f : Team → Team) : (s.mapTeam n f).starve = s.starve := rfl
@[simp] theorem mapTeam_adv (s : State) (n : Nat) (f : Team → Team) : (s.mapTeam n f).adv = s.adv := rfl
@[simp] theorem mapTeam_ts (s : State) (n : Nat) (f : Team → Team) : (s.mapTeam n f).ts = s.ts := rfl
@[simp] theorem mapTeam_winch (s : State) (n : Nat) (f : Team → Team) : (s.mapTeam n f).winch = s.winch := rfl
@[simp] theorem mapTeam_rr (s : State) (n : Nat) (f : Team → Team) : (s.mapTeam n f).rr = s.rr := rfl
@[simp] theorem mapTeam_starveFrom (s : State) (n : Nat) (f : Team → Team) : (s.mapTeam n f).starveFrom = s.starveFrom := rfl
@[simp] theorem mapTeam_promoted (s : State) (n : Nat) (f : Team → Team) : (s.mapTeam n f).promoted = s.promoted := rfl
@[simp] theorem mapTeam_lastSwitch (s : State) (n : Nat) (f : Team → Team) : (s.mapTeam n f).lastSwitch = s.lastSwitch := rfl
@[simp] theorem mapTeam_ballast (s : State) (n : Nat) (f : Team → Team) : (s.mapTeam n f).ballast = s.ballast := rfl
@[simp] theorem mapTeam_ballastSet (s : State) (n : Nat) (f : Team → Team) : (s.mapTeam n f).ballastSet = s.ballastSet := rfl
@[simp] theorem mapTeam_parkLim (s : State) (n : Nat) (f : Team → Team) : (s.mapTeam n f).parkLim = s.parkLim := rfl
@[simp] theorem mapTeam_envBase (s : State) (n : Nat) (f : Team → Team) : (s.mapTeam n f).envBase = s.envBase := rfl
@[simp] theorem mapTeam_envLen (s : State) (n : Nat) (f : Team → Team) : (s.mapTeam n f).envLen = s.envLen := rfl
@[simp] theorem mapTeam_kept (s : State) (n : Nat) (f : Team → Team) : (s.mapTeam n f).kept = s.kept := rfl
@[simp] theorem mapTeam_ports (s : State) (n : Nat) (f : Team → Team) : (s.mapTeam n f).ports = s.ports := rfl
@[simp] theorem mapTeam_filters (s : State) (n : Nat) (f : Team → Team) : (s.mapTeam n f).filters = s.filters := rfl
@[simp] theorem mapTeam_streams (s : State) (n : Nat) (f : Team → Team) : (s.mapTeam n f).streams = s.streams := rfl
@[simp] theorem mapTeam_ethSrc (s : State) (n : Nat) (f : Team → Team) : (s.mapTeam n f).ethSrc = s.ethSrc := rfl
@[simp] theorem mapTeam_ethSync (s : State) (n : Nat) (f : Team → Team) : (s.mapTeam n f).ethSync = s.ethSync := rfl
@[simp] theorem mapTeam_outputs (s : State) (n : Nat) (f : Team → Team) : (s.mapTeam n f).outputs = s.outputs := rfl
@[simp] theorem mapTeam_gcores (s : State) (n : Nat) (f : Team → Team) : (s.mapTeam n f).gcores = s.gcores := rfl
@[simp] theorem mapTeam_gmem (s : State) (n : Nat) (f : Team → Team) : (s.mapTeam n f).gmem = s.gmem := rfl
@[simp] theorem mapTeam_signals (s : State) (n : Nat) (f : Team → Team) : (s.mapTeam n f).signals = s.signals := rfl

@[simp] theorem mapCore_schedule (s : State) (n : Nat) (f : Core → Core) : (s.mapCore n f).schedule = s.schedule := rfl
@[simp] theorem mapCore_cur (s : State) (n : Nat) (f : Core → Core) : (s.mapCore n f).cur = s.cur := rfl
@[simp] theorem mapCore_gcur (s : State) (n : Nat) (f : Core → Core) : (s.mapCore n f).gcur = s.gcur := rfl
@[simp] theorem mapCore_nextSeq (s : State) (n : Nat) (f : Core → Core) : (s.mapCore n f).nextSeq = s.nextSeq := rfl
@[simp] theorem mapCore_nextId (s : State) (n : Nat) (f : Core → Core) : (s.mapCore n f).nextId = s.nextId := rfl
@[simp] theorem mapCore_freeCtr (s : State) (n : Nat) (f : Core → Core) : (s.mapCore n f).freeCtr = s.freeCtr := rfl
@[simp] theorem mapCore_busRead (s : State) (n : Nat) (f : Core → Core) : (s.mapCore n f).busRead = s.busRead := rfl
@[simp] theorem mapCore_busFault (s : State) (n : Nat) (f : Core → Core) : (s.mapCore n f).busFault = s.busFault := rfl
@[simp] theorem mapCore_clk (s : State) (n : Nat) (f : Core → Core) : (s.mapCore n f).clk = s.clk := rfl
@[simp] theorem mapCore_devTime (s : State) (n : Nat) (f : Core → Core) : (s.mapCore n f).devTime = s.devTime := rfl
@[simp] theorem mapCore_timeSynced (s : State) (n : Nat) (f : Core → Core) : (s.mapCore n f).timeSynced = s.timeSynced := rfl
@[simp] theorem mapCore_timeRate (s : State) (n : Nat) (f : Core → Core) : (s.mapCore n f).timeRate = s.timeRate := rfl
@[simp] theorem mapCore_timeFrac (s : State) (n : Nat) (f : Core → Core) : (s.mapCore n f).timeFrac = s.timeFrac := rfl
@[simp] theorem mapCore_volt (s : State) (n : Nat) (f : Core → Core) : (s.mapCore n f).volt = s.volt := rfl
@[simp] theorem mapCore_frozen (s : State) (n : Nat) (f : Core → Core) : (s.mapCore n f).frozen = s.frozen := rfl
@[simp] theorem mapCore_apertureGated (s : State) (n : Nat) (f : Core → Core) : (s.mapCore n f).apertureGated = s.apertureGated := rfl
@[simp] theorem mapCore_mem (s : State) (n : Nat) (f : Core → Core) : (s.mapCore n f).mem = s.mem := rfl
@[simp] theorem mapCore_badBlocks (s : State) (n : Nat) (f : Core → Core) : (s.mapCore n f).badBlocks = s.badBlocks := rfl
@[simp] theorem mapCore_sizeGiB (s : State) (n : Nat) (f : Core → Core) : (s.mapCore n f).sizeGiB = s.sizeGiB := rfl
@[simp] theorem mapCore_cecnt (s : State) (n : Nat) (f : Core → Core) : (s.mapCore n f).cecnt = s.cecnt := rfl
@[simp] theorem mapCore_uecnt (s : State) (n : Nat) (f : Core → Core) : (s.mapCore n f).uecnt = s.uecnt := rfl
@[simp] theorem mapCore_flog (s : State) (n : Nat) (f : Core → Core) : (s.mapCore n f).flog = s.flog := rfl
@[simp] theorem mapCore_flogNext (s : State) (n : Nat) (f : Core → Core) : (s.mapCore n f).flogNext = s.flogNext := rfl
@[simp] theorem mapCore_flogClk (s : State) (n : Nat) (f : Core → Core) : (s.mapCore n f).flogClk = s.flogClk := rfl
@[simp] theorem mapCore_flogRun (s : State) (n : Nat) (f : Core → Core) : (s.mapCore n f).flogRun = s.flogRun := rfl
@[simp] theorem mapCore_stack (s : State) (n : Nat) (f : Core → Core) : (s.mapCore n f).stack = s.stack := rfl
@[simp] theorem mapCore_registry (s : State) (n : Nat) (f : Core → Core) : (s.mapCore n f).registry = s.registry := rfl
@[simp] theorem mapCore_regions (s : State) (n : Nat) (f : Core → Core) : (s.mapCore n f).regions = s.regions := rfl
@[simp] theorem mapCore_tileClk (s : State) (n : Nat) (f : Core → Core) : (s.mapCore n f).tileClk = s.tileClk := rfl
@[simp] theorem mapCore_tileStores (s : State) (n : Nat) (f : Core → Core) : (s.mapCore n f).tileStores = s.tileStores := rfl
@[simp] theorem mapCore_teams (s : State) (n : Nat) (f : Core → Core) : (s.mapCore n f).teams = s.teams := rfl
@[simp] theorem mapCore_nbs (s : State) (n : Nat) (f : Core → Core) : (s.mapCore n f).nbs = s.nbs := rfl
@[simp] theorem mapCore_launches (s : State) (n : Nat) (f : Core → Core) : (s.mapCore n f).launches = s.launches := rfl
@[simp] theorem mapCore_parts (s : State) (n : Nat) (f : Core → Core) : (s.mapCore n f).parts = s.parts := rfl
@[simp] theorem mapCore_tbl (s : State) (n : Nat) (f : Core → Core) : (s.mapCore n f).tbl = s.tbl := rfl
@[simp] theorem mapCore_boot (s : State) (n : Nat) (f : Core → Core) : (s.mapCore n f).boot = s.boot := rfl
@[simp] theorem mapCore_fuses (s : State) (n : Nat) (f : Core → Core) : (s.mapCore n f).fuses = s.fuses := rfl
@[simp] theorem mapCore_flash (s : State) (n : Nat) (f : Core → Core) : (s.mapCore n f).flash = s.flash := rfl
@[simp] theorem mapCore_pslice (s : State) (n : Nat) (f : Core → Core) : (s.mapCore n f).pslice = s.pslice := rfl
@[simp] theorem mapCore_starve (s : State) (n : Nat) (f : Core → Core) : (s.mapCore n f).starve = s.starve := rfl
@[simp] theorem mapCore_adv (s : State) (n : Nat) (f : Core → Core) : (s.mapCore n f).adv = s.adv := rfl
@[simp] theorem mapCore_ts (s : State) (n : Nat) (f : Core → Core) : (s.mapCore n f).ts = s.ts := rfl
@[simp] theorem mapCore_winch (s : State) (n : Nat) (f : Core → Core) : (s.mapCore n f).winch = s.winch := rfl
@[simp] theorem mapCore_rr (s : State) (n : Nat) (f : Core → Core) : (s.mapCore n f).rr = s.rr := rfl
@[simp] theorem mapCore_starveFrom (s : State) (n : Nat) (f : Core → Core) : (s.mapCore n f).starveFrom = s.starveFrom := rfl
@[simp] theorem mapCore_promoted (s : State) (n : Nat) (f : Core → Core) : (s.mapCore n f).promoted = s.promoted := rfl
@[simp] theorem mapCore_lastSwitch (s : State) (n : Nat) (f : Core → Core) : (s.mapCore n f).lastSwitch = s.lastSwitch := rfl
@[simp] theorem mapCore_ballast (s : State) (n : Nat) (f : Core → Core) : (s.mapCore n f).ballast = s.ballast := rfl
@[simp] theorem mapCore_ballastSet (s : State) (n : Nat) (f : Core → Core) : (s.mapCore n f).ballastSet = s.ballastSet := rfl
@[simp] theorem mapCore_parkLim (s : State) (n : Nat) (f : Core → Core) : (s.mapCore n f).parkLim = s.parkLim := rfl
@[simp] theorem mapCore_envBase (s : State) (n : Nat) (f : Core → Core) : (s.mapCore n f).envBase = s.envBase := rfl
@[simp] theorem mapCore_envLen (s : State) (n : Nat) (f : Core → Core) : (s.mapCore n f).envLen = s.envLen := rfl
@[simp] theorem mapCore_kept (s : State) (n : Nat) (f : Core → Core) : (s.mapCore n f).kept = s.kept := rfl
@[simp] theorem mapCore_ports (s : State) (n : Nat) (f : Core → Core) : (s.mapCore n f).ports = s.ports := rfl
@[simp] theorem mapCore_filters (s : State) (n : Nat) (f : Core → Core) : (s.mapCore n f).filters = s.filters := rfl
@[simp] theorem mapCore_streams (s : State) (n : Nat) (f : Core → Core) : (s.mapCore n f).streams = s.streams := rfl
@[simp] theorem mapCore_ethSrc (s : State) (n : Nat) (f : Core → Core) : (s.mapCore n f).ethSrc = s.ethSrc := rfl
@[simp] theorem mapCore_ethSync (s : State) (n : Nat) (f : Core → Core) : (s.mapCore n f).ethSync = s.ethSync := rfl
@[simp] theorem mapCore_outputs (s : State) (n : Nat) (f : Core → Core) : (s.mapCore n f).outputs = s.outputs := rfl
@[simp] theorem mapCore_gcores (s : State) (n : Nat) (f : Core → Core) : (s.mapCore n f).gcores = s.gcores := rfl
@[simp] theorem mapCore_gmem (s : State) (n : Nat) (f : Core → Core) : (s.mapCore n f).gmem = s.gmem := rfl
@[simp] theorem mapCore_signals (s : State) (n : Nat) (f : Core → Core) : (s.mapCore n f).signals = s.signals := rfl

@[simp] theorem mapSlot_schedule (s : State) (n k : Nat) (f : Slot → Slot) : (s.mapSlot n k f).schedule = s.schedule := rfl
@[simp] theorem mapSlot_cur (s : State) (n k : Nat) (f : Slot → Slot) : (s.mapSlot n k f).cur = s.cur := rfl
@[simp] theorem mapSlot_gcur (s : State) (n k : Nat) (f : Slot → Slot) : (s.mapSlot n k f).gcur = s.gcur := rfl
@[simp] theorem mapSlot_nextSeq (s : State) (n k : Nat) (f : Slot → Slot) : (s.mapSlot n k f).nextSeq = s.nextSeq := rfl
@[simp] theorem mapSlot_nextId (s : State) (n k : Nat) (f : Slot → Slot) : (s.mapSlot n k f).nextId = s.nextId := rfl
@[simp] theorem mapSlot_freeCtr (s : State) (n k : Nat) (f : Slot → Slot) : (s.mapSlot n k f).freeCtr = s.freeCtr := rfl
@[simp] theorem mapSlot_busRead (s : State) (n k : Nat) (f : Slot → Slot) : (s.mapSlot n k f).busRead = s.busRead := rfl
@[simp] theorem mapSlot_busFault (s : State) (n k : Nat) (f : Slot → Slot) : (s.mapSlot n k f).busFault = s.busFault := rfl
@[simp] theorem mapSlot_clk (s : State) (n k : Nat) (f : Slot → Slot) : (s.mapSlot n k f).clk = s.clk := rfl
@[simp] theorem mapSlot_devTime (s : State) (n k : Nat) (f : Slot → Slot) : (s.mapSlot n k f).devTime = s.devTime := rfl
@[simp] theorem mapSlot_timeSynced (s : State) (n k : Nat) (f : Slot → Slot) : (s.mapSlot n k f).timeSynced = s.timeSynced := rfl
@[simp] theorem mapSlot_timeRate (s : State) (n k : Nat) (f : Slot → Slot) : (s.mapSlot n k f).timeRate = s.timeRate := rfl
@[simp] theorem mapSlot_timeFrac (s : State) (n k : Nat) (f : Slot → Slot) : (s.mapSlot n k f).timeFrac = s.timeFrac := rfl
@[simp] theorem mapSlot_volt (s : State) (n k : Nat) (f : Slot → Slot) : (s.mapSlot n k f).volt = s.volt := rfl
@[simp] theorem mapSlot_frozen (s : State) (n k : Nat) (f : Slot → Slot) : (s.mapSlot n k f).frozen = s.frozen := rfl
@[simp] theorem mapSlot_apertureGated (s : State) (n k : Nat) (f : Slot → Slot) : (s.mapSlot n k f).apertureGated = s.apertureGated := rfl
@[simp] theorem mapSlot_mem (s : State) (n k : Nat) (f : Slot → Slot) : (s.mapSlot n k f).mem = s.mem := rfl
@[simp] theorem mapSlot_badBlocks (s : State) (n k : Nat) (f : Slot → Slot) : (s.mapSlot n k f).badBlocks = s.badBlocks := rfl
@[simp] theorem mapSlot_sizeGiB (s : State) (n k : Nat) (f : Slot → Slot) : (s.mapSlot n k f).sizeGiB = s.sizeGiB := rfl
@[simp] theorem mapSlot_cecnt (s : State) (n k : Nat) (f : Slot → Slot) : (s.mapSlot n k f).cecnt = s.cecnt := rfl
@[simp] theorem mapSlot_uecnt (s : State) (n k : Nat) (f : Slot → Slot) : (s.mapSlot n k f).uecnt = s.uecnt := rfl
@[simp] theorem mapSlot_flog (s : State) (n k : Nat) (f : Slot → Slot) : (s.mapSlot n k f).flog = s.flog := rfl
@[simp] theorem mapSlot_flogNext (s : State) (n k : Nat) (f : Slot → Slot) : (s.mapSlot n k f).flogNext = s.flogNext := rfl
@[simp] theorem mapSlot_flogClk (s : State) (n k : Nat) (f : Slot → Slot) : (s.mapSlot n k f).flogClk = s.flogClk := rfl
@[simp] theorem mapSlot_flogRun (s : State) (n k : Nat) (f : Slot → Slot) : (s.mapSlot n k f).flogRun = s.flogRun := rfl
@[simp] theorem mapSlot_stack (s : State) (n k : Nat) (f : Slot → Slot) : (s.mapSlot n k f).stack = s.stack := rfl
@[simp] theorem mapSlot_registry (s : State) (n k : Nat) (f : Slot → Slot) : (s.mapSlot n k f).registry = s.registry := rfl
@[simp] theorem mapSlot_regions (s : State) (n k : Nat) (f : Slot → Slot) : (s.mapSlot n k f).regions = s.regions := rfl
@[simp] theorem mapSlot_tileClk (s : State) (n k : Nat) (f : Slot → Slot) : (s.mapSlot n k f).tileClk = s.tileClk := rfl
@[simp] theorem mapSlot_tileStores (s : State) (n k : Nat) (f : Slot → Slot) : (s.mapSlot n k f).tileStores = s.tileStores := rfl
@[simp] theorem mapSlot_teams (s : State) (n k : Nat) (f : Slot → Slot) : (s.mapSlot n k f).teams = s.teams := rfl
@[simp] theorem mapSlot_nbs (s : State) (n k : Nat) (f : Slot → Slot) : (s.mapSlot n k f).nbs = s.nbs := rfl
@[simp] theorem mapSlot_launches (s : State) (n k : Nat) (f : Slot → Slot) : (s.mapSlot n k f).launches = s.launches := rfl
@[simp] theorem mapSlot_parts (s : State) (n k : Nat) (f : Slot → Slot) : (s.mapSlot n k f).parts = s.parts := rfl
@[simp] theorem mapSlot_tbl (s : State) (n k : Nat) (f : Slot → Slot) : (s.mapSlot n k f).tbl = s.tbl := rfl
@[simp] theorem mapSlot_boot (s : State) (n k : Nat) (f : Slot → Slot) : (s.mapSlot n k f).boot = s.boot := rfl
@[simp] theorem mapSlot_fuses (s : State) (n k : Nat) (f : Slot → Slot) : (s.mapSlot n k f).fuses = s.fuses := rfl
@[simp] theorem mapSlot_flash (s : State) (n k : Nat) (f : Slot → Slot) : (s.mapSlot n k f).flash = s.flash := rfl
@[simp] theorem mapSlot_pslice (s : State) (n k : Nat) (f : Slot → Slot) : (s.mapSlot n k f).pslice = s.pslice := rfl
@[simp] theorem mapSlot_starve (s : State) (n k : Nat) (f : Slot → Slot) : (s.mapSlot n k f).starve = s.starve := rfl
@[simp] theorem mapSlot_adv (s : State) (n k : Nat) (f : Slot → Slot) : (s.mapSlot n k f).adv = s.adv := rfl
@[simp] theorem mapSlot_ts (s : State) (n k : Nat) (f : Slot → Slot) : (s.mapSlot n k f).ts = s.ts := rfl
@[simp] theorem mapSlot_winch (s : State) (n k : Nat) (f : Slot → Slot) : (s.mapSlot n k f).winch = s.winch := rfl
@[simp] theorem mapSlot_rr (s : State) (n k : Nat) (f : Slot → Slot) : (s.mapSlot n k f).rr = s.rr := rfl
@[simp] theorem mapSlot_starveFrom (s : State) (n k : Nat) (f : Slot → Slot) : (s.mapSlot n k f).starveFrom = s.starveFrom := rfl
@[simp] theorem mapSlot_promoted (s : State) (n k : Nat) (f : Slot → Slot) : (s.mapSlot n k f).promoted = s.promoted := rfl
@[simp] theorem mapSlot_lastSwitch (s : State) (n k : Nat) (f : Slot → Slot) : (s.mapSlot n k f).lastSwitch = s.lastSwitch := rfl
@[simp] theorem mapSlot_ballast (s : State) (n k : Nat) (f : Slot → Slot) : (s.mapSlot n k f).ballast = s.ballast := rfl
@[simp] theorem mapSlot_ballastSet (s : State) (n k : Nat) (f : Slot → Slot) : (s.mapSlot n k f).ballastSet = s.ballastSet := rfl
@[simp] theorem mapSlot_parkLim (s : State) (n k : Nat) (f : Slot → Slot) : (s.mapSlot n k f).parkLim = s.parkLim := rfl
@[simp] theorem mapSlot_envBase (s : State) (n k : Nat) (f : Slot → Slot) : (s.mapSlot n k f).envBase = s.envBase := rfl
@[simp] theorem mapSlot_envLen (s : State) (n k : Nat) (f : Slot → Slot) : (s.mapSlot n k f).envLen = s.envLen := rfl
@[simp] theorem mapSlot_kept (s : State) (n k : Nat) (f : Slot → Slot) : (s.mapSlot n k f).kept = s.kept := rfl
@[simp] theorem mapSlot_ports (s : State) (n k : Nat) (f : Slot → Slot) : (s.mapSlot n k f).ports = s.ports := rfl
@[simp] theorem mapSlot_filters (s : State) (n k : Nat) (f : Slot → Slot) : (s.mapSlot n k f).filters = s.filters := rfl
@[simp] theorem mapSlot_streams (s : State) (n k : Nat) (f : Slot → Slot) : (s.mapSlot n k f).streams = s.streams := rfl
@[simp] theorem mapSlot_ethSrc (s : State) (n k : Nat) (f : Slot → Slot) : (s.mapSlot n k f).ethSrc = s.ethSrc := rfl
@[simp] theorem mapSlot_ethSync (s : State) (n k : Nat) (f : Slot → Slot) : (s.mapSlot n k f).ethSync = s.ethSync := rfl
@[simp] theorem mapSlot_outputs (s : State) (n k : Nat) (f : Slot → Slot) : (s.mapSlot n k f).outputs = s.outputs := rfl
@[simp] theorem mapSlot_gcores (s : State) (n k : Nat) (f : Slot → Slot) : (s.mapSlot n k f).gcores = s.gcores := rfl
@[simp] theorem mapSlot_gmem (s : State) (n k : Nat) (f : Slot → Slot) : (s.mapSlot n k f).gmem = s.gmem := rfl
@[simp] theorem mapSlot_signals (s : State) (n k : Nat) (f : Slot → Slot) : (s.mapSlot n k f).signals = s.signals := rfl

@[simp] theorem mapPart_schedule (s : State) (n : Nat) (f : Partition → Partition) : (s.mapPart n f).schedule = s.schedule := rfl
@[simp] theorem mapPart_cur (s : State) (n : Nat) (f : Partition → Partition) : (s.mapPart n f).cur = s.cur := rfl
@[simp] theorem mapPart_gcur (s : State) (n : Nat) (f : Partition → Partition) : (s.mapPart n f).gcur = s.gcur := rfl
@[simp] theorem mapPart_nextSeq (s : State) (n : Nat) (f : Partition → Partition) : (s.mapPart n f).nextSeq = s.nextSeq := rfl
@[simp] theorem mapPart_nextId (s : State) (n : Nat) (f : Partition → Partition) : (s.mapPart n f).nextId = s.nextId := rfl
@[simp] theorem mapPart_freeCtr (s : State) (n : Nat) (f : Partition → Partition) : (s.mapPart n f).freeCtr = s.freeCtr := rfl
@[simp] theorem mapPart_busRead (s : State) (n : Nat) (f : Partition → Partition) : (s.mapPart n f).busRead = s.busRead := rfl
@[simp] theorem mapPart_busFault (s : State) (n : Nat) (f : Partition → Partition) : (s.mapPart n f).busFault = s.busFault := rfl
@[simp] theorem mapPart_clk (s : State) (n : Nat) (f : Partition → Partition) : (s.mapPart n f).clk = s.clk := rfl
@[simp] theorem mapPart_devTime (s : State) (n : Nat) (f : Partition → Partition) : (s.mapPart n f).devTime = s.devTime := rfl
@[simp] theorem mapPart_timeSynced (s : State) (n : Nat) (f : Partition → Partition) : (s.mapPart n f).timeSynced = s.timeSynced := rfl
@[simp] theorem mapPart_timeRate (s : State) (n : Nat) (f : Partition → Partition) : (s.mapPart n f).timeRate = s.timeRate := rfl
@[simp] theorem mapPart_timeFrac (s : State) (n : Nat) (f : Partition → Partition) : (s.mapPart n f).timeFrac = s.timeFrac := rfl
@[simp] theorem mapPart_volt (s : State) (n : Nat) (f : Partition → Partition) : (s.mapPart n f).volt = s.volt := rfl
@[simp] theorem mapPart_frozen (s : State) (n : Nat) (f : Partition → Partition) : (s.mapPart n f).frozen = s.frozen := rfl
@[simp] theorem mapPart_apertureGated (s : State) (n : Nat) (f : Partition → Partition) : (s.mapPart n f).apertureGated = s.apertureGated := rfl
@[simp] theorem mapPart_mem (s : State) (n : Nat) (f : Partition → Partition) : (s.mapPart n f).mem = s.mem := rfl
@[simp] theorem mapPart_badBlocks (s : State) (n : Nat) (f : Partition → Partition) : (s.mapPart n f).badBlocks = s.badBlocks := rfl
@[simp] theorem mapPart_sizeGiB (s : State) (n : Nat) (f : Partition → Partition) : (s.mapPart n f).sizeGiB = s.sizeGiB := rfl
@[simp] theorem mapPart_cecnt (s : State) (n : Nat) (f : Partition → Partition) : (s.mapPart n f).cecnt = s.cecnt := rfl
@[simp] theorem mapPart_uecnt (s : State) (n : Nat) (f : Partition → Partition) : (s.mapPart n f).uecnt = s.uecnt := rfl
@[simp] theorem mapPart_flog (s : State) (n : Nat) (f : Partition → Partition) : (s.mapPart n f).flog = s.flog := rfl
@[simp] theorem mapPart_flogNext (s : State) (n : Nat) (f : Partition → Partition) : (s.mapPart n f).flogNext = s.flogNext := rfl
@[simp] theorem mapPart_flogClk (s : State) (n : Nat) (f : Partition → Partition) : (s.mapPart n f).flogClk = s.flogClk := rfl
@[simp] theorem mapPart_flogRun (s : State) (n : Nat) (f : Partition → Partition) : (s.mapPart n f).flogRun = s.flogRun := rfl
@[simp] theorem mapPart_stack (s : State) (n : Nat) (f : Partition → Partition) : (s.mapPart n f).stack = s.stack := rfl
@[simp] theorem mapPart_registry (s : State) (n : Nat) (f : Partition → Partition) : (s.mapPart n f).registry = s.registry := rfl
@[simp] theorem mapPart_regions (s : State) (n : Nat) (f : Partition → Partition) : (s.mapPart n f).regions = s.regions := rfl
@[simp] theorem mapPart_tileClk (s : State) (n : Nat) (f : Partition → Partition) : (s.mapPart n f).tileClk = s.tileClk := rfl
@[simp] theorem mapPart_tileStores (s : State) (n : Nat) (f : Partition → Partition) : (s.mapPart n f).tileStores = s.tileStores := rfl
@[simp] theorem mapPart_cores (s : State) (n : Nat) (f : Partition → Partition) : (s.mapPart n f).cores = s.cores := rfl
@[simp] theorem mapPart_teams (s : State) (n : Nat) (f : Partition → Partition) : (s.mapPart n f).teams = s.teams := rfl
@[simp] theorem mapPart_nbs (s : State) (n : Nat) (f : Partition → Partition) : (s.mapPart n f).nbs = s.nbs := rfl
@[simp] theorem mapPart_launches (s : State) (n : Nat) (f : Partition → Partition) : (s.mapPart n f).launches = s.launches := rfl
@[simp] theorem mapPart_tbl (s : State) (n : Nat) (f : Partition → Partition) : (s.mapPart n f).tbl = s.tbl := rfl
@[simp] theorem mapPart_boot (s : State) (n : Nat) (f : Partition → Partition) : (s.mapPart n f).boot = s.boot := rfl
@[simp] theorem mapPart_fuses (s : State) (n : Nat) (f : Partition → Partition) : (s.mapPart n f).fuses = s.fuses := rfl
@[simp] theorem mapPart_flash (s : State) (n : Nat) (f : Partition → Partition) : (s.mapPart n f).flash = s.flash := rfl
@[simp] theorem mapPart_pslice (s : State) (n : Nat) (f : Partition → Partition) : (s.mapPart n f).pslice = s.pslice := rfl
@[simp] theorem mapPart_starve (s : State) (n : Nat) (f : Partition → Partition) : (s.mapPart n f).starve = s.starve := rfl
@[simp] theorem mapPart_adv (s : State) (n : Nat) (f : Partition → Partition) : (s.mapPart n f).adv = s.adv := rfl
@[simp] theorem mapPart_ts (s : State) (n : Nat) (f : Partition → Partition) : (s.mapPart n f).ts = s.ts := rfl
@[simp] theorem mapPart_winch (s : State) (n : Nat) (f : Partition → Partition) : (s.mapPart n f).winch = s.winch := rfl
@[simp] theorem mapPart_rr (s : State) (n : Nat) (f : Partition → Partition) : (s.mapPart n f).rr = s.rr := rfl
@[simp] theorem mapPart_starveFrom (s : State) (n : Nat) (f : Partition → Partition) : (s.mapPart n f).starveFrom = s.starveFrom := rfl
@[simp] theorem mapPart_promoted (s : State) (n : Nat) (f : Partition → Partition) : (s.mapPart n f).promoted = s.promoted := rfl
@[simp] theorem mapPart_lastSwitch (s : State) (n : Nat) (f : Partition → Partition) : (s.mapPart n f).lastSwitch = s.lastSwitch := rfl
@[simp] theorem mapPart_ballast (s : State) (n : Nat) (f : Partition → Partition) : (s.mapPart n f).ballast = s.ballast := rfl
@[simp] theorem mapPart_ballastSet (s : State) (n : Nat) (f : Partition → Partition) : (s.mapPart n f).ballastSet = s.ballastSet := rfl
@[simp] theorem mapPart_parkLim (s : State) (n : Nat) (f : Partition → Partition) : (s.mapPart n f).parkLim = s.parkLim := rfl
@[simp] theorem mapPart_envBase (s : State) (n : Nat) (f : Partition → Partition) : (s.mapPart n f).envBase = s.envBase := rfl
@[simp] theorem mapPart_envLen (s : State) (n : Nat) (f : Partition → Partition) : (s.mapPart n f).envLen = s.envLen := rfl
@[simp] theorem mapPart_kept (s : State) (n : Nat) (f : Partition → Partition) : (s.mapPart n f).kept = s.kept := rfl
@[simp] theorem mapPart_ports (s : State) (n : Nat) (f : Partition → Partition) : (s.mapPart n f).ports = s.ports := rfl
@[simp] theorem mapPart_filters (s : State) (n : Nat) (f : Partition → Partition) : (s.mapPart n f).filters = s.filters := rfl
@[simp] theorem mapPart_streams (s : State) (n : Nat) (f : Partition → Partition) : (s.mapPart n f).streams = s.streams := rfl
@[simp] theorem mapPart_ethSrc (s : State) (n : Nat) (f : Partition → Partition) : (s.mapPart n f).ethSrc = s.ethSrc := rfl
@[simp] theorem mapPart_ethSync (s : State) (n : Nat) (f : Partition → Partition) : (s.mapPart n f).ethSync = s.ethSync := rfl
@[simp] theorem mapPart_outputs (s : State) (n : Nat) (f : Partition → Partition) : (s.mapPart n f).outputs = s.outputs := rfl
@[simp] theorem mapPart_gcores (s : State) (n : Nat) (f : Partition → Partition) : (s.mapPart n f).gcores = s.gcores := rfl
@[simp] theorem mapPart_gmem (s : State) (n : Nat) (f : Partition → Partition) : (s.mapPart n f).gmem = s.gmem := rfl
@[simp] theorem mapPart_signals (s : State) (n : Nat) (f : Partition → Partition) : (s.mapPart n f).signals = s.signals := rfl

@[simp] theorem mapQueue_schedule (s : State) (p q : Nat) (f : Queue → Queue) : (s.mapQueue p q f).schedule = s.schedule := rfl
@[simp] theorem mapQueue_cur (s : State) (p q : Nat) (f : Queue → Queue) : (s.mapQueue p q f).cur = s.cur := rfl
@[simp] theorem mapQueue_gcur (s : State) (p q : Nat) (f : Queue → Queue) : (s.mapQueue p q f).gcur = s.gcur := rfl
@[simp] theorem mapQueue_nextSeq (s : State) (p q : Nat) (f : Queue → Queue) : (s.mapQueue p q f).nextSeq = s.nextSeq := rfl
@[simp] theorem mapQueue_nextId (s : State) (p q : Nat) (f : Queue → Queue) : (s.mapQueue p q f).nextId = s.nextId := rfl
@[simp] theorem mapQueue_freeCtr (s : State) (p q : Nat) (f : Queue → Queue) : (s.mapQueue p q f).freeCtr = s.freeCtr := rfl
@[simp] theorem mapQueue_busRead (s : State) (p q : Nat) (f : Queue → Queue) : (s.mapQueue p q f).busRead = s.busRead := rfl
@[simp] theorem mapQueue_busFault (s : State) (p q : Nat) (f : Queue → Queue) : (s.mapQueue p q f).busFault = s.busFault := rfl
@[simp] theorem mapQueue_clk (s : State) (p q : Nat) (f : Queue → Queue) : (s.mapQueue p q f).clk = s.clk := rfl
@[simp] theorem mapQueue_devTime (s : State) (p q : Nat) (f : Queue → Queue) : (s.mapQueue p q f).devTime = s.devTime := rfl
@[simp] theorem mapQueue_timeSynced (s : State) (p q : Nat) (f : Queue → Queue) : (s.mapQueue p q f).timeSynced = s.timeSynced := rfl
@[simp] theorem mapQueue_timeRate (s : State) (p q : Nat) (f : Queue → Queue) : (s.mapQueue p q f).timeRate = s.timeRate := rfl
@[simp] theorem mapQueue_timeFrac (s : State) (p q : Nat) (f : Queue → Queue) : (s.mapQueue p q f).timeFrac = s.timeFrac := rfl
@[simp] theorem mapQueue_volt (s : State) (p q : Nat) (f : Queue → Queue) : (s.mapQueue p q f).volt = s.volt := rfl
@[simp] theorem mapQueue_frozen (s : State) (p q : Nat) (f : Queue → Queue) : (s.mapQueue p q f).frozen = s.frozen := rfl
@[simp] theorem mapQueue_apertureGated (s : State) (p q : Nat) (f : Queue → Queue) : (s.mapQueue p q f).apertureGated = s.apertureGated := rfl
@[simp] theorem mapQueue_mem (s : State) (p q : Nat) (f : Queue → Queue) : (s.mapQueue p q f).mem = s.mem := rfl
@[simp] theorem mapQueue_badBlocks (s : State) (p q : Nat) (f : Queue → Queue) : (s.mapQueue p q f).badBlocks = s.badBlocks := rfl
@[simp] theorem mapQueue_sizeGiB (s : State) (p q : Nat) (f : Queue → Queue) : (s.mapQueue p q f).sizeGiB = s.sizeGiB := rfl
@[simp] theorem mapQueue_cecnt (s : State) (p q : Nat) (f : Queue → Queue) : (s.mapQueue p q f).cecnt = s.cecnt := rfl
@[simp] theorem mapQueue_uecnt (s : State) (p q : Nat) (f : Queue → Queue) : (s.mapQueue p q f).uecnt = s.uecnt := rfl
@[simp] theorem mapQueue_flog (s : State) (p q : Nat) (f : Queue → Queue) : (s.mapQueue p q f).flog = s.flog := rfl
@[simp] theorem mapQueue_flogNext (s : State) (p q : Nat) (f : Queue → Queue) : (s.mapQueue p q f).flogNext = s.flogNext := rfl
@[simp] theorem mapQueue_flogClk (s : State) (p q : Nat) (f : Queue → Queue) : (s.mapQueue p q f).flogClk = s.flogClk := rfl
@[simp] theorem mapQueue_flogRun (s : State) (p q : Nat) (f : Queue → Queue) : (s.mapQueue p q f).flogRun = s.flogRun := rfl
@[simp] theorem mapQueue_stack (s : State) (p q : Nat) (f : Queue → Queue) : (s.mapQueue p q f).stack = s.stack := rfl
@[simp] theorem mapQueue_registry (s : State) (p q : Nat) (f : Queue → Queue) : (s.mapQueue p q f).registry = s.registry := rfl
@[simp] theorem mapQueue_regions (s : State) (p q : Nat) (f : Queue → Queue) : (s.mapQueue p q f).regions = s.regions := rfl
@[simp] theorem mapQueue_tileClk (s : State) (p q : Nat) (f : Queue → Queue) : (s.mapQueue p q f).tileClk = s.tileClk := rfl
@[simp] theorem mapQueue_tileStores (s : State) (p q : Nat) (f : Queue → Queue) : (s.mapQueue p q f).tileStores = s.tileStores := rfl
@[simp] theorem mapQueue_cores (s : State) (p q : Nat) (f : Queue → Queue) : (s.mapQueue p q f).cores = s.cores := rfl
@[simp] theorem mapQueue_teams (s : State) (p q : Nat) (f : Queue → Queue) : (s.mapQueue p q f).teams = s.teams := rfl
@[simp] theorem mapQueue_nbs (s : State) (p q : Nat) (f : Queue → Queue) : (s.mapQueue p q f).nbs = s.nbs := rfl
@[simp] theorem mapQueue_launches (s : State) (p q : Nat) (f : Queue → Queue) : (s.mapQueue p q f).launches = s.launches := rfl
@[simp] theorem mapQueue_tbl (s : State) (p q : Nat) (f : Queue → Queue) : (s.mapQueue p q f).tbl = s.tbl := rfl
@[simp] theorem mapQueue_boot (s : State) (p q : Nat) (f : Queue → Queue) : (s.mapQueue p q f).boot = s.boot := rfl
@[simp] theorem mapQueue_fuses (s : State) (p q : Nat) (f : Queue → Queue) : (s.mapQueue p q f).fuses = s.fuses := rfl
@[simp] theorem mapQueue_flash (s : State) (p q : Nat) (f : Queue → Queue) : (s.mapQueue p q f).flash = s.flash := rfl
@[simp] theorem mapQueue_pslice (s : State) (p q : Nat) (f : Queue → Queue) : (s.mapQueue p q f).pslice = s.pslice := rfl
@[simp] theorem mapQueue_starve (s : State) (p q : Nat) (f : Queue → Queue) : (s.mapQueue p q f).starve = s.starve := rfl
@[simp] theorem mapQueue_adv (s : State) (p q : Nat) (f : Queue → Queue) : (s.mapQueue p q f).adv = s.adv := rfl
@[simp] theorem mapQueue_ts (s : State) (p q : Nat) (f : Queue → Queue) : (s.mapQueue p q f).ts = s.ts := rfl
@[simp] theorem mapQueue_winch (s : State) (p q : Nat) (f : Queue → Queue) : (s.mapQueue p q f).winch = s.winch := rfl
@[simp] theorem mapQueue_rr (s : State) (p q : Nat) (f : Queue → Queue) : (s.mapQueue p q f).rr = s.rr := rfl
@[simp] theorem mapQueue_starveFrom (s : State) (p q : Nat) (f : Queue → Queue) : (s.mapQueue p q f).starveFrom = s.starveFrom := rfl
@[simp] theorem mapQueue_promoted (s : State) (p q : Nat) (f : Queue → Queue) : (s.mapQueue p q f).promoted = s.promoted := rfl
@[simp] theorem mapQueue_lastSwitch (s : State) (p q : Nat) (f : Queue → Queue) : (s.mapQueue p q f).lastSwitch = s.lastSwitch := rfl
@[simp] theorem mapQueue_ballast (s : State) (p q : Nat) (f : Queue → Queue) : (s.mapQueue p q f).ballast = s.ballast := rfl
@[simp] theorem mapQueue_ballastSet (s : State) (p q : Nat) (f : Queue → Queue) : (s.mapQueue p q f).ballastSet = s.ballastSet := rfl
@[simp] theorem mapQueue_parkLim (s : State) (p q : Nat) (f : Queue → Queue) : (s.mapQueue p q f).parkLim = s.parkLim := rfl
@[simp] theorem mapQueue_envBase (s : State) (p q : Nat) (f : Queue → Queue) : (s.mapQueue p q f).envBase = s.envBase := rfl
@[simp] theorem mapQueue_envLen (s : State) (p q : Nat) (f : Queue → Queue) : (s.mapQueue p q f).envLen = s.envLen := rfl
@[simp] theorem mapQueue_kept (s : State) (p q : Nat) (f : Queue → Queue) : (s.mapQueue p q f).kept = s.kept := rfl
@[simp] theorem mapQueue_ports (s : State) (p q : Nat) (f : Queue → Queue) : (s.mapQueue p q f).ports = s.ports := rfl
@[simp] theorem mapQueue_filters (s : State) (p q : Nat) (f : Queue → Queue) : (s.mapQueue p q f).filters = s.filters := rfl
@[simp] theorem mapQueue_streams (s : State) (p q : Nat) (f : Queue → Queue) : (s.mapQueue p q f).streams = s.streams := rfl
@[simp] theorem mapQueue_ethSrc (s : State) (p q : Nat) (f : Queue → Queue) : (s.mapQueue p q f).ethSrc = s.ethSrc := rfl
@[simp] theorem mapQueue_ethSync (s : State) (p q : Nat) (f : Queue → Queue) : (s.mapQueue p q f).ethSync = s.ethSync := rfl
@[simp] theorem mapQueue_outputs (s : State) (p q : Nat) (f : Queue → Queue) : (s.mapQueue p q f).outputs = s.outputs := rfl
@[simp] theorem mapQueue_gcores (s : State) (p q : Nat) (f : Queue → Queue) : (s.mapQueue p q f).gcores = s.gcores := rfl
@[simp] theorem mapQueue_gmem (s : State) (p q : Nat) (f : Queue → Queue) : (s.mapQueue p q f).gmem = s.gmem := rfl
@[simp] theorem mapQueue_signals (s : State) (p q : Nat) (f : Queue → Queue) : (s.mapQueue p q f).signals = s.signals := rfl

@[simp] theorem mapNb_schedule (s : State) (n : Nat) (f : Nb → Nb) : (s.mapNb n f).schedule = s.schedule := rfl
@[simp] theorem mapNb_cur (s : State) (n : Nat) (f : Nb → Nb) : (s.mapNb n f).cur = s.cur := rfl
@[simp] theorem mapNb_gcur (s : State) (n : Nat) (f : Nb → Nb) : (s.mapNb n f).gcur = s.gcur := rfl
@[simp] theorem mapNb_nextSeq (s : State) (n : Nat) (f : Nb → Nb) : (s.mapNb n f).nextSeq = s.nextSeq := rfl
@[simp] theorem mapNb_nextId (s : State) (n : Nat) (f : Nb → Nb) : (s.mapNb n f).nextId = s.nextId := rfl
@[simp] theorem mapNb_freeCtr (s : State) (n : Nat) (f : Nb → Nb) : (s.mapNb n f).freeCtr = s.freeCtr := rfl
@[simp] theorem mapNb_busRead (s : State) (n : Nat) (f : Nb → Nb) : (s.mapNb n f).busRead = s.busRead := rfl
@[simp] theorem mapNb_busFault (s : State) (n : Nat) (f : Nb → Nb) : (s.mapNb n f).busFault = s.busFault := rfl
@[simp] theorem mapNb_clk (s : State) (n : Nat) (f : Nb → Nb) : (s.mapNb n f).clk = s.clk := rfl
@[simp] theorem mapNb_devTime (s : State) (n : Nat) (f : Nb → Nb) : (s.mapNb n f).devTime = s.devTime := rfl
@[simp] theorem mapNb_timeSynced (s : State) (n : Nat) (f : Nb → Nb) : (s.mapNb n f).timeSynced = s.timeSynced := rfl
@[simp] theorem mapNb_timeRate (s : State) (n : Nat) (f : Nb → Nb) : (s.mapNb n f).timeRate = s.timeRate := rfl
@[simp] theorem mapNb_timeFrac (s : State) (n : Nat) (f : Nb → Nb) : (s.mapNb n f).timeFrac = s.timeFrac := rfl
@[simp] theorem mapNb_volt (s : State) (n : Nat) (f : Nb → Nb) : (s.mapNb n f).volt = s.volt := rfl
@[simp] theorem mapNb_frozen (s : State) (n : Nat) (f : Nb → Nb) : (s.mapNb n f).frozen = s.frozen := rfl
@[simp] theorem mapNb_apertureGated (s : State) (n : Nat) (f : Nb → Nb) : (s.mapNb n f).apertureGated = s.apertureGated := rfl
@[simp] theorem mapNb_mem (s : State) (n : Nat) (f : Nb → Nb) : (s.mapNb n f).mem = s.mem := rfl
@[simp] theorem mapNb_badBlocks (s : State) (n : Nat) (f : Nb → Nb) : (s.mapNb n f).badBlocks = s.badBlocks := rfl
@[simp] theorem mapNb_sizeGiB (s : State) (n : Nat) (f : Nb → Nb) : (s.mapNb n f).sizeGiB = s.sizeGiB := rfl
@[simp] theorem mapNb_cecnt (s : State) (n : Nat) (f : Nb → Nb) : (s.mapNb n f).cecnt = s.cecnt := rfl
@[simp] theorem mapNb_uecnt (s : State) (n : Nat) (f : Nb → Nb) : (s.mapNb n f).uecnt = s.uecnt := rfl
@[simp] theorem mapNb_flog (s : State) (n : Nat) (f : Nb → Nb) : (s.mapNb n f).flog = s.flog := rfl
@[simp] theorem mapNb_flogNext (s : State) (n : Nat) (f : Nb → Nb) : (s.mapNb n f).flogNext = s.flogNext := rfl
@[simp] theorem mapNb_flogClk (s : State) (n : Nat) (f : Nb → Nb) : (s.mapNb n f).flogClk = s.flogClk := rfl
@[simp] theorem mapNb_flogRun (s : State) (n : Nat) (f : Nb → Nb) : (s.mapNb n f).flogRun = s.flogRun := rfl
@[simp] theorem mapNb_stack (s : State) (n : Nat) (f : Nb → Nb) : (s.mapNb n f).stack = s.stack := rfl
@[simp] theorem mapNb_registry (s : State) (n : Nat) (f : Nb → Nb) : (s.mapNb n f).registry = s.registry := rfl
@[simp] theorem mapNb_regions (s : State) (n : Nat) (f : Nb → Nb) : (s.mapNb n f).regions = s.regions := rfl
@[simp] theorem mapNb_tileClk (s : State) (n : Nat) (f : Nb → Nb) : (s.mapNb n f).tileClk = s.tileClk := rfl
@[simp] theorem mapNb_tileStores (s : State) (n : Nat) (f : Nb → Nb) : (s.mapNb n f).tileStores = s.tileStores := rfl
@[simp] theorem mapNb_cores (s : State) (n : Nat) (f : Nb → Nb) : (s.mapNb n f).cores = s.cores := rfl
@[simp] theorem mapNb_teams (s : State) (n : Nat) (f : Nb → Nb) : (s.mapNb n f).teams = s.teams := rfl
@[simp] theorem mapNb_launches (s : State) (n : Nat) (f : Nb → Nb) : (s.mapNb n f).launches = s.launches := rfl
@[simp] theorem mapNb_parts (s : State) (n : Nat) (f : Nb → Nb) : (s.mapNb n f).parts = s.parts := rfl
@[simp] theorem mapNb_tbl (s : State) (n : Nat) (f : Nb → Nb) : (s.mapNb n f).tbl = s.tbl := rfl
@[simp] theorem mapNb_boot (s : State) (n : Nat) (f : Nb → Nb) : (s.mapNb n f).boot = s.boot := rfl
@[simp] theorem mapNb_fuses (s : State) (n : Nat) (f : Nb → Nb) : (s.mapNb n f).fuses = s.fuses := rfl
@[simp] theorem mapNb_flash (s : State) (n : Nat) (f : Nb → Nb) : (s.mapNb n f).flash = s.flash := rfl
@[simp] theorem mapNb_pslice (s : State) (n : Nat) (f : Nb → Nb) : (s.mapNb n f).pslice = s.pslice := rfl
@[simp] theorem mapNb_starve (s : State) (n : Nat) (f : Nb → Nb) : (s.mapNb n f).starve = s.starve := rfl
@[simp] theorem mapNb_adv (s : State) (n : Nat) (f : Nb → Nb) : (s.mapNb n f).adv = s.adv := rfl
@[simp] theorem mapNb_ts (s : State) (n : Nat) (f : Nb → Nb) : (s.mapNb n f).ts = s.ts := rfl
@[simp] theorem mapNb_winch (s : State) (n : Nat) (f : Nb → Nb) : (s.mapNb n f).winch = s.winch := rfl
@[simp] theorem mapNb_rr (s : State) (n : Nat) (f : Nb → Nb) : (s.mapNb n f).rr = s.rr := rfl
@[simp] theorem mapNb_starveFrom (s : State) (n : Nat) (f : Nb → Nb) : (s.mapNb n f).starveFrom = s.starveFrom := rfl
@[simp] theorem mapNb_promoted (s : State) (n : Nat) (f : Nb → Nb) : (s.mapNb n f).promoted = s.promoted := rfl
@[simp] theorem mapNb_lastSwitch (s : State) (n : Nat) (f : Nb → Nb) : (s.mapNb n f).lastSwitch = s.lastSwitch := rfl
@[simp] theorem mapNb_ballast (s : State) (n : Nat) (f : Nb → Nb) : (s.mapNb n f).ballast = s.ballast := rfl
@[simp] theorem mapNb_ballastSet (s : State) (n : Nat) (f : Nb → Nb) : (s.mapNb n f).ballastSet = s.ballastSet := rfl
@[simp] theorem mapNb_parkLim (s : State) (n : Nat) (f : Nb → Nb) : (s.mapNb n f).parkLim = s.parkLim := rfl
@[simp] theorem mapNb_envBase (s : State) (n : Nat) (f : Nb → Nb) : (s.mapNb n f).envBase = s.envBase := rfl
@[simp] theorem mapNb_envLen (s : State) (n : Nat) (f : Nb → Nb) : (s.mapNb n f).envLen = s.envLen := rfl
@[simp] theorem mapNb_kept (s : State) (n : Nat) (f : Nb → Nb) : (s.mapNb n f).kept = s.kept := rfl
@[simp] theorem mapNb_ports (s : State) (n : Nat) (f : Nb → Nb) : (s.mapNb n f).ports = s.ports := rfl
@[simp] theorem mapNb_filters (s : State) (n : Nat) (f : Nb → Nb) : (s.mapNb n f).filters = s.filters := rfl
@[simp] theorem mapNb_streams (s : State) (n : Nat) (f : Nb → Nb) : (s.mapNb n f).streams = s.streams := rfl
@[simp] theorem mapNb_ethSrc (s : State) (n : Nat) (f : Nb → Nb) : (s.mapNb n f).ethSrc = s.ethSrc := rfl
@[simp] theorem mapNb_ethSync (s : State) (n : Nat) (f : Nb → Nb) : (s.mapNb n f).ethSync = s.ethSync := rfl
@[simp] theorem mapNb_outputs (s : State) (n : Nat) (f : Nb → Nb) : (s.mapNb n f).outputs = s.outputs := rfl
@[simp] theorem mapNb_gcores (s : State) (n : Nat) (f : Nb → Nb) : (s.mapNb n f).gcores = s.gcores := rfl
@[simp] theorem mapNb_gmem (s : State) (n : Nat) (f : Nb → Nb) : (s.mapNb n f).gmem = s.gmem := rfl
@[simp] theorem mapNb_signals (s : State) (n : Nat) (f : Nb → Nb) : (s.mapNb n f).signals = s.signals := rfl

@[simp] theorem setOwner_schedule (s : State) (w : Nat) (o : Option Owner) : (s.setOwner w o).schedule = s.schedule := rfl
@[simp] theorem setOwner_cur (s : State) (w : Nat) (o : Option Owner) : (s.setOwner w o).cur = s.cur := rfl
@[simp] theorem setOwner_gcur (s : State) (w : Nat) (o : Option Owner) : (s.setOwner w o).gcur = s.gcur := rfl
@[simp] theorem setOwner_nextSeq (s : State) (w : Nat) (o : Option Owner) : (s.setOwner w o).nextSeq = s.nextSeq := rfl
@[simp] theorem setOwner_nextId (s : State) (w : Nat) (o : Option Owner) : (s.setOwner w o).nextId = s.nextId := rfl
@[simp] theorem setOwner_freeCtr (s : State) (w : Nat) (o : Option Owner) : (s.setOwner w o).freeCtr = s.freeCtr := rfl
@[simp] theorem setOwner_busRead (s : State) (w : Nat) (o : Option Owner) : (s.setOwner w o).busRead = s.busRead := rfl
@[simp] theorem setOwner_busFault (s : State) (w : Nat) (o : Option Owner) : (s.setOwner w o).busFault = s.busFault := rfl
@[simp] theorem setOwner_clk (s : State) (w : Nat) (o : Option Owner) : (s.setOwner w o).clk = s.clk := rfl
@[simp] theorem setOwner_devTime (s : State) (w : Nat) (o : Option Owner) : (s.setOwner w o).devTime = s.devTime := rfl
@[simp] theorem setOwner_timeSynced (s : State) (w : Nat) (o : Option Owner) : (s.setOwner w o).timeSynced = s.timeSynced := rfl
@[simp] theorem setOwner_timeRate (s : State) (w : Nat) (o : Option Owner) : (s.setOwner w o).timeRate = s.timeRate := rfl
@[simp] theorem setOwner_timeFrac (s : State) (w : Nat) (o : Option Owner) : (s.setOwner w o).timeFrac = s.timeFrac := rfl
@[simp] theorem setOwner_volt (s : State) (w : Nat) (o : Option Owner) : (s.setOwner w o).volt = s.volt := rfl
@[simp] theorem setOwner_frozen (s : State) (w : Nat) (o : Option Owner) : (s.setOwner w o).frozen = s.frozen := rfl
@[simp] theorem setOwner_apertureGated (s : State) (w : Nat) (o : Option Owner) : (s.setOwner w o).apertureGated = s.apertureGated := rfl
@[simp] theorem setOwner_mem (s : State) (w : Nat) (o : Option Owner) : (s.setOwner w o).mem = s.mem := rfl
@[simp] theorem setOwner_badBlocks (s : State) (w : Nat) (o : Option Owner) : (s.setOwner w o).badBlocks = s.badBlocks := rfl
@[simp] theorem setOwner_sizeGiB (s : State) (w : Nat) (o : Option Owner) : (s.setOwner w o).sizeGiB = s.sizeGiB := rfl
@[simp] theorem setOwner_cecnt (s : State) (w : Nat) (o : Option Owner) : (s.setOwner w o).cecnt = s.cecnt := rfl
@[simp] theorem setOwner_uecnt (s : State) (w : Nat) (o : Option Owner) : (s.setOwner w o).uecnt = s.uecnt := rfl
@[simp] theorem setOwner_flog (s : State) (w : Nat) (o : Option Owner) : (s.setOwner w o).flog = s.flog := rfl
@[simp] theorem setOwner_flogNext (s : State) (w : Nat) (o : Option Owner) : (s.setOwner w o).flogNext = s.flogNext := rfl
@[simp] theorem setOwner_flogClk (s : State) (w : Nat) (o : Option Owner) : (s.setOwner w o).flogClk = s.flogClk := rfl
@[simp] theorem setOwner_flogRun (s : State) (w : Nat) (o : Option Owner) : (s.setOwner w o).flogRun = s.flogRun := rfl
@[simp] theorem setOwner_stack (s : State) (w : Nat) (o : Option Owner) : (s.setOwner w o).stack = s.stack := rfl
@[simp] theorem setOwner_regions (s : State) (w : Nat) (o : Option Owner) : (s.setOwner w o).regions = s.regions := rfl
@[simp] theorem setOwner_tileClk (s : State) (w : Nat) (o : Option Owner) : (s.setOwner w o).tileClk = s.tileClk := rfl
@[simp] theorem setOwner_tileStores (s : State) (w : Nat) (o : Option Owner) : (s.setOwner w o).tileStores = s.tileStores := rfl
@[simp] theorem setOwner_cores (s : State) (w : Nat) (o : Option Owner) : (s.setOwner w o).cores = s.cores := rfl
@[simp] theorem setOwner_teams (s : State) (w : Nat) (o : Option Owner) : (s.setOwner w o).teams = s.teams := rfl
@[simp] theorem setOwner_nbs (s : State) (w : Nat) (o : Option Owner) : (s.setOwner w o).nbs = s.nbs := rfl
@[simp] theorem setOwner_launches (s : State) (w : Nat) (o : Option Owner) : (s.setOwner w o).launches = s.launches := rfl
@[simp] theorem setOwner_parts (s : State) (w : Nat) (o : Option Owner) : (s.setOwner w o).parts = s.parts := rfl
@[simp] theorem setOwner_tbl (s : State) (w : Nat) (o : Option Owner) : (s.setOwner w o).tbl = s.tbl := rfl
@[simp] theorem setOwner_boot (s : State) (w : Nat) (o : Option Owner) : (s.setOwner w o).boot = s.boot := rfl
@[simp] theorem setOwner_fuses (s : State) (w : Nat) (o : Option Owner) : (s.setOwner w o).fuses = s.fuses := rfl
@[simp] theorem setOwner_flash (s : State) (w : Nat) (o : Option Owner) : (s.setOwner w o).flash = s.flash := rfl
@[simp] theorem setOwner_pslice (s : State) (w : Nat) (o : Option Owner) : (s.setOwner w o).pslice = s.pslice := rfl
@[simp] theorem setOwner_starve (s : State) (w : Nat) (o : Option Owner) : (s.setOwner w o).starve = s.starve := rfl
@[simp] theorem setOwner_adv (s : State) (w : Nat) (o : Option Owner) : (s.setOwner w o).adv = s.adv := rfl
@[simp] theorem setOwner_ts (s : State) (w : Nat) (o : Option Owner) : (s.setOwner w o).ts = s.ts := rfl
@[simp] theorem setOwner_winch (s : State) (w : Nat) (o : Option Owner) : (s.setOwner w o).winch = s.winch := rfl
@[simp] theorem setOwner_rr (s : State) (w : Nat) (o : Option Owner) : (s.setOwner w o).rr = s.rr := rfl
@[simp] theorem setOwner_starveFrom (s : State) (w : Nat) (o : Option Owner) : (s.setOwner w o).starveFrom = s.starveFrom := rfl
@[simp] theorem setOwner_promoted (s : State) (w : Nat) (o : Option Owner) : (s.setOwner w o).promoted = s.promoted := rfl
@[simp] theorem setOwner_lastSwitch (s : State) (w : Nat) (o : Option Owner) : (s.setOwner w o).lastSwitch = s.lastSwitch := rfl
@[simp] theorem setOwner_ballast (s : State) (w : Nat) (o : Option Owner) : (s.setOwner w o).ballast = s.ballast := rfl
@[simp] theorem setOwner_ballastSet (s : State) (w : Nat) (o : Option Owner) : (s.setOwner w o).ballastSet = s.ballastSet := rfl
@[simp] theorem setOwner_parkLim (s : State) (w : Nat) (o : Option Owner) : (s.setOwner w o).parkLim = s.parkLim := rfl
@[simp] theorem setOwner_envBase (s : State) (w : Nat) (o : Option Owner) : (s.setOwner w o).envBase = s.envBase := rfl
@[simp] theorem setOwner_envLen (s : State) (w : Nat) (o : Option Owner) : (s.setOwner w o).envLen = s.envLen := rfl
@[simp] theorem setOwner_kept (s : State) (w : Nat) (o : Option Owner) : (s.setOwner w o).kept = s.kept := rfl
@[simp] theorem setOwner_ports (s : State) (w : Nat) (o : Option Owner) : (s.setOwner w o).ports = s.ports := rfl
@[simp] theorem setOwner_filters (s : State) (w : Nat) (o : Option Owner) : (s.setOwner w o).filters = s.filters := rfl
@[simp] theorem setOwner_streams (s : State) (w : Nat) (o : Option Owner) : (s.setOwner w o).streams = s.streams := rfl
@[simp] theorem setOwner_ethSrc (s : State) (w : Nat) (o : Option Owner) : (s.setOwner w o).ethSrc = s.ethSrc := rfl
@[simp] theorem setOwner_ethSync (s : State) (w : Nat) (o : Option Owner) : (s.setOwner w o).ethSync = s.ethSync := rfl
@[simp] theorem setOwner_outputs (s : State) (w : Nat) (o : Option Owner) : (s.setOwner w o).outputs = s.outputs := rfl
@[simp] theorem setOwner_gcores (s : State) (w : Nat) (o : Option Owner) : (s.setOwner w o).gcores = s.gcores := rfl
@[simp] theorem setOwner_gmem (s : State) (w : Nat) (o : Option Owner) : (s.setOwner w o).gmem = s.gmem := rfl
@[simp] theorem setOwner_signals (s : State) (w : Nat) (o : Option Owner) : (s.setOwner w o).signals = s.signals := rfl

@[simp] theorem setMem_schedule (s : State) (a : Nat) (bs : List Byte) : (s.setMem a bs).schedule = s.schedule := rfl
@[simp] theorem setMem_cur (s : State) (a : Nat) (bs : List Byte) : (s.setMem a bs).cur = s.cur := rfl
@[simp] theorem setMem_gcur (s : State) (a : Nat) (bs : List Byte) : (s.setMem a bs).gcur = s.gcur := rfl
@[simp] theorem setMem_nextSeq (s : State) (a : Nat) (bs : List Byte) : (s.setMem a bs).nextSeq = s.nextSeq := rfl
@[simp] theorem setMem_nextId (s : State) (a : Nat) (bs : List Byte) : (s.setMem a bs).nextId = s.nextId := rfl
@[simp] theorem setMem_freeCtr (s : State) (a : Nat) (bs : List Byte) : (s.setMem a bs).freeCtr = s.freeCtr := rfl
@[simp] theorem setMem_busRead (s : State) (a : Nat) (bs : List Byte) : (s.setMem a bs).busRead = s.busRead := rfl
@[simp] theorem setMem_busFault (s : State) (a : Nat) (bs : List Byte) : (s.setMem a bs).busFault = s.busFault := rfl
@[simp] theorem setMem_clk (s : State) (a : Nat) (bs : List Byte) : (s.setMem a bs).clk = s.clk := rfl
@[simp] theorem setMem_devTime (s : State) (a : Nat) (bs : List Byte) : (s.setMem a bs).devTime = s.devTime := rfl
@[simp] theorem setMem_timeSynced (s : State) (a : Nat) (bs : List Byte) : (s.setMem a bs).timeSynced = s.timeSynced := rfl
@[simp] theorem setMem_timeRate (s : State) (a : Nat) (bs : List Byte) : (s.setMem a bs).timeRate = s.timeRate := rfl
@[simp] theorem setMem_timeFrac (s : State) (a : Nat) (bs : List Byte) : (s.setMem a bs).timeFrac = s.timeFrac := rfl
@[simp] theorem setMem_volt (s : State) (a : Nat) (bs : List Byte) : (s.setMem a bs).volt = s.volt := rfl
@[simp] theorem setMem_frozen (s : State) (a : Nat) (bs : List Byte) : (s.setMem a bs).frozen = s.frozen := rfl
@[simp] theorem setMem_apertureGated (s : State) (a : Nat) (bs : List Byte) : (s.setMem a bs).apertureGated = s.apertureGated := rfl
@[simp] theorem setMem_sizeGiB (s : State) (a : Nat) (bs : List Byte) : (s.setMem a bs).sizeGiB = s.sizeGiB := rfl
@[simp] theorem setMem_cecnt (s : State) (a : Nat) (bs : List Byte) : (s.setMem a bs).cecnt = s.cecnt := rfl
@[simp] theorem setMem_uecnt (s : State) (a : Nat) (bs : List Byte) : (s.setMem a bs).uecnt = s.uecnt := rfl
@[simp] theorem setMem_flog (s : State) (a : Nat) (bs : List Byte) : (s.setMem a bs).flog = s.flog := rfl
@[simp] theorem setMem_flogNext (s : State) (a : Nat) (bs : List Byte) : (s.setMem a bs).flogNext = s.flogNext := rfl
@[simp] theorem setMem_flogClk (s : State) (a : Nat) (bs : List Byte) : (s.setMem a bs).flogClk = s.flogClk := rfl
@[simp] theorem setMem_flogRun (s : State) (a : Nat) (bs : List Byte) : (s.setMem a bs).flogRun = s.flogRun := rfl
@[simp] theorem setMem_registry (s : State) (a : Nat) (bs : List Byte) : (s.setMem a bs).registry = s.registry := rfl
@[simp] theorem setMem_regions (s : State) (a : Nat) (bs : List Byte) : (s.setMem a bs).regions = s.regions := rfl
@[simp] theorem setMem_tileClk (s : State) (a : Nat) (bs : List Byte) : (s.setMem a bs).tileClk = s.tileClk := rfl
@[simp] theorem setMem_tileStores (s : State) (a : Nat) (bs : List Byte) : (s.setMem a bs).tileStores = s.tileStores := rfl
@[simp] theorem setMem_cores (s : State) (a : Nat) (bs : List Byte) : (s.setMem a bs).cores = s.cores := rfl
@[simp] theorem setMem_teams (s : State) (a : Nat) (bs : List Byte) : (s.setMem a bs).teams = s.teams := rfl
@[simp] theorem setMem_nbs (s : State) (a : Nat) (bs : List Byte) : (s.setMem a bs).nbs = s.nbs := rfl
@[simp] theorem setMem_launches (s : State) (a : Nat) (bs : List Byte) : (s.setMem a bs).launches = s.launches := rfl
@[simp] theorem setMem_parts (s : State) (a : Nat) (bs : List Byte) : (s.setMem a bs).parts = s.parts := rfl
@[simp] theorem setMem_tbl (s : State) (a : Nat) (bs : List Byte) : (s.setMem a bs).tbl = s.tbl := rfl
@[simp] theorem setMem_boot (s : State) (a : Nat) (bs : List Byte) : (s.setMem a bs).boot = s.boot := rfl
@[simp] theorem setMem_fuses (s : State) (a : Nat) (bs : List Byte) : (s.setMem a bs).fuses = s.fuses := rfl
@[simp] theorem setMem_flash (s : State) (a : Nat) (bs : List Byte) : (s.setMem a bs).flash = s.flash := rfl
@[simp] theorem setMem_pslice (s : State) (a : Nat) (bs : List Byte) : (s.setMem a bs).pslice = s.pslice := rfl
@[simp] theorem setMem_starve (s : State) (a : Nat) (bs : List Byte) : (s.setMem a bs).starve = s.starve := rfl
@[simp] theorem setMem_adv (s : State) (a : Nat) (bs : List Byte) : (s.setMem a bs).adv = s.adv := rfl
@[simp] theorem setMem_ts (s : State) (a : Nat) (bs : List Byte) : (s.setMem a bs).ts = s.ts := rfl
@[simp] theorem setMem_winch (s : State) (a : Nat) (bs : List Byte) : (s.setMem a bs).winch = s.winch := rfl
@[simp] theorem setMem_rr (s : State) (a : Nat) (bs : List Byte) : (s.setMem a bs).rr = s.rr := rfl
@[simp] theorem setMem_starveFrom (s : State) (a : Nat) (bs : List Byte) : (s.setMem a bs).starveFrom = s.starveFrom := rfl
@[simp] theorem setMem_promoted (s : State) (a : Nat) (bs : List Byte) : (s.setMem a bs).promoted = s.promoted := rfl
@[simp] theorem setMem_lastSwitch (s : State) (a : Nat) (bs : List Byte) : (s.setMem a bs).lastSwitch = s.lastSwitch := rfl
@[simp] theorem setMem_ballast (s : State) (a : Nat) (bs : List Byte) : (s.setMem a bs).ballast = s.ballast := rfl
@[simp] theorem setMem_ballastSet (s : State) (a : Nat) (bs : List Byte) : (s.setMem a bs).ballastSet = s.ballastSet := rfl
@[simp] theorem setMem_parkLim (s : State) (a : Nat) (bs : List Byte) : (s.setMem a bs).parkLim = s.parkLim := rfl
@[simp] theorem setMem_envBase (s : State) (a : Nat) (bs : List Byte) : (s.setMem a bs).envBase = s.envBase := rfl
@[simp] theorem setMem_envLen (s : State) (a : Nat) (bs : List Byte) : (s.setMem a bs).envLen = s.envLen := rfl
@[simp] theorem setMem_kept (s : State) (a : Nat) (bs : List Byte) : (s.setMem a bs).kept = s.kept := rfl
@[simp] theorem setMem_ports (s : State) (a : Nat) (bs : List Byte) : (s.setMem a bs).ports = s.ports := rfl
@[simp] theorem setMem_filters (s : State) (a : Nat) (bs : List Byte) : (s.setMem a bs).filters = s.filters := rfl
@[simp] theorem setMem_streams (s : State) (a : Nat) (bs : List Byte) : (s.setMem a bs).streams = s.streams := rfl
@[simp] theorem setMem_ethSrc (s : State) (a : Nat) (bs : List Byte) : (s.setMem a bs).ethSrc = s.ethSrc := rfl
@[simp] theorem setMem_ethSync (s : State) (a : Nat) (bs : List Byte) : (s.setMem a bs).ethSync = s.ethSync := rfl
@[simp] theorem setMem_outputs (s : State) (a : Nat) (bs : List Byte) : (s.setMem a bs).outputs = s.outputs := rfl
@[simp] theorem setMem_gcores (s : State) (a : Nat) (bs : List Byte) : (s.setMem a bs).gcores = s.gcores := rfl
@[simp] theorem setMem_gmem (s : State) (a : Nat) (bs : List Byte) : (s.setMem a bs).gmem = s.gmem := rfl
@[simp] theorem setMem_signals (s : State) (a : Nat) (bs : List Byte) : (s.setMem a bs).signals = s.signals := rfl

@[simp] theorem stamp_schedule (s : State) : (s.stamp).schedule = s.schedule := rfl
@[simp] theorem stamp_cur (s : State) : (s.stamp).cur = s.cur := rfl
@[simp] theorem stamp_gcur (s : State) : (s.stamp).gcur = s.gcur := rfl
@[simp] theorem stamp_nextId (s : State) : (s.stamp).nextId = s.nextId := rfl
@[simp] theorem stamp_freeCtr (s : State) : (s.stamp).freeCtr = s.freeCtr := rfl
@[simp] theorem stamp_busRead (s : State) : (s.stamp).busRead = s.busRead := rfl
@[simp] theorem stamp_busFault (s : State) : (s.stamp).busFault = s.busFault := rfl
@[simp] theorem stamp_clk (s : State) : (s.stamp).clk = s.clk := rfl
@[simp] theorem stamp_devTime (s : State) : (s.stamp).devTime = s.devTime := rfl
@[simp] theorem stamp_timeSynced (s : State) : (s.stamp).timeSynced = s.timeSynced := rfl
@[simp] theorem stamp_timeRate (s : State) : (s.stamp).timeRate = s.timeRate := rfl
@[simp] theorem stamp_timeFrac (s : State) : (s.stamp).timeFrac = s.timeFrac := rfl
@[simp] theorem stamp_volt (s : State) : (s.stamp).volt = s.volt := rfl
@[simp] theorem stamp_frozen (s : State) : (s.stamp).frozen = s.frozen := rfl
@[simp] theorem stamp_apertureGated (s : State) : (s.stamp).apertureGated = s.apertureGated := rfl
@[simp] theorem stamp_mem (s : State) : (s.stamp).mem = s.mem := rfl
@[simp] theorem stamp_badBlocks (s : State) : (s.stamp).badBlocks = s.badBlocks := rfl
@[simp] theorem stamp_sizeGiB (s : State) : (s.stamp).sizeGiB = s.sizeGiB := rfl
@[simp] theorem stamp_cecnt (s : State) : (s.stamp).cecnt = s.cecnt := rfl
@[simp] theorem stamp_uecnt (s : State) : (s.stamp).uecnt = s.uecnt := rfl
@[simp] theorem stamp_flog (s : State) : (s.stamp).flog = s.flog := rfl
@[simp] theorem stamp_flogNext (s : State) : (s.stamp).flogNext = s.flogNext := rfl
@[simp] theorem stamp_flogClk (s : State) : (s.stamp).flogClk = s.flogClk := rfl
@[simp] theorem stamp_flogRun (s : State) : (s.stamp).flogRun = s.flogRun := rfl
@[simp] theorem stamp_stack (s : State) : (s.stamp).stack = s.stack := rfl
@[simp] theorem stamp_registry (s : State) : (s.stamp).registry = s.registry := rfl
@[simp] theorem stamp_regions (s : State) : (s.stamp).regions = s.regions := rfl
@[simp] theorem stamp_tileClk (s : State) : (s.stamp).tileClk = s.tileClk := rfl
@[simp] theorem stamp_tileStores (s : State) : (s.stamp).tileStores = s.tileStores := rfl
@[simp] theorem stamp_cores (s : State) : (s.stamp).cores = s.cores := rfl
@[simp] theorem stamp_teams (s : State) : (s.stamp).teams = s.teams := rfl
@[simp] theorem stamp_nbs (s : State) : (s.stamp).nbs = s.nbs := rfl
@[simp] theorem stamp_launches (s : State) : (s.stamp).launches = s.launches := rfl
@[simp] theorem stamp_parts (s : State) : (s.stamp).parts = s.parts := rfl
@[simp] theorem stamp_tbl (s : State) : (s.stamp).tbl = s.tbl := rfl
@[simp] theorem stamp_boot (s : State) : (s.stamp).boot = s.boot := rfl
@[simp] theorem stamp_fuses (s : State) : (s.stamp).fuses = s.fuses := rfl
@[simp] theorem stamp_flash (s : State) : (s.stamp).flash = s.flash := rfl
@[simp] theorem stamp_pslice (s : State) : (s.stamp).pslice = s.pslice := rfl
@[simp] theorem stamp_starve (s : State) : (s.stamp).starve = s.starve := rfl
@[simp] theorem stamp_adv (s : State) : (s.stamp).adv = s.adv := rfl
@[simp] theorem stamp_ts (s : State) : (s.stamp).ts = s.ts := rfl
@[simp] theorem stamp_winch (s : State) : (s.stamp).winch = s.winch := rfl
@[simp] theorem stamp_rr (s : State) : (s.stamp).rr = s.rr := rfl
@[simp] theorem stamp_starveFrom (s : State) : (s.stamp).starveFrom = s.starveFrom := rfl
@[simp] theorem stamp_promoted (s : State) : (s.stamp).promoted = s.promoted := rfl
@[simp] theorem stamp_lastSwitch (s : State) : (s.stamp).lastSwitch = s.lastSwitch := rfl
@[simp] theorem stamp_ballast (s : State) : (s.stamp).ballast = s.ballast := rfl
@[simp] theorem stamp_ballastSet (s : State) : (s.stamp).ballastSet = s.ballastSet := rfl
@[simp] theorem stamp_parkLim (s : State) : (s.stamp).parkLim = s.parkLim := rfl
@[simp] theorem stamp_envBase (s : State) : (s.stamp).envBase = s.envBase := rfl
@[simp] theorem stamp_envLen (s : State) : (s.stamp).envLen = s.envLen := rfl
@[simp] theorem stamp_kept (s : State) : (s.stamp).kept = s.kept := rfl
@[simp] theorem stamp_ports (s : State) : (s.stamp).ports = s.ports := rfl
@[simp] theorem stamp_filters (s : State) : (s.stamp).filters = s.filters := rfl
@[simp] theorem stamp_streams (s : State) : (s.stamp).streams = s.streams := rfl
@[simp] theorem stamp_ethSrc (s : State) : (s.stamp).ethSrc = s.ethSrc := rfl
@[simp] theorem stamp_ethSync (s : State) : (s.stamp).ethSync = s.ethSync := rfl
@[simp] theorem stamp_outputs (s : State) : (s.stamp).outputs = s.outputs := rfl
@[simp] theorem stamp_gcores (s : State) : (s.stamp).gcores = s.gcores := rfl
@[simp] theorem stamp_gmem (s : State) : (s.stamp).gmem = s.gmem := rfl
@[simp] theorem stamp_signals (s : State) : (s.stamp).signals = s.signals := rfl

/-! What an update does write. -/

@[simp] theorem setTeam_teams (s : State) (t : Team) :
    (s.setTeam t).teams = s.teams.map fun x => if x.uid = t.uid then t else x := rfl
@[simp] theorem mapTeam_teams (s : State) (n : Nat) (f : Team → Team) :
    (s.mapTeam n f).teams = s.teams.map fun x => if x.uid = n then f x else x := rfl
@[simp] theorem mapCore_cores (s : State) (n : Nat) (f : Core → Core) : (s.mapCore n f).cores = modifyAt s.cores n f := rfl
@[simp] theorem mapPart_parts (s : State) (n : Nat) (f : Partition → Partition) : (s.mapPart n f).parts = modifyAt s.parts n f := rfl
@[simp] theorem setMem_mem (s : State) (a : Nat) (bs : List Byte) :
    (s.setMem a bs).mem = cellSet Config.memDefault s.mem a bs := rfl
@[simp] theorem stamp_nextSeq (s : State) : s.stamp.nextSeq = s.nextSeq + 1 := rfl

@[simp] theorem next_uid (t t1 : Team) (w : Nat) (b : Bool) : (t.next t1 w b).uid = t1.uid := rfl

/-- The team that a lookup finds has the number looked for. -/
theorem uid_of_team? {s : State} {n : Nat} {t : Team} (h : s.team? n = some t) : t.uid = n := by
  simpa using List.find?_some h

/-- A lookup after a team is written, for a list of teams. -/
theorem find_mapped (l : List Team) (n : Nat) (t t1 : Team) (h : l.find? (fun x => x.uid == n) = some t) (e : t1.uid = n) :
    (l.map fun x => if x.uid = n then t1 else x).find? (fun x => x.uid == n) = some t1 := by
  induction l with
  | nil => simp at h
  | cons x xs ih =>
    by_cases hx : x.uid = n
    · simp [hx, e]
    · have hx' : (x.uid == n) = false := by simp [hx]
      simp only [List.find?_cons, hx'] at h
      simp [hx, ih h]

/-- A team that is written is found again. -/
theorem team?_setTeam {s : State} {t t1 : Team} (h : s.team? t.uid = some t) (e : t1.uid = t.uid) :
    (s.setTeam t1).team? t.uid = some t1 := by
  unfold State.setTeam State.mapTeam State.team?
  simp only [e]
  exact find_mapped s.teams t.uid t t1 h e

/-- Of two writes of one team the later stays. -/
theorem setTeam_setTeam (s : State) (t1 t2 : Team) (e : t1.uid = t2.uid) : (s.setTeam t1).setTeam t2 = s.setTeam t2 := by
  unfold State.setTeam State.mapTeam
  simp only [List.map_map]
  congr 1
  apply List.map_congr_left
  intro x _
  simp only [Function.comp]
  by_cases hx : x.uid = t2.uid <;> simp [hx, e]

/-- What the instructions that write registers leave alone in their team (R167, R298): its number, status, port and debug
state. -/
structure Team.Same (t t1 : Team) : Prop where
  uid : t1.uid = t.uid
  status : t1.status = t.status
  port : t1.port = t.port
  dbg : t1.dbg = t.dbg
  inTrap : t1.inTrap = t.inTrap

theorem Team.Same.rfl' (t : Team) : t.Same t := ⟨rfl, rfl, rfl, rfl, rfl⟩

theorem Team.Same.trans {t a b : Team} (h : t.Same a) (k : a.Same b) : t.Same b :=
  ⟨k.uid.trans h.uid, k.status.trans h.status, k.port.trans h.port, k.dbg.trans h.dbg, k.inTrap.trans h.inTrap⟩

theorem same_writeS (t : Team) (r : Spec) (x : Word) : t.Same (t.writeS r x) := by
  unfold Team.writeS; split <;> exact ⟨rfl, rfl, rfl, rfl, rfl⟩

theorem same_writeS64 (t : Team) (r : Spec) (x : Nat) : t.Same (t.writeS64 r x) := by
  unfold Team.writeS64
  split
  · exact Team.Same.rfl' t
  · exact (same_writeS _ _ _).trans (same_writeS _ _ _)

theorem same_writeA (t : Team) (r : Spec) (x : Word × Word) : t.Same (t.writeA r x) := ⟨rfl, rfl, rfl, rfl, rfl⟩

theorem same_writeC (t : Team) (r : Spec) (x : Cap) : t.Same (t.writeC r x) := ⟨rfl, rfl, rfl, rfl, rfl⟩

theorem same_writeQ (t : Team) (i : BitVec 3) (x : Bool) : t.Same (t.writeQ i x) := by
  unfold Team.writeQ; split <;> exact ⟨rfl, rfl, rfl, rfl, rfl⟩

theorem same_writeP (t : Team) (m : LaneMask) (i : BitVec 3) (x : LaneMask) : t.Same (t.writeP m i x) := by
  unfold Team.writeP; split <;> exact ⟨rfl, rfl, rfl, rfl, rfl⟩

theorem same_putV (t : Team) (m : LaneMask) (r : Spec) (x : List Word) : t.Same (t.putV m r x) := by
  unfold Team.putV
  dsimp only
  split
  · exact ⟨rfl, rfl, rfl, rfl, rfl⟩
  · split <;> exact ⟨rfl, rfl, rfl, rfl, rfl⟩

theorem same_advanceY (t : Team) (m : LaneMask) (x : List Word) : t.Same (t.advanceY m x) := ⟨rfl, rfl, rfl, rfl, rfl⟩

theorem same_writeV (t : Team) (m : LaneMask) (r : Spec) (x : List Word) : t.Same (t.writeV m r x) :=
  (same_putV t m r x).trans (same_advanceY _ _ _)

theorem same_raise (t : Team) (q : Raised) : t.Same (t.raise q) := ⟨rfl, rfl, rfl, rfl, rfl⟩

end Sys2Proof.Machine
end

