-- ==== Sys2Proof/Laws/Ops.lean ====
section
/-!
SUPPORT. What the frame of a team instruction answers (Machine/Ops.lean): one lemma per way through it, and one per shape of a
register-only instruction (Machine/Arith.lean). Proofs about an instruction cite these and unfold no frame.
-/
namespace Sys2Proof.Machine

theorem issues_uid {s : State} {t : Team} {us : List RegUse} {m : LaneMask} (h : s.issues t us m) : s.team? t.uid = some t := by
  rw [uid_of_team? h.1]; exact h.1

theorem issues_running {s : State} {t : Team} {us : List RegUse} {m : LaneMask} (h : s.issues t us m) : t.status = .running := by
  have := h.2.1
  simp only [Team.canIssue, Bool.and_eq_true, decide_eq_true_eq] at this
  exact this.1.1

/-- An instruction that issues runs its body (R167). -/
theorem runTeam_issues {s : State} {f : Fields} {us : List RegUse} {part : Bool} {m : Team → Option LaneMask}
    {body : Team → Res} {t : Team} (h : s.issues t us ((m t).getD t.active)) (p : part = true → t.active = t.launched) :
    s.runTeam f us part m body = finish (f.len.toNat + 1) f.b (m t) t (body t) := by
  obtain ⟨h1, h2, h3, h4⟩ := h
  unfold State.runTeam
  simp only [h1, h2, h3, h4]
  by_cases q : part = true
  · simp [q, p q]
  · simp [q]

/-- No SINGLE_STEP follows where STEP is off or the team was in a trap. -/
theorem stepCause_noStep {t t1 : Team} (h : t.noStep) : stepCause t t1 = [] := by
  unfold stepCause
  rw [if_neg]
  rintro ⟨a, _, c, _⟩
  rcases h with h | h
  · rw [h] at a; cases a
  · exact c h

/-- A body that leaves its team as `t1`, with no cause to take, completes (R94). -/
theorem finish_ok' {s : State} {t t1 : Team} {words : Nat} {b e q : Bool} {m : Option LaneMask} (h : s.team? t.uid = some t)
    (u : t1.uid = t.uid) (k : t1.status = t.status) (n : t.noStep) (r : t.status = .running) :
    finish words b m t (.ok { s := s.setTeam t1, pc := none, ends := e, after := [], quiet := q })
      = .next (s.completed t t1 words (b || e)) := by
  unfold finish
  simp only [team?_setTeam h u]
  have : ¬ t1.status = .retiring := by rw [k, r]; simp
  simp only [this, if_false, Option.getD_none, List.nil_append, stepCause_noStep n, ite_self, lowestCause]
  exact congrArg _ (setTeam_setTeam s t1 (t.next t1 words (b || e)) rfl)

theorem finish_ok {s : State} {t t1 : Team} {words : Nat} {b e q : Bool} {m : Option LaneMask} (h : s.team? t.uid = some t)
    (k : t.Same t1) (n : t.noStep) (r : t.status = .running) :
    finish words b m t (.ok { s := s.setTeam t1, pc := none, ends := e, after := [], quiet := q })
      = .next (s.completed t t1 words (b || e)) := finish_ok' h k.uid k.status n r

/-- A body that gives a new pc and ends its run (R94). -/
theorem finish_jump {s : State} {t t1 : Team} {words : Nat} {b q : Bool} {m : Option LaneMask} {x : Word}
    (h : s.team? t.uid = some t) (u : t1.uid = t.uid) (k : t1.status = t.status) (n : t.noStep) (r : t.status = .running) :
    finish words b m t (.ok { s := s.setTeam t1, pc := some x, ends := true, after := [], quiet := q })
      = .next (s.jumped t1 x) := by
  unfold finish
  simp only [team?_setTeam h u]
  have : ¬ t1.status = .retiring := by rw [k, r]; simp
  simp only [this, if_false, Option.getD_some, List.nil_append, stepCause_noStep n, ite_self, lowestCause]
  rw [Bool.or_true]
  exact congrArg _ (setTeam_setTeam s t1 { t1 with pc := x, runLen := 0, port := none } rfl)

/-- A body with no effect completes. -/
theorem finish_done {s : State} {t : Team} {words : Nat} {b e q : Bool} {m : Option LaneMask} (h : s.team? t.uid = some t)
    (n : t.noStep) (r : t.status = .running) :
    finish words b m t (.ok { s := s, pc := none, ends := e, after := [], quiet := q })
      = .next (s.completed t t words (b || e)) := by
  unfold finish
  have : ¬ t.status = .retiring := by rw [r]; simp
  simp only [h, this, if_false, Option.getD_none, List.nil_append, stepCause_noStep n, ite_self, lowestCause]
  rfl

/-- A body that writes registers and nothing else completes. -/
theorem finish_team {s : State} {t t1 : Team} {words : Nat} {b : Bool} {m : Option LaneMask} (h : s.team? t.uid = some t)
    (k : t.Same t1) (n : t.noStep) (r : t.status = .running) :
    finish words b m t (.team s t1) = .next (s.completed t t1 words b) := by
  simpa [Res.team, Res.done] using finish_ok (e := false) (q := false) h k n r

/-- A cause taken with no effect (R167): the trap, with the instruction's own pc as return pc. -/
theorem finish_trap {s : State} {t : Team} {words : Nat} {b : Bool} {m : Option LaneMask} {c : Cause}
    (h : s.team? t.uid = some t) (k : c.next = false) :
    finish words b m t (.trap s c) = .next (s.takeTrap t c false t.pc t.pc m) := by
  simp [finish, h, k]

/-- A team that may not issue, and is not asked, leaves the machine alone (R95, R96). -/
theorem runTeam_held {s : State} {f : Fields} {us : List RegUse} {part : Bool} {m : Team → Option LaneMask}
    {body : Team → Res} {t : Team} (h : s.team? s.cur = some t) (k : t.canIssue = false) (a : t.asked = false) :
    s.runTeam f us part m body = .next s := by
  simp [State.runTeam, State.askedTeam, h, k, a]

/-- UNIFORM_PARTIAL before the effect (R99, R167). -/
theorem runTeam_partial {s : State} {f : Fields} {us : List RegUse} {m : Team → Option LaneMask} {body : Team → Res} {t : Team}
    (h : s.team? s.cur = some t) (k : t.canIssue = true) (u : t.badReg us = none) (p : t.active ≠ t.launched) :
    s.runTeam f us true m body
      = .next (s.takeTrap t (Cause.simple 0x10 (infoW f.word0 0 10)) false t.pc t.pc (m t)) := by
  have h' : s.team? t.uid = some t := by rw [uid_of_team? h]; exact h
  unfold State.runTeam
  simp only [h, k, u, Res.raise]
  simp [finish, h', Cause.simple, p]

/-- A uniform instruction that issues under a true guard. -/
theorem uniformOp_true {s : State} {f : Fields} {g : Guard} {us : List RegUse} {part : Bool} {body : Team → Res} {t : Team}
    (h : s.issues t us t.active) (p : part = true → t.active = t.launched) (q : t.guardQ g = true) :
    s.uniformOp f g us part body = finish (f.len.toNat + 1) f.b none t (body t) := by
  unfold State.uniformOp
  rw [runTeam_issues (t := t) (m := fun _ => none) h p, if_pos q]

/-- A uniform instruction that issues under a false guard completes with no effect (R240). -/
theorem uniformOp_false {s : State} {f : Fields} {g : Guard} {us : List RegUse} {part : Bool} {body : Team → Res} {t : Team}
    (h : s.issues t us t.active) (p : part = true → t.active = t.launched) (n : t.noStep) (q : t.guardQ g = false) :
    s.uniformOp f g us part body = .next (s.completed t t (f.len.toNat + 1) f.b) := by
  unfold State.uniformOp
  rw [runTeam_issues (t := t) (m := fun _ => none) h p, if_neg (by simp [q])]
  simpa [Res.done] using finish_done (e := false) (q := false) (issues_uid h) n (issues_running h)

/-- A uniform instruction whose body writes registers completes. -/
theorem uniformOp_team {s : State} {f : Fields} {g : Guard} {us : List RegUse} {part : Bool} {w : Team → Team} {t : Team}
    (h : s.issues t us t.active) (p : part = true → t.active = t.launched) (n : t.noStep) (q : t.guardQ g = true)
    (k : t.Same (w t)) :
    (s.uniformOp f g us part fun t => .team s (w t)) = .next (s.completed t (w t) (f.len.toNat + 1) f.b) := by
  rw [uniformOp_true h p q]
  simpa [Res.team, Res.done] using finish_ok (e := false) (q := false) (issues_uid h) k n (issues_running h)

/-- The guard of a 32-bit form is true. -/
@[simp] theorem guardQ_always (t : Team) : t.guardQ .always = true := rfl

@[simp] theorem execMask_always (t : Team) : t.execMask .always = t.active := by
  unfold Team.execMask Team.guardMask
  exact BitVec.and_allOnes

theorem uniform1_completes {s : State} {f : Fields} {g : Guard} {d x : Spec} {op : Word → Word} {t : Team}
    (h : s.uniformReady t [RegUse.dest 0 .s d, RegUse.src 1 .s x]) (q : t.guardQ g = true) :
    s.uniform1 f g d x op = .next (s.completed t (t.writeS d (op (t.readS x))) (f.len.toNat + 1) f.b) :=
  uniformOp_team (w := fun t => t.writeS d (op (t.readS x))) h.1 (fun _ => h.2.1) h.2.2 q (same_writeS _ _ _)

theorem uniform2a_completes {s : State} {f : Fields} {d y : Spec} {op : Word → Word → Word} {t : Team}
    (h : s.uniformReady t [RegUse.dest 0 .s d, RegUse.src 1 .s y]) :
    s.uniform2a f d y op = .next (s.completed t (t.writeS d (op (t.readS d) (t.readS y))) (f.len.toNat + 1) f.b) :=
  uniformOp_team (w := fun t => t.writeS d (op (t.readS d) (t.readS y))) h.1 (fun _ => h.2.1) h.2.2 rfl (same_writeS _ _ _)

theorem uniform2_completes {s : State} {f : Fields} {g : Guard} {d x y : Spec} {op : Word → Word → Word} {t : Team}
    (h : s.uniformReady t [RegUse.dest 0 .s d, RegUse.src 1 .s x, RegUse.src 2 .s y]) (q : t.guardQ g = true) :
    s.uniform2 f g d x y op = .next (s.completed t (t.writeS d (op (t.readS x) (t.readS y))) (f.len.toNat + 1) f.b) :=
  uniformOp_team (w := fun t => t.writeS d (op (t.readS x) (t.readS y))) h.1 (fun _ => h.2.1) h.2.2 q (same_writeS _ _ _)

theorem uniformQ_completes {s : State} {f : Fields} {g : Guard} {us : List RegUse} {d : BitVec 3} {v : Team → Bool} {t : Team}
    (h : s.uniformReady t us) (q : t.guardQ g = true) :
    s.uniformQ f g us d v = .next (s.completed t (t.writeQ d (v t)) (f.len.toNat + 1) f.b) :=
  uniformOp_team (w := fun t => t.writeQ d (v t)) h.1 (fun _ => h.2.1) h.2.2 q (same_writeQ _ _ _)

theorem affineOp_completes {s : State} {f : Fields} {g : Guard} {us : List RegUse} {d : Spec} {v : Team → Word × Word} {t : Team}
    (h : s.controlReady t (RegUse.dest 0 .a d :: us)) (q : t.guardQ g = true) :
    s.affineOp f g us d v = .next (s.completed t (t.writeA d (v t)) (f.len.toNat + 1) f.b) :=
  uniformOp_team (w := fun t => t.writeA d (v t)) h.1 (fun x => by simp at x) h.2 q (same_writeA _ _ _)

/-- A varying instruction that issues with some lane in its execution mask. -/
theorem varyingOp_lanes {s : State} {f : Fields} {g : Guard} {us : List RegUse} {body : Team → LaneMask → Res} {t : Team}
    (h : s.varyingReady t g us) :
    s.varyingOp f g us body = finish (f.len.toNat + 1) f.b (some (t.execMask g)) t (body t (t.execMask g)) := by
  unfold State.varyingOp
  rw [runTeam_issues (t := t) (m := fun t => some (t.execMask g)) h.1 (by simp), if_neg h.2.1]

/-- A varying instruction with an empty execution mask completes with no effect (R112). -/
theorem varyingOp_idle {s : State} {f : Fields} {g : Guard} {us : List RegUse} {body : Team → LaneMask → Res} {t : Team}
    (h : s.varyingIdle t g us) : s.varyingOp f g us body = .next (s.completed t t (f.len.toNat + 1) f.b) := by
  unfold State.varyingOp
  rw [runTeam_issues (t := t) (m := fun t => some (t.execMask g)) h.1 (by simp), if_pos h.2.1]
  simpa [Res.done] using finish_done (e := false) (q := false) (issues_uid h.1) h.2.2 (issues_running h.1)

/-- A varying instruction whose body writes registers and takes no cause completes. -/
theorem varyingOp_ok {s : State} {f : Fields} {g : Guard} {us : List RegUse} {body : Team → LaneMask → Res} {t t1 : Team}
    (h : s.varyingReady t g us)
    (e : body t (t.execMask g) = .ok { s := s.setTeam t1, pc := none, ends := false, after := [] }) (k : t.Same t1) :
    s.varyingOp f g us body = .next (s.completed t t1 (f.len.toNat + 1) f.b) := by
  rw [varyingOp_lanes h, e]
  simpa using finish_ok (e := false) (q := false) (issues_uid h.1) k h.2.2 (issues_running h.1)

theorem varyRow_completes {s : State} {f : Fields} {g : Guard} {us : List RegUse} {d : Spec} {row : Team → List Word} {t : Team}
    (h : s.varyingReady t g (RegUse.dest 0 .v d :: us)) :
    s.varyRow f g us d row = .next (s.completed t (t.writeV (t.execMask g) d (row t)) (f.len.toNat + 1) f.b) :=
  varyingOp_ok h rfl (same_writeV _ _ _ _)

theorem varyP_completes {s : State} {f : Fields} {g : Guard} {us : List RegUse} {d : BitVec 3} {v : Team → LaneMask} {t : Team}
    (h : s.varyingReady t g us) :
    s.varyP f g us d v = .next (s.completed t (t.writeP (t.execMask g) d (v t)) (f.len.toNat + 1) f.b) :=
  varyingOp_ok h rfl (same_writeP _ _ _ _)

/-- The shapes of varying instructions under an empty execution mask (R112). -/
theorem varyRow_idle {s : State} {f : Fields} {g : Guard} {us : List RegUse} {d : Spec} {row : Team → List Word} {t : Team}
    (h : s.varyingIdle t g (RegUse.dest 0 .v d :: us)) :
    s.varyRow f g us d row = .next (s.completed t t (f.len.toNat + 1) f.b) := varyingOp_idle h

theorem varyP_idle {s : State} {f : Fields} {g : Guard} {us : List RegUse} {d : BitVec 3} {v : Team → LaneMask} {t : Team}
    (h : s.varyingIdle t g us) : s.varyP f g us d v = .next (s.completed t t (f.len.toNat + 1) f.b) := varyingOp_idle h

theorem varyMod_idle {s : State} {f : Fields} {g : Guard} {us : List RegUse} {d : Spec} {mod : BitVec 2}
    {exact : Team → List (Int × Int)} {t : Team} (h : s.varyingIdle t g (RegUse.dest 0 .v d :: us)) :
    s.varyMod f g us d mod exact = .next (s.completed t t (f.len.toNat + 1) f.b) := varyingOp_idle h

theorem varyFp_idle {s : State} {f : Fields} {g : Guard} {us : List RegUse} {d : Spec}
    {rows : Team → List (Word × FFlags)} {t : Team} (h : s.varyingIdle t g (RegUse.dest 0 .v d :: us)) :
    s.varyFp f g us d rows = .next (s.completed t t (f.len.toNat + 1) f.b) := varyingOp_idle h

theorem frand_idle {s : State} {f : Fields} {g : Guard} {d : Spec} {out : Word → Word} {t : Team}
    (h : s.varyingIdle t g [RegUse.dest 0 .v d]) : s.frand f g d out = .next (s.completed t t (f.len.toNat + 1) f.b) :=
  varyingOp_idle h

theorem shuffle_idle {s : State} {f : Fields} {g : Guard} {us : List RegUse} {d : Spec} {src : Team → List Word}
    {lane : Team → Nat → Int} {t : Team} (h : s.varyingIdle t g (RegUse.dest 0 .v d :: us)) :
    s.shuffle f g us d src lane = .next (s.completed t t (f.len.toNat + 1) f.b) := varyingOp_idle h

/-- An instruction under MOD completes with no trap unless it is .TRAPV and some exact value of the mask leaves the range (R286). -/
theorem varyMod_completes {s : State} {f : Fields} {g : Guard} {us : List RegUse} {d : Spec} {mod : BitVec 2}
    {exact : Team → List (Int × Int)} {t : Team} (h : s.varyingReady t g (RegUse.dest 0 .v d :: us))
    (q : trapV mod (t.execMask g) ((exact t).map (·.1)) = []) :
    s.varyMod f g us d mod exact
      = .next (s.completed t (t.writeV (t.execMask g) d ((exact t).map fun p => ranged mod p.1 p.2)) (f.len.toNat + 1) f.b) :=
  varyingOp_ok h (by simp [q]) (same_writeV _ _ _ _)

theorem trapV_other {mod : BitVec 2} (m : LaneMask) (e : List Int) (h : mod ≠ 3) : trapV mod m e = [] := by
  unfold trapV
  rw [if_neg h]

/-- With no exception enabled none is taken (R218). -/
theorem causes_off (r : Raised) : r.causes 0 = [] := by
  unfold Raised.causes
  rw [List.filterMap_eq_nil_iff]
  intro i _
  have hb : bit 0 i = false := by simp [bit]
  split <;> simp [hb]

theorem varyFp_completes {s : State} {f : Fields} {g : Guard} {us : List RegUse} {d : Spec}
    {rows : Team → List (Word × FFlags)} {t : Team} (h : s.varyingReady t g (RegUse.dest 0 .v d :: us)) (z : t.prm.fptrap = 0) :
    s.varyFp f g us d rows
      = .next (s.completed t ((t.writeV (t.execMask g) d ((rows t).map (·.1))).raise
          (raisedIn (t.execMask g) 0 ((rows t).map (·.2)))) (f.len.toNat + 1) f.b) :=
  varyingOp_ok h (by simp [z, causes_off]) ((same_writeV _ _ _ _).trans (same_raise _ _))

/-- A team-wide instruction over its guard's selection (R281, R300). -/
theorem selectOp_ok {s : State} {f : Fields} {g : Guard} {us : List RegUse} {body : Team → LaneMask → Res} {t t1 : Team}
    (h : s.uniformReady t us)
    (e : body t (t.execMask g) = .ok { s := s.setTeam t1, pc := none, ends := false, after := [] }) (k : t.Same t1) :
    s.selectOp f g us body = .next (s.completed t t1 (f.len.toNat + 1) f.b) := by
  unfold State.selectOp
  rw [runTeam_issues (t := t) (m := fun _ => none) h.1 (fun _ => h.2.1), e]
  simpa using finish_ok (e := false) (q := false) (issues_uid h.1) k h.2.2 (issues_running h.1)

/-- RDFIRST and RDLAST of a lane (R281). -/
theorem demote_lane {s : State} {f : Fields} {g : Guard} {d x : Spec} {pick : Nat → LaneMask → Option Nat} {t : Team} {l : Nat}
    (h : s.uniformReady t [RegUse.dest 0 .s d, RegUse.src 1 .v x]) (k : pick t.lanes (t.execMask g) = some l) :
    s.demote f g d x pick = .next (s.completed t (t.writeS d (laneWord (t.readV x) l)) (f.len.toNat + 1) f.b) := by
  unfold State.demote
  exact selectOp_ok h (by simp only [k]; rfl) (same_writeS _ _ _)

/-- RDFIRST and RDLAST of no lane (R281). -/
theorem demote_empty {s : State} {f : Fields} {g : Guard} {d x : Spec} {pick : Nat → LaneMask → Option Nat} {t : Team}
    (h : s.uniformReady t [RegUse.dest 0 .s d, RegUse.src 1 .v x]) (k : pick t.lanes (t.execMask g) = none) :
    s.demote f g d x pick = .next (s.takeTrap t (Cause.simple 0x12 (infoW f.word0 0 18)) false t.pc t.pc none) := by
  unfold State.demote State.selectOp
  rw [runTeam_issues (t := t) (m := fun _ => none) h.1 (fun _ => h.2.1)]
  simp only [k]
  exact finish_trap (issues_uid h.1) rfl

/-- A control instruction runs its body. -/
theorem controlOp_runs {s : State} {f : Fields} {us : List RegUse} {body : Team → Res} {t : Team} (h : s.controlReady t us) :
    s.controlOp f us body = finish (f.len.toNat + 1) f.b none t (body t) :=
  runTeam_issues (t := t) (m := fun _ => none) h.1 (by simp)

/-- A control instruction with no effect completes. -/
theorem controlOp_done {s : State} {f : Fields} {us : List RegUse} {body : Team → Res} {t : Team} {e : Bool}
    (h : s.controlReady t us) (k : body t = .ok { s := s, pc := none, ends := e, after := [] }) :
    s.controlOp f us body = .next (s.completed t t (f.len.toNat + 1) (f.b || e)) := by
  rw [controlOp_runs h, k]
  exact finish_done (q := false) (issues_uid h.1) h.2 (issues_running h.1)

/-- A body that answers a state with its team in it, and no cause to take, completes there (R94). -/
theorem finish_state {s1 : State} {t t1 : Team} {words : Nat} {b e q : Bool} {m : Option LaneMask}
    (h : s1.team? t.uid = some t1) (k : t1.status ≠ .retiring) (n : t.noStep) :
    finish words b m t (.ok { s := s1, pc := none, ends := e, after := [], quiet := q })
      = .next (s1.completed t t1 words (b || e)) := by
  unfold finish
  simp only [h, k, if_false, Option.getD_none, List.nil_append, stepCause_noStep n, ite_self, lowestCause]
  rfl

/-- A memory instruction past the checks before those of its object runs its body on the acting lanes (R117, R324). -/
theorem memFrame_runs {s : State} {f : Fields} {g : Guard} {us : List RegUse} {off : Opd} {disp : Nat} {live : Bool}
    {body : State → Team → LaneMask → List (Nat × Nat) → Res} {t t1 : Team} (h : s.memReady t g us off live t1) :
    s.memFrame f g us off disp live body
      = finish (f.len.toNat + 1) f.b (some (t.execMask g)) t
          (body (s.setTeam t1) t1 (t.execMask g) (t1.laneOffsets off disp (t.memMask g live))) := by
  unfold State.memFrame
  rw [varyingOp_lanes h.1, h.2.1]
  have e := h.2.2
  unfold Team.memMask at e ⊢
  dsimp only
  rw [e]

/-- Only AW changes in the team that an affine address use leaves (R100). -/
theorem affineUse_team {t t1 : Team} {o : Opd} {m : LaneMask} {w : Option (Nat × Int)} (h : t.affineUse o m = (t1, w)) :
    ∃ a, t1 = { t with aw := a } := by
  unfold Team.affineUse at h
  cases o with
  | a r => simp only [Prod.mk.injEq] at h; exact ⟨_, h.1.symm⟩
  | v r => simp only [Prod.mk.injEq] at h; exact ⟨t.aw, h.1.symm⟩
  | s r => simp only [Prod.mk.injEq] at h; exact ⟨t.aw, h.1.symm⟩
  | imm n => simp only [Prod.mk.injEq] at h; exact ⟨t.aw, h.1.symm⟩

/-- A body that leaves its team as `t1` under a new order number completes (log entry 4). -/
theorem finish_issue {s : State} {t t1 : Team} {words : Nat} {b : Bool} {m : Option LaneMask} (h : s.team? t.uid = some t)
    (u : t1.uid = t.uid) (k : t1.status = t.status) (n : t.noStep) (r : t.status = .running) :
    finish words b m t (.ok { s := (s.setTeam t1).stamp, pc := none, ends := false, after := [] })
      = .next (s.completed t t1 words b).stamp := by
  rw [finish_state (t1 := t1) (s1 := (s.setTeam t1).stamp) (team?_setTeam h u) (by rw [k, r]; simp) n, Bool.or_false]
  exact congrArg (fun x => Host.Outcome.next (State.stamp x)) (setTeam_setTeam s t1 (t.next t1 words b) rfl)

/-- The same where a memory frame has written AW before (R100). -/
theorem finish_stamped {s : State} {t t1 t2 : Team} {words : Nat} {b : Bool} {m : Option LaneMask} (h : s.team? t.uid = some t)
    (u : t1.uid = t.uid) (u2 : t2.uid = t.uid) (k : t2.status = t.status) (n : t.noStep) (r : t.status = .running) :
    finish words b m t (.ok { s := ((s.setTeam t1).setTeam t2).stamp, pc := none, ends := false, after := [] })
      = .next (s.completed t t2 words b).stamp := by
  rw [setTeam_setTeam s t1 t2 (u.trans u2.symm)]
  exact finish_issue h u2 k n r

end Sys2Proof.Machine
end

