-- ==== Sys2Proof/Laws/PerInstr.lean ====
section
/-!
SUPPORT. A law of every instruction as syntax: what its encoding never is.
-/
namespace Sys2Proof.Laws.LegalWord

set_option Elab.async false

/-- The word group of an instruction has a length that the map knows and is not ILL_WORD (R233, R244), so no word of it is one of
the gondola's (R54). A step that no word encodes meets it vacuously. -/
def Statement (i : Instr) : Prop := ∀ f, encodeFields i = some f → f.len ≠ 3 ∧ f.op ≠ 0

/-- A word group whose LEN and OP are the given constants. -/
theorem legal_of (l : BitVec 2) (o : BitVec 7) {f g : Fields} (hl : g.len = l) (ho : g.op = o) (h : some g = some f)
    (h1 : l ≠ 3 := by decide) (h2 : o ≠ 0 := by decide) : f.len ≠ 3 ∧ f.op ≠ 0 := by
  cases h; exact ⟨hl ▸ h1, ho ▸ h2⟩

theorem coldReset : Statement (.coldReset) := fun _ h => by cases h
theorem warmReset (cause : Byte) : Statement (.warmReset cause) := fun _ h => by cases h
theorem freeze (on : Bool) : Statement (.freeze on) := fun _ h => by cases h
theorem bootRecover (addr : Nat) : Statement (.bootRecover addr) := fun _ h => by cases h
theorem bootSvcset (n : Nat) : Statement (.bootSvcset n) := fun _ h => by cases h
theorem eccRegfile (core : Nat) (arr : Byte) (parts : List Nat) : Statement (.eccRegfile core arr parts) := fun _ h => by cases h
theorem patrolScrub (addr kind : Nat) : Statement (.patrolScrub addr kind) := fun _ h => by cases h
theorem mcCecntClear (c : Nat) : Statement (.mcCecntClear c) := fun _ h => by cases h
theorem mcUecntClear (c : Nat) : Statement (.mcUecntClear c) := fun _ h => by cases h
theorem hostAccess (hart : Nat) (write : Bool) (addr size : Nat) (data : DWord) : Statement (.hostAccess hart write addr size data) := fun _ h => by cases h
theorem hostCoherenceTimeout (addr size : Nat) : Statement (.hostCoherenceTimeout addr size) := fun _ h => by cases h
theorem linkUp (port : Nat) : Statement (.linkUp port) := fun _ h => by cases h
theorem linkDown (port : Nat) : Statement (.linkDown port) := fun _ h => by cases h
theorem ethFrameReceive (port : Nat) (frame : List Byte) (crcOk : Bool) : Statement (.ethFrameReceive port frame crcOk) := fun _ h => by cases h
theorem txRingPoll (p st : Nat) : Statement (.txRingPoll p st) := fun _ h => by cases h
theorem txFrameStart (p st : Nat) : Statement (.txFrameStart p st) := fun _ h => by cases h
theorem txFrameSent (port : Nat) : Statement (.txFrameSent port) := fun _ h => by cases h
theorem gateEntryChange (port : Nat) : Statement (.gateEntryChange port) := fun _ h => by cases h
theorem gctlSwap (port : Nat) (value : DWord) : Statement (.gctlSwap port value) := fun _ h => by cases h
theorem gateListSwap (port : Nat) : Statement (.gateListSwap port) := fun _ h => by cases h
theorem streamFilterClear (f word : Nat) : Statement (.streamFilterClear f word) := fun _ h => by cases h
theorem streamEntryWrite (p st word : Nat) (value : DWord) : Statement (.streamEntryWrite p st word value) := fun _ h => by cases h
theorem ethTimeWrite (value : DWord) : Statement (.ethTimeWrite value) := fun _ h => by cases h
theorem deviceTimeSync (ns : DWord) : Statement (.deviceTimeSync ns) := fun _ h => by cases h
theorem flipHndWrite (p o : Nat) (value : Word) : Statement (.flipHndWrite p o value) := fun _ h => by cases h
theorem flipOffWrite (p o : Nat) (value : DWord) : Statement (.flipOffWrite p o value) := fun _ h => by cases h
theorem displayVblank (o : Nat) : Statement (.displayVblank o) := fun _ h => by cases h
theorem scanoutRefresh (o : Nat) : Statement (.scanoutRefresh o) := fun _ h => by cases h
theorem dstatRead (o : Nat) : Statement (.dstatRead o) := fun _ h => by cases h
theorem registerWrite (addr : Nat) (value : DWord) : Statement (.registerWrite addr value) := fun _ h => by cases h
theorem claim : Statement (.claim) := fun _ h => by cases h
theorem activate : Statement (.activate) := fun _ h => by cases h
theorem retire : Statement (.retire) := fun _ h => by cases h
theorem reset : Statement (.reset) := fun _ h => by cases h
theorem release : Statement (.release) := fun _ h => by cases h
theorem setHandle : Statement (.setHandle) := fun _ h => by cases h
theorem revoke : Statement (.revoke) := fun _ h => by cases h
theorem setDesc : Statement (.setDesc) := fun _ h => by cases h
theorem setFrame : Statement (.setFrame) := fun _ h => by cases h
theorem attest : Statement (.attest) := fun _ h => by cases h
theorem tblStatRead : Statement (.tblStatRead) := fun _ h => by cases h
theorem qwrWrite (p q : Nat) (value : DWord) : Statement (.qwrWrite p q value) := fun _ h => by cases h
theorem qretryWrite (p q : Nat) : Statement (.qretryWrite p q) := fun _ h => by cases h
theorem qctlWrite (p q : Nat) (value : DWord) : Statement (.qctlWrite p q value) := fun _ h => by cases h
theorem mboxWrite (p m : Nat) : Statement (.mboxWrite p m) := fun _ h => by cases h
theorem apertureWake : Statement (.apertureWake) := fun _ h => by cases h
theorem gondolaTimer (core : Nat) : Statement (.gondolaTimer core) := fun _ h => by cases h
theorem nopPacket (p q : Nat) : Statement (.nopPacket p q) := fun _ h => by cases h
theorem launch (p q : Nat) : Statement (.launch p q) := fun _ h => by cases h
theorem launchComplete (id : Nat) : Statement (.launchComplete id) := fun _ h => by cases h
theorem signalStore (p q : Nat) : Statement (.signalStore p q) := fun _ h => by cases h
theorem signalAdd (p q : Nat) : Statement (.signalAdd p q) := fun _ h => by cases h
theorem wait (p q : Nat) : Statement (.wait p q) := fun _ h => by cases h
theorem waitReread (p q : Nat) : Statement (.waitReread p q) := fun _ h => by cases h
theorem copyPacket (p q : Nat) : Statement (.copyPacket p q) := fun _ h => by cases h
theorem copyPacketComplete (p q : Nat) : Statement (.copyPacketComplete p q) := fun _ h => by cases h
theorem replayByPage (p q : Nat) : Statement (.replayByPage p q) := fun _ h => by cases h
theorem replayByToken (p q : Nat) : Statement (.replayByToken p q) := fun _ h => by cases h
theorem envelopeLoad (p q : Nat) : Statement (.envelopeLoad p q) := fun _ h => by cases h
theorem envelopeDrop (p q : Nat) : Statement (.envelopeDrop p q) := fun _ h => by cases h
theorem envelopeDropComplete (p q : Nat) : Statement (.envelopeDropComplete p q) := fun _ h => by cases h
theorem pin (p q : Nat) : Statement (.pin p q) := fun _ h => by cases h
theorem unpin (p q : Nat) : Statement (.unpin p q) := fun _ h => by cases h
theorem fencePacket (p q : Nat) : Statement (.fencePacket p q) := fun _ h => by cases h
theorem timestamp (p q : Nat) : Statement (.timestamp p q) := fun _ h => by cases h
theorem tetherBind (p q : Nat) : Statement (.tetherBind p q) := fun _ h => by cases h
theorem tetherUnbind (p q : Nat) : Statement (.tetherUnbind p q) := fun _ h => by cases h
theorem mailboxHandlerLaunch (p m : Nat) : Statement (.mailboxHandlerLaunch p m) := fun _ h => by cases h
theorem rfetch (rd rs : BitVec 5) : Statement (.rfetch rd rs) := fun _ h => by cases h
theorem bfx (rd rs pos len1 : BitVec 5) : Statement (.bfx rd rs pos len1) := fun _ h => by cases h
theorem sigw (rd rs : BitVec 5) : Statement (.sigw rd rs) := fun _ h => by cases h
theorem dspt (rd rs : BitVec 5) : Statement (.dspt rd rs) := fun _ h => by cases h
theorem qpark (rs rt : BitVec 5) : Statement (.qpark rs rt) := fun _ h => by cases h
theorem qwake (rs : BitVec 5) : Statement (.qwake rs) := fun _ h => by cases h
theorem placeNeighbourhood : Statement (.placeNeighbourhood) := fun _ h => by cases h
theorem starvationPromote (c : Nat) : Statement (.starvationPromote c) := fun _ h => by cases h
theorem winchWindow (y : Nat) : Statement (.winchWindow y) := fun _ h => by cases h
theorem winchWrite (y : Nat) (value : DWord) : Statement (.winchWrite y value) := fun _ h => by cases h
theorem neighbourhoodStart (id : Nat) : Statement (.neighbourhoodStart id) := fun _ h => by cases h
theorem envelopeReload (core slot : Nat) : Statement (.envelopeReload core slot) := fun _ h => by cases h
theorem sliceOut (p : Nat) : Statement (.sliceOut p) := fun _ h => by cases h
theorem partitionSwitch (p : Nat) (scope : List Nat) : Statement (.partitionSwitch p scope) := fun _ h => by cases h
theorem runStart (team : Nat) : Statement (.runStart team) := fun _ h => by cases h
theorem forcedBoundary (team : Nat) : Statement (.forcedBoundary team) := fun _ h => by cases h
theorem teamRetire (team : Nat) : Statement (.teamRetire team) := fun _ h => by cases h
theorem teamWatchdog (team : Nat) : Statement (.teamWatchdog team) := fun _ h => by cases h
theorem l1WayAdjust (core : Nat) : Statement (.l1WayAdjust core) := fun _ h => by cases h
theorem storeDrain (team idx : Nat) : Statement (.storeDrain team idx) := fun _ h => by cases h
theorem loadPerform (team idx : Nat) : Statement (.loadPerform team idx) := fun _ h => by cases h
theorem atomicPerform (team idx : Nat) : Statement (.atomicPerform team idx) := fun _ h => by cases h
theorem l1Drop (core addr : Nat) : Statement (.l1Drop core addr) := fun _ h => by cases h
theorem registryRecall (addr : Nat) : Statement (.registryRecall addr) := fun _ h => by cases h
theorem rrelPerform (team idx : Nat) : Statement (.rrelPerform team idx) := fun _ h => by cases h
theorem staleTimeout (team : Nat) : Statement (.staleTimeout team) := fun _ h => by cases h
theorem faultBatchClose (core : Nat) : Statement (.faultBatchClose core) := fun _ h => by cases h
theorem faultRecordPost (p : Nat) : Statement (.faultRecordPost p) := fun _ h => by cases h
theorem parkLimitEvict (team : Nat) : Statement (.parkLimitEvict team) := fun _ h => by cases h
theorem evictedTeamReturn (p : Nat) : Statement (.evictedTeamReturn p) := fun _ h => by cases h
theorem engineParkEntryGrant (core queue : Nat) : Statement (.engineParkEntryGrant core queue) := fun _ h => by cases h
theorem enginePerform (core : Nat) : Statement (.enginePerform core) := fun _ h => by cases h
theorem copyCompletion (core : Nat) : Statement (.copyCompletion core) := fun _ h => by cases h
theorem wbldPerform (core : Nat) : Statement (.wbldPerform core) := fun _ h => by cases h
theorem wbgthPerform (core : Nat) : Statement (.wbgthPerform core) := fun _ h => by cases h
theorem bind (core slot : Nat) : Statement (.bind core slot) := fun _ h => by cases h
theorem regw (core slot : Nat) : Statement (.regw core slot) := fun _ h => by cases h
theorem texfBilinear (core slot : Nat) : Statement (.texfBilinear core slot) := fun _ h => by cases h
theorem texfTrilinear (core slot : Nat) : Statement (.texfTrilinear core slot) := fun _ h => by cases h
theorem texfAnisotropic (core slot : Nat) : Statement (.texfAnisotropic core slot) := fun _ h => by cases h
theorem rastTriangle (core slot : Nat) : Statement (.rastTriangle core slot) := fun _ h => by cases h
theorem rastPixelTeamOffer (core slot : Nat) : Statement (.rastPixelTeamOffer core slot) := fun _ h => by cases h
theorem travClosestHit (core slot : Nat) : Statement (.travClosestHit core slot) := fun _ h => by cases h
theorem travAnyHit (core slot : Nat) : Statement (.travAnyHit core slot) := fun _ h => by cases h
theorem travKeyLookup (core slot : Nat) : Statement (.travKeyLookup core slot) := fun _ h => by cases h
theorem splatComposite (core slot : Nat) : Statement (.splatComposite core slot) := fun _ h => by cases h
theorem blndBlend (core slot : Nat) : Statement (.blndBlend core slot) := fun _ h => by cases h
theorem blndResolve (core slot : Nat) : Statement (.blndResolve core slot) := fun _ h => by cases h
theorem titleRequest (core slot : Nat) : Statement (.titleRequest core slot) := fun _ h => by cases h
theorem islandEntryWrite (core slot : Nat) : Statement (.islandEntryWrite core slot) := fun _ h => by cases h
theorem islHang (core slot : Nat) : Statement (.islHang core slot) := fun _ h => by cases h
theorem waitwReread (team : Nat) : Statement (.waitwReread team) := fun _ h => by cases h
theorem waitTimeout (team : Nat) : Statement (.waitTimeout team) := fun _ h => by cases h
theorem smov32 (b : Bool) (d x : Spec) : Statement (.smov32 b d x) := fun _ h => legal_of 0 0x02 rfl rfl h
theorem smov64 (b : Bool) (g : Guard) (d : Spec) (x : Opd) : Statement (.smov64 b g d x) := fun _ h => legal_of 1 0x02 rfl rfl h
theorem sadd32 (b : Bool) (d y : Spec) : Statement (.sadd32 b d y) := fun _ h => legal_of 0 0x03 rfl rfl h
theorem sadd64 (b : Bool) (g : Guard) (d x y : Spec) : Statement (.sadd64 b g d x y) := fun _ h => legal_of 1 0x03 rfl rfl h
theorem ssub32 (b : Bool) (d y : Spec) : Statement (.ssub32 b d y) := fun _ h => legal_of 0 0x04 rfl rfl h
theorem ssub64 (b : Bool) (g : Guard) (d x y : Spec) : Statement (.ssub64 b g d x y) := fun _ h => legal_of 1 0x04 rfl rfl h
theorem smul32 (b : Bool) (d y : Spec) : Statement (.smul32 b d y) := fun _ h => legal_of 0 0x05 rfl rfl h
theorem smul64 (b : Bool) (g : Guard) (d x y : Spec) : Statement (.smul64 b g d x y) := fun _ h => legal_of 1 0x05 rfl rfl h
theorem smulh32 (b : Bool) (d y : Spec) : Statement (.smulh32 b d y) := fun _ h => legal_of 0 0x05 rfl rfl h
theorem smulh64 (b : Bool) (g : Guard) (d x y : Spec) : Statement (.smulh64 b g d x y) := fun _ h => legal_of 1 0x05 rfl rfl h
theorem smulhu32 (b : Bool) (d y : Spec) : Statement (.smulhu32 b d y) := fun _ h => legal_of 0 0x05 rfl rfl h
theorem smulhu64 (b : Bool) (g : Guard) (d x y : Spec) : Statement (.smulhu64 b g d x y) := fun _ h => legal_of 1 0x05 rfl rfl h
theorem sand32 (b : Bool) (d y : Spec) : Statement (.sand32 b d y) := fun _ h => legal_of 0 0x06 rfl rfl h
theorem sand64 (b : Bool) (g : Guard) (d x y : Spec) : Statement (.sand64 b g d x y) := fun _ h => legal_of 1 0x06 rfl rfl h
theorem sor32 (b : Bool) (d y : Spec) : Statement (.sor32 b d y) := fun _ h => legal_of 0 0x06 rfl rfl h
theorem sor64 (b : Bool) (g : Guard) (d x y : Spec) : Statement (.sor64 b g d x y) := fun _ h => legal_of 1 0x06 rfl rfl h
theorem sxor32 (b : Bool) (d y : Spec) : Statement (.sxor32 b d y) := fun _ h => legal_of 0 0x06 rfl rfl h
theorem sxor64 (b : Bool) (g : Guard) (d x y : Spec) : Statement (.sxor64 b g d x y) := fun _ h => legal_of 1 0x06 rfl rfl h
theorem sandn32 (b : Bool) (d y : Spec) : Statement (.sandn32 b d y) := fun _ h => legal_of 0 0x06 rfl rfl h
theorem sandn64 (b : Bool) (g : Guard) (d x y : Spec) : Statement (.sandn64 b g d x y) := fun _ h => legal_of 1 0x06 rfl rfl h
theorem snot32 (b : Bool) (d x : Spec) : Statement (.snot32 b d x) := fun _ h => legal_of 0 0x06 rfl rfl h
theorem snot64 (b : Bool) (g : Guard) (d x : Spec) : Statement (.snot64 b g d x) := fun _ h => legal_of 1 0x06 rfl rfl h
theorem sshl32 (b : Bool) (d y : Spec) : Statement (.sshl32 b d y) := fun _ h => legal_of 0 0x07 rfl rfl h
theorem sshl64 (b : Bool) (g : Guard) (d x y : Spec) : Statement (.sshl64 b g d x y) := fun _ h => legal_of 1 0x07 rfl rfl h
theorem sshr32 (b : Bool) (d y : Spec) : Statement (.sshr32 b d y) := fun _ h => legal_of 0 0x07 rfl rfl h
theorem sshr64 (b : Bool) (g : Guard) (d x y : Spec) : Statement (.sshr64 b g d x y) := fun _ h => legal_of 1 0x07 rfl rfl h
theorem ssar32 (b : Bool) (d y : Spec) : Statement (.ssar32 b d y) := fun _ h => legal_of 0 0x07 rfl rfl h
theorem ssar64 (b : Bool) (g : Guard) (d x y : Spec) : Statement (.ssar64 b g d x y) := fun _ h => legal_of 1 0x07 rfl rfl h
theorem smin32 (b : Bool) (d y : Spec) : Statement (.smin32 b d y) := fun _ h => legal_of 0 0x08 rfl rfl h
theorem smin64 (b : Bool) (g : Guard) (d x y : Spec) : Statement (.smin64 b g d x y) := fun _ h => legal_of 1 0x08 rfl rfl h
theorem smax32 (b : Bool) (d y : Spec) : Statement (.smax32 b d y) := fun _ h => legal_of 0 0x08 rfl rfl h
theorem smax64 (b : Bool) (g : Guard) (d x y : Spec) : Statement (.smax64 b g d x y) := fun _ h => legal_of 1 0x08 rfl rfl h
theorem sminu32 (b : Bool) (d y : Spec) : Statement (.sminu32 b d y) := fun _ h => legal_of 0 0x08 rfl rfl h
theorem sminu64 (b : Bool) (g : Guard) (d x y : Spec) : Statement (.sminu64 b g d x y) := fun _ h => legal_of 1 0x08 rfl rfl h
theorem smaxu32 (b : Bool) (d y : Spec) : Statement (.smaxu32 b d y) := fun _ h => legal_of 0 0x08 rfl rfl h
theorem smaxu64 (b : Bool) (g : Guard) (d x y : Spec) : Statement (.smaxu64 b g d x y) := fun _ h => legal_of 1 0x08 rfl rfl h
theorem scmp (b : Bool) (g : Guard) (cc d : BitVec 3) (x y : Spec) : Statement (.scmp b g cc d x y) := fun _ h => legal_of 1 0x09 rfl rfl h
theorem ssel (b : Bool) (g : Guard) (d x y : Spec) (c : BitVec 3) : Statement (.ssel b g d x y c) := fun _ h => legal_of 1 0x0A rfl rfl h
theorem sldcW32 (b : Bool) (g : Guard) (d x y : Spec) : Statement (.sldcW32 b g d x y) := fun _ h => legal_of 1 0x0B rfl rfl h
theorem sldcW64 (b : Bool) (g : Guard) (d x y : Spec) : Statement (.sldcW64 b g d x y) := fun _ h => legal_of 1 0x0B rfl rfl h
theorem sbfx32 (b : Bool) (d y : Spec) : Statement (.sbfx32 b d y) := fun _ h => legal_of 0 0x0C rfl rfl h
theorem sbfx64 (b : Bool) (g : Guard) (d x y : Spec) : Statement (.sbfx64 b g d x y) := fun _ h => legal_of 1 0x0C rfl rfl h
theorem sbfi (b : Bool) (g : Guard) (d x y z : Spec) : Statement (.sbfi b g d x y z) := fun _ h => legal_of 1 0x0C rfl rfl h
theorem spopc32 (b : Bool) (d x : Spec) : Statement (.spopc32 b d x) := fun _ h => legal_of 0 0x0C rfl rfl h
theorem spopc64 (b : Bool) (g : Guard) (d x : Spec) : Statement (.spopc64 b g d x) := fun _ h => legal_of 1 0x0C rfl rfl h
theorem sclz32 (b : Bool) (d x : Spec) : Statement (.sclz32 b d x) := fun _ h => legal_of 0 0x0C rfl rfl h
theorem sclz64 (b : Bool) (g : Guard) (d x : Spec) : Statement (.sclz64 b g d x) := fun _ h => legal_of 1 0x0C rfl rfl h
theorem qand32 (b : Bool) (d y : BitVec 3) : Statement (.qand32 b d y) := fun _ h => legal_of 0 0x0D rfl rfl h
theorem qand64 (b : Bool) (g : Guard) (d x y : BitVec 3) : Statement (.qand64 b g d x y) := fun _ h => legal_of 1 0x0D rfl rfl h
theorem qor32 (b : Bool) (d y : BitVec 3) : Statement (.qor32 b d y) := fun _ h => legal_of 0 0x0D rfl rfl h
theorem qor64 (b : Bool) (g : Guard) (d x y : BitVec 3) : Statement (.qor64 b g d x y) := fun _ h => legal_of 1 0x0D rfl rfl h
theorem qxor32 (b : Bool) (d y : BitVec 3) : Statement (.qxor32 b d y) := fun _ h => legal_of 0 0x0D rfl rfl h
theorem qxor64 (b : Bool) (g : Guard) (d x y : BitVec 3) : Statement (.qxor64 b g d x y) := fun _ h => legal_of 1 0x0D rfl rfl h
theorem qnot32 (b : Bool) (d x : BitVec 3) : Statement (.qnot32 b d x) := fun _ h => legal_of 0 0x0D rfl rfl h
theorem qnot64 (b : Bool) (g : Guard) (d x : BitVec 3) : Statement (.qnot64 b g d x) := fun _ h => legal_of 1 0x0D rfl rfl h
theorem amovS (b : Bool) (g : Guard) (d x : Spec) : Statement (.amovS b g d x) := fun _ h => legal_of 1 0x10 rfl rfl h
theorem amovImm (b : Bool) (g : Guard) (d n : Spec) : Statement (.amovImm b g d n) := fun _ h => legal_of 1 0x10 rfl rfl h
theorem amovLane (b : Bool) (d : Spec) : Statement (.amovLane b d) := fun _ h => legal_of 0 0x10 rfl rfl h
theorem amov32 (b : Bool) (d x : Spec) : Statement (.amov32 b d x) := fun _ h => legal_of 0 0x10 rfl rfl h
theorem amov64 (b : Bool) (g : Guard) (d x : Spec) : Statement (.amov64 b g d x) := fun _ h => legal_of 1 0x10 rfl rfl h
theorem aadd32 (b : Bool) (d y : Spec) : Statement (.aadd32 b d y) := fun _ h => legal_of 0 0x11 rfl rfl h
theorem aadd64 (b : Bool) (g : Guard) (d : Spec) (x y : Opd) : Statement (.aadd64 b g d x y) := fun _ h => legal_of 1 0x11 rfl rfl h
theorem asub32 (b : Bool) (d y : Spec) : Statement (.asub32 b d y) := fun _ h => legal_of 0 0x12 rfl rfl h
theorem asub64 (b : Bool) (g : Guard) (d : Spec) (x y : Opd) : Statement (.asub64 b g d x y) := fun _ h => legal_of 1 0x12 rfl rfl h
theorem amul (b : Bool) (g : Guard) (d x y : Spec) : Statement (.amul b g d x y) := fun _ h => legal_of 1 0x13 rfl rfl h
theorem ashl (b : Bool) (g : Guard) (d x y : Spec) : Statement (.ashl b g d x y) := fun _ h => legal_of 1 0x14 rfl rfl h
theorem proma (b : Bool) (g : Guard) (d x y : Spec) : Statement (.proma b g d x y) := fun _ h => legal_of 1 0x15 rfl rfl h
theorem promv (b : Bool) (g : Guard) (d y : Spec) : Statement (.promv b g d y) := fun _ h => legal_of 1 0x15 rfl rfl h
theorem promb (b : Bool) (g : Guard) (d y : Spec) : Statement (.promb b g d y) := fun _ h => legal_of 1 0x15 rfl rfl h
theorem promp (b : Bool) (g : Guard) (d x : BitVec 3) : Statement (.promp b g d x) := fun _ h => legal_of 1 0x15 rfl rfl h
theorem rdfirst (b : Bool) (g : Guard) (d x : Spec) : Statement (.rdfirst b g d x) := fun _ h => legal_of 1 0x16 rfl rfl h
theorem rdlast (b : Bool) (g : Guard) (d x : Spec) : Statement (.rdlast b g d x) := fun _ h => legal_of 1 0x16 rfl rfl h
theorem rdlane (b : Bool) (g : Guard) (d x y : Spec) : Statement (.rdlane b g d x y) := fun _ h => legal_of 1 0x16 rfl rfl h
theorem capnar (b : Bool) (g : Guard) (d x y z : Spec) : Statement (.capnar b g d x y z) := fun _ h => legal_of 1 0x17 rfl rfl h
theorem caprst (b : Bool) (g : Guard) (d x y : Spec) : Statement (.caprst b g d x y) := fun _ h => legal_of 1 0x17 rfl rfl h
theorem capqryBase (b : Bool) (g : Guard) (d x : Spec) : Statement (.capqryBase b g d x) := fun _ h => legal_of 1 0x17 rfl rfl h
theorem capqryLen (b : Bool) (g : Guard) (d x : Spec) : Statement (.capqryLen b g d x) := fun _ h => legal_of 1 0x17 rfl rfl h
theorem capqryRights (b : Bool) (g : Guard) (d x : Spec) : Statement (.capqryRights b g d x) := fun _ h => legal_of 1 0x17 rfl rfl h
theorem iadd32 (b : Bool) (d y : Spec) : Statement (.iadd32 b d y) := fun _ h => legal_of 0 0x18 rfl rfl h
theorem iadd64 (b : Bool) (g : Guard) (d : Spec) (x y : Opd) (m : BitVec 2) : Statement (.iadd64 b g d x y m) := fun _ h => legal_of 1 0x18 rfl rfl h
theorem isub32 (b : Bool) (d y : Spec) : Statement (.isub32 b d y) := fun _ h => legal_of 0 0x19 rfl rfl h
theorem isub64 (b : Bool) (g : Guard) (d : Spec) (x y : Opd) (m : BitVec 2) : Statement (.isub64 b g d x y m) := fun _ h => legal_of 1 0x19 rfl rfl h
theorem imul32 (b : Bool) (d y : Spec) : Statement (.imul32 b d y) := fun _ h => legal_of 0 0x1A rfl rfl h
theorem imul64 (b : Bool) (g : Guard) (d : Spec) (x y : Opd) (m : BitVec 2) : Statement (.imul64 b g d x y m) := fun _ h => legal_of 1 0x1A rfl rfl h
theorem imulh32 (b : Bool) (d y : Spec) : Statement (.imulh32 b d y) := fun _ h => legal_of 0 0x1A rfl rfl h
theorem imulh64 (b : Bool) (g : Guard) (d : Spec) (x y : Opd) : Statement (.imulh64 b g d x y) := fun _ h => legal_of 1 0x1A rfl rfl h
theorem imulhu32 (b : Bool) (d y : Spec) : Statement (.imulhu32 b d y) := fun _ h => legal_of 0 0x1A rfl rfl h
theorem imulhu64 (b : Bool) (g : Guard) (d : Spec) (x y : Opd) : Statement (.imulhu64 b g d x y) := fun _ h => legal_of 1 0x1A rfl rfl h
theorem imad (b : Bool) (g : Guard) (d : Spec) (x y : Opd) (z : Spec) (m : BitVec 2) : Statement (.imad b g d x y z m) := fun _ h => legal_of 1 0x1B rfl rfl h
theorem imin32 (b : Bool) (d y : Spec) : Statement (.imin32 b d y) := fun _ h => legal_of 0 0x1C rfl rfl h
theorem imin64 (b : Bool) (g : Guard) (d : Spec) (x y : Opd) : Statement (.imin64 b g d x y) := fun _ h => legal_of 1 0x1C rfl rfl h
theorem imax32 (b : Bool) (d y : Spec) : Statement (.imax32 b d y) := fun _ h => legal_of 0 0x1C rfl rfl h
theorem imax64 (b : Bool) (g : Guard) (d : Spec) (x y : Opd) : Statement (.imax64 b g d x y) := fun _ h => legal_of 1 0x1C rfl rfl h
theorem iminu32 (b : Bool) (d y : Spec) : Statement (.iminu32 b d y) := fun _ h => legal_of 0 0x1C rfl rfl h
theorem iminu64 (b : Bool) (g : Guard) (d : Spec) (x y : Opd) : Statement (.iminu64 b g d x y) := fun _ h => legal_of 1 0x1C rfl rfl h
theorem imaxu32 (b : Bool) (d y : Spec) : Statement (.imaxu32 b d y) := fun _ h => legal_of 0 0x1C rfl rfl h
theorem imaxu64 (b : Bool) (g : Guard) (d : Spec) (x y : Opd) : Statement (.imaxu64 b g d x y) := fun _ h => legal_of 1 0x1C rfl rfl h
theorem iand32 (b : Bool) (d y : Spec) : Statement (.iand32 b d y) := fun _ h => legal_of 0 0x1D rfl rfl h
theorem iand64 (b : Bool) (g : Guard) (d : Spec) (x y : Opd) : Statement (.iand64 b g d x y) := fun _ h => legal_of 1 0x1D rfl rfl h
theorem ior32 (b : Bool) (d y : Spec) : Statement (.ior32 b d y) := fun _ h => legal_of 0 0x1D rfl rfl h
theorem ior64 (b : Bool) (g : Guard) (d : Spec) (x y : Opd) : Statement (.ior64 b g d x y) := fun _ h => legal_of 1 0x1D rfl rfl h
theorem ixor32 (b : Bool) (d y : Spec) : Statement (.ixor32 b d y) := fun _ h => legal_of 0 0x1D rfl rfl h
theorem ixor64 (b : Bool) (g : Guard) (d : Spec) (x y : Opd) : Statement (.ixor64 b g d x y) := fun _ h => legal_of 1 0x1D rfl rfl h
theorem iandn32 (b : Bool) (d y : Spec) : Statement (.iandn32 b d y) := fun _ h => legal_of 0 0x1D rfl rfl h
theorem iandn64 (b : Bool) (g : Guard) (d : Spec) (x y : Opd) : Statement (.iandn64 b g d x y) := fun _ h => legal_of 1 0x1D rfl rfl h
theorem inot32 (b : Bool) (d x : Spec) : Statement (.inot32 b d x) := fun _ h => legal_of 0 0x1D rfl rfl h
theorem inot64 (b : Bool) (g : Guard) (d : Spec) (x : Opd) : Statement (.inot64 b g d x) := fun _ h => legal_of 1 0x1D rfl rfl h
theorem ishl32 (b : Bool) (d y : Spec) : Statement (.ishl32 b d y) := fun _ h => legal_of 0 0x1E rfl rfl h
theorem ishl64 (b : Bool) (g : Guard) (d : Spec) (x y : Opd) : Statement (.ishl64 b g d x y) := fun _ h => legal_of 1 0x1E rfl rfl h
theorem ishr32 (b : Bool) (d y : Spec) : Statement (.ishr32 b d y) := fun _ h => legal_of 0 0x1E rfl rfl h
theorem ishr64 (b : Bool) (g : Guard) (d : Spec) (x y : Opd) : Statement (.ishr64 b g d x y) := fun _ h => legal_of 1 0x1E rfl rfl h
theorem isar32 (b : Bool) (d y : Spec) : Statement (.isar32 b d y) := fun _ h => legal_of 0 0x1E rfl rfl h
theorem isar64 (b : Bool) (g : Guard) (d : Spec) (x y : Opd) : Statement (.isar64 b g d x y) := fun _ h => legal_of 1 0x1E rfl rfl h
theorem irot32 (b : Bool) (d y : Spec) : Statement (.irot32 b d y) := fun _ h => legal_of 0 0x1E rfl rfl h
theorem irot64 (b : Bool) (g : Guard) (d : Spec) (x y : Opd) : Statement (.irot64 b g d x y) := fun _ h => legal_of 1 0x1E rfl rfl h
theorem ibfx32 (b : Bool) (d y : Spec) : Statement (.ibfx32 b d y) := fun _ h => legal_of 0 0x1F rfl rfl h
theorem ibfx64 (b : Bool) (g : Guard) (d : Spec) (x y : Opd) : Statement (.ibfx64 b g d x y) := fun _ h => legal_of 1 0x1F rfl rfl h
theorem ibfxu32 (b : Bool) (d y : Spec) : Statement (.ibfxu32 b d y) := fun _ h => legal_of 0 0x1F rfl rfl h
theorem ibfxu64 (b : Bool) (g : Guard) (d : Spec) (x y : Opd) : Statement (.ibfxu64 b g d x y) := fun _ h => legal_of 1 0x1F rfl rfl h
theorem ibfi (b : Bool) (g : Guard) (d : Spec) (x y : Opd) (z : Spec) : Statement (.ibfi b g d x y z) := fun _ h => legal_of 1 0x1F rfl rfl h
theorem ipopc32 (b : Bool) (d x : Spec) : Statement (.ipopc32 b d x) := fun _ h => legal_of 0 0x1F rfl rfl h
theorem ipopc64 (b : Bool) (g : Guard) (d : Spec) (x : Opd) : Statement (.ipopc64 b g d x) := fun _ h => legal_of 1 0x1F rfl rfl h
theorem iclz32 (b : Bool) (d x : Spec) : Statement (.iclz32 b d x) := fun _ h => legal_of 0 0x1F rfl rfl h
theorem iclz64 (b : Bool) (g : Guard) (d : Spec) (x : Opd) : Statement (.iclz64 b g d x) := fun _ h => legal_of 1 0x1F rfl rfl h
theorem ibrev32 (b : Bool) (d x : Spec) : Statement (.ibrev32 b d x) := fun _ h => legal_of 0 0x1F rfl rfl h
theorem ibrev64 (b : Bool) (g : Guard) (d : Spec) (x : Opd) : Statement (.ibrev64 b g d x) := fun _ h => legal_of 1 0x1F rfl rfl h
theorem iaddc (b : Bool) (g : Guard) (d : Spec) (x y : Opd) (pi po : BitVec 3) : Statement (.iaddc b g d x y pi po) := fun _ h => legal_of 2 0x20 rfl rfl h
theorem isubb (b : Bool) (g : Guard) (d : Spec) (x y : Opd) (pi po : BitVec 3) : Statement (.isubb b g d x y pi po) := fun _ h => legal_of 2 0x21 rfl rfl h
theorem isetp (b : Bool) (g : Guard) (cc d : BitVec 3) (x y : Opd) : Statement (.isetp b g cc d x y) := fun _ h => legal_of 1 0x22 rfl rfl h
theorem isel (b : Bool) (g : Guard) (d : Spec) (x y : Opd) (c : BitVec 3) : Statement (.isel b g d x y c) := fun _ h => legal_of 1 0x23 rfl rfl h
theorem imov32 (b : Bool) (d x : Spec) : Statement (.imov32 b d x) := fun _ h => legal_of 0 0x24 rfl rfl h
theorem imov64 (b : Bool) (g : Guard) (d : Spec) (x : Opd) : Statement (.imov64 b g d x) := fun _ h => legal_of 1 0x24 rfl rfl h
theorem iabs32 (b : Bool) (d x : Spec) : Statement (.iabs32 b d x) := fun _ h => legal_of 0 0x25 rfl rfl h
theorem iabs64 (b : Bool) (g : Guard) (d x : Spec) (m : BitVec 2) : Statement (.iabs64 b g d x m) := fun _ h => legal_of 1 0x25 rfl rfl h
theorem ineg32 (b : Bool) (d x : Spec) : Statement (.ineg32 b d x) := fun _ h => legal_of 0 0x25 rfl rfl h
theorem ineg64 (b : Bool) (g : Guard) (d x : Spec) (m : BitVec 2) : Statement (.ineg64 b g d x m) := fun _ h => legal_of 1 0x25 rfl rfl h
theorem idp4 (b : Bool) (g : Guard) (d : Spec) (x y : Opd) (z : Spec) (m : BitVec 2) : Statement (.idp4 b g d x y z m) := fun _ h => legal_of 1 0x26 rfl rfl h
theorem iprmt (b : Bool) (g : Guard) (d : Spec) (x y : Opd) (z : Spec) : Statement (.iprmt b g d x y z) := fun _ h => legal_of 1 0x27 rfl rfl h
theorem isad (b : Bool) (g : Guard) (d : Spec) (x y : Opd) (z : Spec) (u : Bool) : Statement (.isad b g d x y z u) := fun _ h => legal_of 1 0x28 rfl rfl h
theorem nop32 (b : Bool) : Statement (.nop32 b) := fun _ h => legal_of 0 0x01 rfl rfl h
theorem nop64 (b : Bool) (g : Guard) : Statement (.nop64 b g) := fun _ h => legal_of 1 0x01 rfl rfl h
theorem nop96 (b : Bool) (g : Guard) : Statement (.nop96 b g) := fun _ h => legal_of 2 0x01 rfl rfl h
theorem pand32 (b : Bool) (d y : BitVec 3) : Statement (.pand32 b d y) := fun _ h => legal_of 0 0x30 rfl rfl h
theorem pand64 (b : Bool) (g : Guard) (d x y : BitVec 3) : Statement (.pand64 b g d x y) := fun _ h => legal_of 1 0x30 rfl rfl h
theorem por32 (b : Bool) (d y : BitVec 3) : Statement (.por32 b d y) := fun _ h => legal_of 0 0x30 rfl rfl h
theorem por64 (b : Bool) (g : Guard) (d x y : BitVec 3) : Statement (.por64 b g d x y) := fun _ h => legal_of 1 0x30 rfl rfl h
theorem pxor32 (b : Bool) (d y : BitVec 3) : Statement (.pxor32 b d y) := fun _ h => legal_of 0 0x30 rfl rfl h
theorem pxor64 (b : Bool) (g : Guard) (d x y : BitVec 3) : Statement (.pxor64 b g d x y) := fun _ h => legal_of 1 0x30 rfl rfl h
theorem pandn32 (b : Bool) (d y : BitVec 3) : Statement (.pandn32 b d y) := fun _ h => legal_of 0 0x30 rfl rfl h
theorem pandn64 (b : Bool) (g : Guard) (d x y : BitVec 3) : Statement (.pandn64 b g d x y) := fun _ h => legal_of 1 0x30 rfl rfl h
theorem pnot32 (b : Bool) (d x : BitVec 3) : Statement (.pnot32 b d x) := fun _ h => legal_of 0 0x30 rfl rfl h
theorem pnot64 (b : Bool) (g : Guard) (d x : BitVec 3) : Statement (.pnot64 b g d x) := fun _ h => legal_of 1 0x30 rfl rfl h
theorem pmov32 (b : Bool) (d x : BitVec 3) : Statement (.pmov32 b d x) := fun _ h => legal_of 0 0x31 rfl rfl h
theorem pmov64 (b : Bool) (g : Guard) (d x : BitVec 3) : Statement (.pmov64 b g d x) := fun _ h => legal_of 1 0x31 rfl rfl h
theorem pmovBit (b : Bool) (g : Guard) (d : BitVec 3) (x y : Opd) : Statement (.pmovBit b g d x y) := fun _ h => legal_of 1 0x31 rfl rfl h
theorem pmovQ (b : Bool) (g : Guard) (d x : BitVec 3) : Statement (.pmovQ b g d x) := fun _ h => legal_of 1 0x31 rfl rfl h
theorem pmovHelp32 (b : Bool) (d : BitVec 3) : Statement (.pmovHelp32 b d) := fun _ h => legal_of 0 0x31 rfl rfl h
theorem pmovHelp64 (b : Bool) (g : Guard) (d : BitVec 3) : Statement (.pmovHelp64 b g d) := fun _ h => legal_of 1 0x31 rfl rfl h
theorem voteAll (b : Bool) (g : Guard) (d x : BitVec 3) : Statement (.voteAll b g d x) := fun _ h => legal_of 1 0x32 rfl rfl h
theorem voteAny (b : Bool) (g : Guard) (d x : BitVec 3) : Statement (.voteAny b g d x) := fun _ h => legal_of 1 0x32 rfl rfl h
theorem voteBal (b : Bool) (g : Guard) (d : Spec) (x : BitVec 3) (y : Spec) : Statement (.voteBal b g d x y) := fun _ h => legal_of 1 0x32 rfl rfl h
theorem voteCnt (b : Bool) (g : Guard) (d : Spec) (x : BitVec 3) : Statement (.voteCnt b g d x) := fun _ h => legal_of 1 0x32 rfl rfl h
theorem shflIdx (b : Bool) (g : Guard) (d : Spec) (x y : Opd) : Statement (.shflIdx b g d x y) := fun _ h => legal_of 1 0x33 rfl rfl h
theorem shflUp (b : Bool) (g : Guard) (d : Spec) (x y : Opd) : Statement (.shflUp b g d x y) := fun _ h => legal_of 1 0x33 rfl rfl h
theorem shflDn (b : Bool) (g : Guard) (d : Spec) (x y : Opd) : Statement (.shflDn b g d x y) := fun _ h => legal_of 1 0x33 rfl rfl h
theorem shflXor (b : Bool) (g : Guard) (d : Spec) (x y : Opd) : Statement (.shflXor b g d x y) := fun _ h => legal_of 1 0x33 rfl rfl h
theorem shflQx (b : Bool) (g : Guard) (d x : Spec) : Statement (.shflQx b g d x) := fun _ h => legal_of 1 0x33 rfl rfl h
theorem shflQy (b : Bool) (g : Guard) (d x : Spec) : Statement (.shflQy b g d x) := fun _ h => legal_of 1 0x33 rfl rfl h
theorem redx (b : Bool) (g : Guard) (o : BitVec 3) (d x : Spec) : Statement (.redx b g o d x) := fun _ h => legal_of 1 0x34 rfl rfl h
theorem scan (b : Bool) (g : Guard) (o : BitVec 3) (d x : Spec) (excl : Bool) : Statement (.scan b g o d x excl) := fun _ h => legal_of 1 0x35 rfl rfl h
theorem barr (b : Bool) (o : BitVec 3) (d : Spec) (x : Opd) (span : Spec) : Statement (.barr b o d x span) := fun _ h => legal_of 2 0x36 rfl rfl h
theorem bra (b : Bool) (disp : BitVec 22) : Statement (.bra b disp) := fun _ h => legal_of 0 0x50 rfl rfl h
theorem brx (b : Bool) (pd : PTerm) (taken join : BitVec 22) : Statement (.brx b pd taken join) := fun _ h => legal_of 2 0x51 rfl rfl h
theorem join (b : Bool) : Statement (.join b) := fun _ h => legal_of 0 0x52 rfl rfl h
theorem loop (b : Bool) (disp : BitVec 22) : Statement (.loop b disp) := fun _ h => legal_of 0 0x53 rfl rfl h
theorem brk32 (b : Bool) : Statement (.brk32 b) := fun _ h => legal_of 0 0x54 rfl rfl h
theorem brk64 (b : Bool) (g : Guard) : Statement (.brk64 b g) := fun _ h => legal_of 1 0x54 rfl rfl h
theorem cont32 (b : Bool) : Statement (.cont32 b) := fun _ h => legal_of 0 0x54 rfl rfl h
theorem cont64 (b : Bool) (g : Guard) : Statement (.cont64 b g) := fun _ h => legal_of 1 0x54 rfl rfl h
theorem callDisp (b : Bool) (disp : BitVec 22) : Statement (.callDisp b disp) := fun _ h => legal_of 0 0x55 rfl rfl h
theorem callReg (b : Bool) (x : Spec) : Statement (.callReg b x) := fun _ h => legal_of 1 0x55 rfl rfl h
theorem ret (b : Bool) : Statement (.ret b) := fun _ h => legal_of 0 0x56 rfl rfl h
theorem exit32 (b : Bool) : Statement (.exit32 b) := fun _ h => legal_of 0 0x57 rfl rfl h
theorem exit64 (b : Bool) (g : Guard) : Statement (.exit64 b g) := fun _ h => legal_of 1 0x57 rfl rfl h
theorem yield (b : Bool) : Statement (.yield b) := fun _ h => legal_of 0 0x58 rfl rfl h
theorem trap32 (b : Bool) : Statement (.trap32 b) := fun _ h => legal_of 0 0x59 rfl rfl h
theorem trap64 (b : Bool) (g : Guard) (n : Spec) : Statement (.trap64 b g n) := fun _ h => legal_of 1 0x59 rfl rfl h
theorem bkpt32 (b : Bool) : Statement (.bkpt32 b) := fun _ h => legal_of 0 0x59 rfl rfl h
theorem bkpt64 (b : Bool) (g : Guard) (n : Spec) : Statement (.bkpt64 b g n) := fun _ h => legal_of 1 0x59 rfl rfl h
theorem sread32 (b : Bool) (d n : Spec) : Statement (.sread32 b d n) := fun _ h => legal_of 0 0x5A rfl rfl h
theorem sread64 (b : Bool) (g : Guard) (d n : Spec) : Statement (.sread64 b g d n) := fun _ h => legal_of 1 0x5A rfl rfl h
theorem swrite32 (b : Bool) (n x : Spec) : Statement (.swrite32 b n x) := fun _ h => legal_of 0 0x5A rfl rfl h
theorem swrite64 (b : Bool) (g : Guard) (n x : Spec) : Statement (.swrite64 b g n x) := fun _ h => legal_of 1 0x5A rfl rfl h
theorem fadd32 (b : Bool) (d y : Spec) : Statement (.fadd32 b d y) := fun _ h => legal_of 0 0x38 rfl rfl h
theorem fadd64 (b : Bool) (g : Guard) (d : Spec) (x y : Opd) (m : BitVec 2) : Statement (.fadd64 b g d x y m) := fun _ h => legal_of 1 0x38 rfl rfl h
theorem fsub32 (b : Bool) (d y : Spec) : Statement (.fsub32 b d y) := fun _ h => legal_of 0 0x39 rfl rfl h
theorem fsub64 (b : Bool) (g : Guard) (d : Spec) (x y : Opd) (m : BitVec 2) : Statement (.fsub64 b g d x y m) := fun _ h => legal_of 1 0x39 rfl rfl h
theorem fmul32 (b : Bool) (d y : Spec) : Statement (.fmul32 b d y) := fun _ h => legal_of 0 0x3A rfl rfl h
theorem fmul64 (b : Bool) (g : Guard) (d : Spec) (x y : Opd) (m : BitVec 2) : Statement (.fmul64 b g d x y m) := fun _ h => legal_of 1 0x3A rfl rfl h
theorem ffma (b : Bool) (g : Guard) (d : Spec) (x y : Opd) (z : Spec) (m : BitVec 2) : Statement (.ffma b g d x y z m) := fun _ h => legal_of 1 0x3B rfl rfl h
theorem fmin32 (b : Bool) (d y : Spec) : Statement (.fmin32 b d y) := fun _ h => legal_of 0 0x3C rfl rfl h
theorem fmin64 (b : Bool) (g : Guard) (d : Spec) (x y : Opd) : Statement (.fmin64 b g d x y) := fun _ h => legal_of 1 0x3C rfl rfl h
theorem fmax32 (b : Bool) (d y : Spec) : Statement (.fmax32 b d y) := fun _ h => legal_of 0 0x3C rfl rfl h
theorem fmax64 (b : Bool) (g : Guard) (d : Spec) (x y : Opd) : Statement (.fmax64 b g d x y) := fun _ h => legal_of 1 0x3C rfl rfl h
theorem fabs32 (b : Bool) (d x : Spec) : Statement (.fabs32 b d x) := fun _ h => legal_of 0 0x3D rfl rfl h
theorem fabs64 (b : Bool) (g : Guard) (d x : Spec) : Statement (.fabs64 b g d x) := fun _ h => legal_of 1 0x3D rfl rfl h
theorem fneg32 (b : Bool) (d x : Spec) : Statement (.fneg32 b d x) := fun _ h => legal_of 0 0x3D rfl rfl h
theorem fneg64 (b : Bool) (g : Guard) (d x : Spec) : Statement (.fneg64 b g d x) := fun _ h => legal_of 1 0x3D rfl rfl h
theorem fcpsgn32 (b : Bool) (d y : Spec) : Statement (.fcpsgn32 b d y) := fun _ h => legal_of 0 0x3D rfl rfl h
theorem fcpsgn64 (b : Bool) (g : Guard) (d : Spec) (x y : Opd) : Statement (.fcpsgn64 b g d x y) := fun _ h => legal_of 1 0x3D rfl rfl h
theorem fsetp (b : Bool) (g : Guard) (cc d : BitVec 3) (x y : Opd) : Statement (.fsetp b g cc d x y) := fun _ h => legal_of 1 0x3E rfl rfl h
theorem frnd32 (b : Bool) (d x : Spec) : Statement (.frnd32 b d x) := fun _ h => legal_of 0 0x3F rfl rfl h
theorem frnd64 (b : Bool) (g : Guard) (d x : Spec) (m : BitVec 2) : Statement (.frnd64 b g d x m) := fun _ h => legal_of 1 0x3F rfl rfl h
theorem fclass32 (b : Bool) (d x : Spec) : Statement (.fclass32 b d x) := fun _ h => legal_of 0 0x40 rfl rfl h
theorem fclass64 (b : Bool) (g : Guard) (d x : Spec) : Statement (.fclass64 b g d x) := fun _ h => legal_of 1 0x40 rfl rfl h
theorem fscl32 (b : Bool) (d y : Spec) : Statement (.fscl32 b d y) := fun _ h => legal_of 0 0x41 rfl rfl h
theorem fscl64 (b : Bool) (g : Guard) (d : Spec) (x y : Opd) (m : BitVec 2) : Statement (.fscl64 b g d x y m) := fun _ h => legal_of 1 0x41 rfl rfl h
theorem hadd232 (b : Bool) (d y : Spec) : Statement (.hadd232 b d y) := fun _ h => legal_of 0 0x42 rfl rfl h
theorem hadd264 (b : Bool) (g : Guard) (d : Spec) (x y : Opd) (m : BitVec 2) : Statement (.hadd264 b g d x y m) := fun _ h => legal_of 1 0x42 rfl rfl h
theorem hmul232 (b : Bool) (d y : Spec) : Statement (.hmul232 b d y) := fun _ h => legal_of 0 0x43 rfl rfl h
theorem hmul264 (b : Bool) (g : Guard) (d : Spec) (x y : Opd) (m : BitVec 2) : Statement (.hmul264 b g d x y m) := fun _ h => legal_of 1 0x43 rfl rfl h
theorem hfma2 (b : Bool) (g : Guard) (d : Spec) (x y : Opd) (z : Spec) (m : BitVec 2) : Statement (.hfma2 b g d x y z m) := fun _ h => legal_of 1 0x44 rfl rfl h
theorem frcp32 (b : Bool) (d x : Spec) : Statement (.frcp32 b d x) := fun _ h => legal_of 0 0x46 rfl rfl h
theorem frcp64 (b : Bool) (g : Guard) (d x : Spec) (m : BitVec 2) : Statement (.frcp64 b g d x m) := fun _ h => legal_of 1 0x46 rfl rfl h
theorem frsq32 (b : Bool) (d x : Spec) : Statement (.frsq32 b d x) := fun _ h => legal_of 0 0x47 rfl rfl h
theorem frsq64 (b : Bool) (g : Guard) (d x : Spec) (m : BitVec 2) : Statement (.frsq64 b g d x m) := fun _ h => legal_of 1 0x47 rfl rfl h
theorem fsqrt32 (b : Bool) (d x : Spec) : Statement (.fsqrt32 b d x) := fun _ h => legal_of 0 0x48 rfl rfl h
theorem fsqrt64 (b : Bool) (g : Guard) (d x : Spec) (m : BitVec 2) : Statement (.fsqrt64 b g d x m) := fun _ h => legal_of 1 0x48 rfl rfl h
theorem fexp232 (b : Bool) (d x : Spec) : Statement (.fexp232 b d x) := fun _ h => legal_of 0 0x49 rfl rfl h
theorem fexp264 (b : Bool) (g : Guard) (d x : Spec) : Statement (.fexp264 b g d x) := fun _ h => legal_of 1 0x49 rfl rfl h
theorem flog232 (b : Bool) (d x : Spec) : Statement (.flog232 b d x) := fun _ h => legal_of 0 0x4A rfl rfl h
theorem flog264 (b : Bool) (g : Guard) (d x : Spec) : Statement (.flog264 b g d x) := fun _ h => legal_of 1 0x4A rfl rfl h
theorem fsin32 (b : Bool) (d x : Spec) : Statement (.fsin32 b d x) := fun _ h => legal_of 0 0x4B rfl rfl h
theorem fsin64 (b : Bool) (g : Guard) (d x : Spec) : Statement (.fsin64 b g d x) := fun _ h => legal_of 1 0x4B rfl rfl h
theorem fcos32 (b : Bool) (d x : Spec) : Statement (.fcos32 b d x) := fun _ h => legal_of 0 0x4B rfl rfl h
theorem fcos64 (b : Bool) (g : Guard) (d x : Spec) : Statement (.fcos64 b g d x) := fun _ h => legal_of 1 0x4B rfl rfl h
theorem frandU3232 (b : Bool) (d : Spec) : Statement (.frandU3232 b d) := fun _ h => legal_of 0 0x4C rfl rfl h
theorem frandU3264 (b : Bool) (g : Guard) (d : Spec) : Statement (.frandU3264 b g d) := fun _ h => legal_of 1 0x4C rfl rfl h
theorem frandF3232 (b : Bool) (d : Spec) : Statement (.frandF3232 b d) := fun _ h => legal_of 0 0x4C rfl rfl h
theorem frandF3264 (b : Bool) (g : Guard) (d : Spec) : Statement (.frandF3264 b g d) := fun _ h => legal_of 1 0x4C rfl rfl h
theorem cvt (b : Bool) (g : Guard) (d x pair : Spec) (m : BitVec 2) : Statement (.cvt b g d x pair m) := fun _ h => legal_of 1 0x4D rfl rfl h
theorem cvtpPack (b : Bool) (g : Guard) (d x y : Spec) (el : BitVec 4) (m : BitVec 2) : Statement (.cvtpPack b g d x y el m) := fun _ h => legal_of 1 0x4E rfl rfl h
theorem cvtpPacksr (b : Bool) (g : Guard) (d x y : Spec) (el : BitVec 4) : Statement (.cvtpPacksr b g d x y el) := fun _ h => legal_of 1 0x4E rfl rfl h
theorem cvtpUnpack (b : Bool) (g : Guard) (d x : Spec) (j : BitVec 2) (el : BitVec 4) : Statement (.cvtpUnpack b g d x j el) := fun _ h => legal_of 1 0x4E rfl rfl h
theorem ld (b : Bool) (g : Guard) (wd : BitVec 3) (d : Spec) (off : Opd) (c : Spec) (n : Byte) (rq h : BitVec 2) : Statement (.ld b g wd d off c n rq h) := fun _ h => legal_of 1 0x5C rfl rfl h
theorem st (b : Bool) (g : Guard) (wd : BitVec 3) (d : Spec) (off : Opd) (c : Spec) (n : Byte) (rq h : BitVec 2) : Statement (.st b g wd d off c n rq h) := fun _ h => legal_of 1 0x5D rfl rfl h
theorem ldb (b : Bool) (g : Guard) (wd : BitVec 3) (d : Spec) (off : Opd) (c n : Spec) (h m : BitVec 2) : Statement (.ldb b g wd d off c n h m) := fun _ h => legal_of 1 0x5E rfl rfl h
theorem lds (b : Bool) (g : Guard) (wd : BitVec 3) (d : Spec) (off : Opd) (n : Byte) (win : Bool) : Statement (.lds b g wd d off n win) := fun _ h => legal_of 1 0x5F rfl rfl h
theorem sts (b : Bool) (g : Guard) (wd : BitVec 3) (d : Spec) (off : Opd) (n : Byte) (win : Bool) : Statement (.sts b g wd d off n win) := fun _ h => legal_of 1 0x60 rfl rfl h
theorem atom (b : Bool) (g : Guard) (wd : BitVec 3) (d : Spec) (off : Opd) (c : Spec) (n : Byte) (loc : Bool) (h m : BitVec 2) (y z o : Spec) : Statement (.atom b g wd d off c n loc h m y z o) := fun _ h => legal_of 2 0x61 rfl rfl h
theorem red (b : Bool) (g : Guard) (wd : BitVec 3) (off : Opd) (c : Spec) (n : Byte) (loc : Bool) (h : BitVec 2) (rel : Bool) (y o : Spec) : Statement (.red b g wd off c n loc h rel y o) := fun _ h => legal_of 2 0x62 rfl rfl h
theorem atoms (b : Bool) (g : Guard) (wd : BitVec 3) (d : Spec) (off : Opd) (n : Byte) (win : Bool) (m : BitVec 2) (y z o : Spec) : Statement (.atoms b g wd d off n win m y z o) := fun _ h => legal_of 2 0x66 rfl rfl h
theorem fenceAcq (b : Bool) : Statement (.fenceAcq b) := fun _ h => legal_of 0 0x63 rfl rfl h
theorem fenceRel (b : Bool) : Statement (.fenceRel b) := fun _ h => legal_of 0 0x63 rfl rfl h
theorem fenceAr (b : Bool) : Statement (.fenceAr b) := fun _ h => legal_of 0 0x63 rfl rfl h
theorem rrel32 (b : Bool) (c : Spec) : Statement (.rrel32 b c) := fun _ h => legal_of 0 0x64 rfl rfl h
theorem rrel64 (b : Bool) (g : Guard) (c : Spec) : Statement (.rrel64 b g c) := fun _ h => legal_of 1 0x64 rfl rfl h
theorem invr (b : Bool) (g : Guard) (x c y : Spec) : Statement (.invr b g x c y) := fun _ h => legal_of 1 0x65 rfl rfl h
theorem wbr (b : Bool) (g : Guard) (x c y : Spec) : Statement (.wbr b g x c y) := fun _ h => legal_of 1 0x65 rfl rfl h
theorem flr (b : Bool) (g : Guard) (x c y : Spec) : Statement (.flr b g x c y) := fun _ h => legal_of 1 0x65 rfl rfl h
theorem pref (b : Bool) (g : Guard) (x c y : Spec) (h : BitVec 2) : Statement (.pref b g x c y h) := fun _ h => legal_of 1 0x65 rfl rfl h
theorem cpy (b : Bool) (g : Guard) (off : Opd) (sc cnt : Spec) (h z : BitVec 2) (dof dc : Spec) (cwc : BitVec 4) (cw : Bool) (tag : BitVec 3) (dcls : BitVec 2) (ssp dsp win : Bool) : Statement (.cpy b g off sc cnt h z dof dc cwc cw tag dcls ssp dsp win) := fun _ h => legal_of 2 0x68 rfl rfl h
theorem cpyt (b : Bool) (g : Guard) (sd sp sc : Spec) (h : BitVec 2) (dc cwc : Spec) (ssp dsp cw : Bool) (tag : BitVec 3) : Statement (.cpyt b g sd sp sc h dc cwc ssp dsp cw tag) := fun _ h => legal_of 2 0x69 rfl rfl h
theorem cpymMc (b : Bool) (g : Guard) (off dat : Opd) (k : Spec) (h : BitVec 2) (cw : Bool) (cwc : Spec) (tag : BitVec 3) (dsp : Bool) (span : Spec) : Statement (.cpymMc b g off dat k h cw cwc tag dsp span) := fun _ h => legal_of 2 0x6A rfl rfl h
theorem cpymRd (b : Bool) (g : Guard) (off dat : Opd) (k : Spec) (h : BitVec 2) (cw : Bool) (cwc : Spec) (tag : BitVec 3) (dsp : Bool) (o : BitVec 4) (span : Spec) : Statement (.cpymRd b g off dat k h cw cwc tag dsp o span) := fun _ h => legal_of 2 0x6A rfl rfl h
theorem waitt32 (b : Bool) (mask : Spec) : Statement (.waitt32 b mask) := fun _ h => legal_of 0 0x6B rfl rfl h
theorem waitt64 (b : Bool) (g : Guard) (mask : Spec) : Statement (.waitt64 b g mask) := fun _ h => legal_of 1 0x6B rfl rfl h
theorem waitw (b : Bool) (g : Guard) (x y c : Spec) (m : BitVec 2) : Statement (.waitw b g x y c m) := fun _ h => legal_of 1 0x6C rfl rfl h
theorem notify (b : Bool) (g : Guard) (x y c : Spec) : Statement (.notify b g x y c) := fun _ h => legal_of 1 0x6D rfl rfl h
theorem notifySt (b : Bool) (g : Guard) (x y c : Spec) : Statement (.notifySt b g x y c) := fun _ h => legal_of 1 0x6D rfl rfl h
theorem qfence (b : Bool) (set : BitVec 4) : Statement (.qfence b set) := fun _ h => legal_of 0 0x6E rfl rfl h
theorem isend (b : Bool) (g : Guard) (w0 w1 w2 : Spec) (h : BitVec 2) (w3 w4 : Spec) (ks : BitVec 2) (ld cls : BitVec 3) (slot : Bool) (tag : BitVec 3) (cn : BitVec 4) : Statement (.isend b g w0 w1 w2 h w3 w4 ks ld cls slot tag cn) := fun _ h => legal_of 2 0x6F rfl rfl h
theorem isendSync (b : Bool) (g : Guard) (w0 w1 w2 : Spec) (h : BitVec 2) (w3 w4 : Spec) (ks : BitVec 2) (ld cls : BitVec 3) (slot : Bool) (tag : BitVec 3) (cn : BitVec 4) : Statement (.isendSync b g w0 w1 w2 h w3 w4 ks ld cls slot tag cn) := fun _ h => legal_of 2 0x6F rfl rfl h
theorem lstat32 (b : Bool) (d x : Spec) : Statement (.lstat32 b d x) := fun _ h => legal_of 0 0x70 rfl rfl h
theorem lstat64 (b : Bool) (g : Guard) (d x : Spec) : Statement (.lstat64 b g d x) := fun _ h => legal_of 1 0x70 rfl rfl h
theorem tricls (b : Bool) (g : Guard) (d : BitVec 3) (x : Spec) (cull : BitVec 2) (pe : BitVec 3) (lim : Byte) : Statement (.tricls b g d x cull pe lim) := fun _ h => legal_of 2 0x71 rfl rfl h
theorem wbld (b : Bool) (g : Guard) (x y c : Spec) (h : BitVec 2) : Statement (.wbld b g x y c h) := fun _ h => legal_of 2 0x72 rfl rfl h
theorem wbgth (b : Bool) (g : Guard) (x y c : Spec) (h : BitVec 2) (z : Spec) : Statement (.wbgth b g x y c h z) := fun _ h => legal_of 2 0x73 rfl rfl h
theorem mma (b : Bool) (g : Guard) (a vc : Spec) (h : BitVec 2) (z amax : Bool) (su cn : Spec) (ln : Bool) (fa : BitVec 5) (km1 : BitVec 7) : Statement (.mma b g a vc h z amax su cn ln fa km1) := fun _ h => legal_of 2 0x74 rfl rfl h
theorem mmas (b : Bool) (g : Guard) (d a vs su : Spec) (ln : Bool) (fa : BitVec 5) (km1 : BitVec 7) : Statement (.mmas b g d a vs su ln fa km1) := fun _ h => legal_of 2 0x75 rfl rfl h
theorem scacc (b : Bool) (g : Guard) (d vp vs : Spec) (z : Bool) (su : Spec) (fa : BitVec 5) (km1 : BitVec 7) : Statement (.scacc b g d vp vs z su fa km1) := fun _ h => legal_of 2 0x76 rfl rfl h
theorem lbind (b : Bool) (lg : BitVec 3) : Statement (.lbind b lg) := fun _ h => legal_of 0 0x78 rfl rfl h
theorem lunbind (b : Bool) : Statement (.lunbind b) := fun _ h => legal_of 0 0x78 rfl rfl h
theorem ladd (b : Bool) (g : Guard) (d x y : Spec) (po : BitVec 3) (tc ci : Bool) : Statement (.ladd b g d x y po tc ci) := fun _ h => legal_of 1 0x79 rfl rfl h
theorem lsub (b : Bool) (g : Guard) (d x y : Spec) (po : BitVec 3) (tc ci : Bool) : Statement (.lsub b g d x y po tc ci) := fun _ h => legal_of 1 0x7A rfl rfl h
theorem lshl (b : Bool) (g : Guard) (d : Spec) (x y : Opd) : Statement (.lshl b g d x y) := fun _ h => legal_of 1 0x7B rfl rfl h
theorem lshr (b : Bool) (g : Guard) (d : Spec) (x y : Opd) : Statement (.lshr b g d x y) := fun _ h => legal_of 1 0x7B rfl rfl h
theorem lmacs (b : Bool) (g : Guard) (d x y dhi : Spec) (tc : Bool) (j : BitVec 5) : Statement (.lmacs b g d x y dhi tc j) := fun _ h => legal_of 2 0x7C rfl rfl h
theorem lcmp (b : Bool) (g : Guard) (cc d : BitVec 3) (x y : Spec) : Statement (.lcmp b g cc d x y) := fun _ h => legal_of 1 0x7D rfl rfl h
theorem ill (cause : Byte) (w0 : Word) (idx : BitVec 2) (bitPos : BitVec 5) : Statement (.ill cause w0 idx bitPos) := fun _ h => by cases h
theorem synchronisationLost : Statement (.synchronisationLost) := fun _ h => by cases h
theorem preemptionVerification (port : Nat) (ok : Bool) : Statement (.preemptionVerification port ok) := fun _ h => by cases h
theorem domainVoltageChange (d mv : Nat) : Statement (.domainVoltageChange d mv) := fun _ h => by cases h
theorem apertureGating : Statement (.apertureGating) := fun _ h => by cases h
theorem singleBitErrorCorrected (core : Nat) (arr : Byte) : Statement (.singleBitErrorCorrected core arr) := fun _ h => by cases h

end Sys2Proof.Laws.LegalWord
end

