-- ==== Sys2Proof/Tests/Slice0.lean ====
section
/-!
SUPPORT. Tests: words written out from the spec's encodings, ill-formed terms, single steps on a small state, and for each
statement with hypotheses a concrete state and operands that meet them.
-/
open Sys2Proof Sys2Proof.Machine

namespace Sys2Proof.Tests

set_option Elab.async false

/-! Words, from the field layout of R232 to R243 and the encodings that sections 12 to 18 give. -/

/-- Word 0 of a team instruction, field by field (R233). -/
def word0 (sig sub s1 d op b len : Nat) : Word :=
  BitVec.ofNat 32 (sig * 2 ^ 29 + sub * 2 ^ 26 + s1 * 2 ^ 18 + d * 2 ^ 10 + op * 2 ^ 3 + b * 2 ^ 2 + len)

/-- Word 1 (R234). -/
def word1 (mod hint rq gop g2 g1 s3 s2 : Nat) : Word :=
  BitVec.ofNat 32 (mod * 2 ^ 30 + hint * 2 ^ 28 + rq * 2 ^ 26 + gop * 2 ^ 24 + g2 * 2 ^ 20 + g1 * 2 ^ 16 + s3 * 2 ^ 8 + s2)

/-- Word 2 (R235). -/
def word2 (x2 x1 s5 s4 : Nat) : Word := BitVec.ofNat 32 (x2 * 2 ^ 24 + x1 * 2 ^ 16 + s5 * 2 ^ 8 + s4)

/-- R265 and R264, "Worked encodings" of sections 11 and 13: the uniform and affine families. -/
theorem test_words_uniform :
    decodeTeam 0xC08C1018 0 0 = .sadd32 false 4 0x23 ∧ decodeTeam 0xC4141028 0 0 = .smulh32 false 4 5 ∧
    decodeTeam 0x60001011 0x0000FD00 0 = .smov64 false .always 4 (.imm 0xFD) ∧ decodeTeam 0xC0141010 0 0 = .smov32 false 4 5 ∧
    decodeTeam 0xC8100449 5 0 = .scmp false .always 2 1 4 5 ∧ decodeTeam 0xC0800019 0x20 0 = .sadd64 false .always 0 0x20 0x20 ∧
    decodeTeam (word0 6 1 4 5 0x0C 0 1) (word1 0 0 0 0 0 0 7 6) 0 = .sbfi false .always 5 4 6 7 ∧
    decodeTeam (word0 0 3 2 1 0x0D 0 0) 0 0 = .qnot32 false 1 2 := by decide

theorem test_words_affine :
    decodeTeam 0x08000080 0 0 = .amovLane false 0 ∧ decodeTeam 0xA0080488 0 0 = .aadd32 false 1 2 ∧
    decodeTeam 0x80040489 4 0 = .aadd64 false .always 1 (.a 1) (.s 4) ∧ decodeTeam 0x800004A1 0x21 0 = .ashl false .always 1 0 0x21 ∧
    decodeTeam 0x240008A9 1 0 = .promv false .always 2 1 ∧ decodeTeam 0xC09008A9 0x25 0 = .proma false .always 2 0x24 0x25 ∧
    decodeTeam 0x480018A9 0x26 0 = .promb false .always 6 0x26 ∧ decodeTeam 0x000C00B1 0 0 = .rdfirst false .always 0 3 := by decide

/-- R243, R264: a capability instruction, field by field. -/
theorem test_words_capability :
    decodeTeam (word0 6 0 2 3 0x17 0 1) (word1 0 0 0 0 0 0 6 4) 0 = .capnar false .always 3 2 4 6 ∧
    decodeTeam (word0 6 1 3 3 0x17 0 1) (word1 0 0 0 0 0 0 0 8) 0 = .caprst false .always 3 3 8 ∧
    decodeTeam (word0 0 4 2 9 0x17 0 1) 0 0 = .capqryRights false .always 9 2 := by decide

/-- R240 and the encodings of section 11: guards, immediates and the run boundary. -/
theorem test_words_integer :
    decodeTeam 0x001410C0 0 0 = .iadd32 false 4 5 ∧ decodeTeam 0x001410C4 0 0 = .iadd32 true 4 5 ∧
    decodeTeam 0x401810C1 7 0 = .iadd64 false .always 4 (.v 6) (.s 7) 0 ∧
    decodeTeam 0x601810C1 0xFD00 0 = .iadd64 false .always 4 (.v 6) (.imm 0xFD) 0 ∧
    decodeTeam 0x001810C1 0x40000005 0 = .iadd64 false .always 4 (.v 6) (.v 5) 1 ∧
    decodeTeam 0x001010C1 0x01010005 0 = .iadd64 false (.one ⟨false, 1⟩) 4 (.v 4) (.v 5) 0 ∧
    decodeTeam 0x001010C1 0x01090005 0 = .iadd64 false (.one ⟨true, 1⟩) 4 (.v 4) (.v 5) 0 ∧
    decodeTeam 0x001010C1 0x02A10005 0 = .iadd64 false (.both ⟨false, 1⟩ ⟨true, 2⟩) 4 (.v 4) (.v 5) 0 ∧
    decodeTeam 0x001010C1 0x03210005 0 = .iadd64 false (.either ⟨false, 1⟩ ⟨false, 2⟩) 4 (.v 4) (.v 5) 0 ∧
    decodeTeam 0x00181102 0x00000105 0x00020000 = .iaddc false .always 4 (.v 6) (.v 5) 1 2 ∧
    decodeTeam 0x54080511 0x22 0 = .isetp false .always 5 1 (.v 2) (.s 0x22) := by decide

/-- R242, R243 and the encodings of sections 11 and 14: displacements in words, from the instruction's own offset. -/
theorem test_words_control :
    decodeTeam 0xFFFFC280 0 0 = .bra false (-16) ∧ decodeTeam 0x00001680 0 0 = .bra false 5 ∧
    decodeTeam 0x0000428A 0x01010000 0x20 = .brx false ⟨false, 1⟩ 16 32 ∧
    decodeTeam 0x0000428A 0x01090000 0x20 = .brx false ⟨true, 1⟩ 16 32 ∧ decodeTeam 0xC4A002A9 0 0 = .callReg false 40 ∧
    decodeTeam 0x00001E98 0 0 = .loop false 7 ∧ decodeTeam 0x00000290 0 0 = .join false ∧ decodeTeam 0x000002B0 0 0 = .ret false ∧
    decodeTeam 0x000002B8 0 0 = .exit32 false ∧ decodeTeam 0x000002A1 0x01020000 0 = .brk64 false (.one ⟨false, 2⟩) ∧
    decodeTeam 0x040002A0 0 0 = .cont32 false ∧ decodeTeam 0x00000008 0 0 = .nop32 false ∧
    decodeTeam 0x040002C8 0 0 = .bkpt32 false ∧ decodeTeam 0x600002C9 0x500 0 = .trap64 false .always 5 ∧
    decodeTeam 0x001C12D0 0 0 = .sread32 false 4 7 := by decide

/-- R265 and section 14: the cross-lane family. -/
theorem test_words_cross_lane :
    decodeTeam 0x6C1C1999 0x100 0 = .shflXor false .always 6 (.v 7) (.imm 1) ∧
    decodeTeam 0x001409B2 0 0x00C00000 = .barr false 0 2 (.v 5) 0xC0 ∧
    decodeTeam (word0 0 6 8 3 0x34 0 1) (word1 0 0 0 1 0 1 0 0) 0 = .redx false (.one ⟨false, 1⟩) 6 3 8 ∧
    decodeTeam (word0 6 2 1 4 0x32 0 1) (word1 0 0 0 0 0 0 0 9) 0 = .voteBal false .always 4 1 9 := by decide

/-- R266 and section 15. -/
theorem test_words_float :
    decodeTeam 0x001411C0 0 0 = .fadd32 false 4 5 ∧ decodeTeam 0x03E3C9C1 3 0 = .fadd64 false .always 0xF2 (.v 0xF8) (.v 3) 0 ∧
    decodeTeam 0x002421D9 0x40000B0A 0 = .ffma false .always 8 (.v 9) (.v 0x0A) 0x0B 1 ∧
    decodeTeam 0x080805F1 3 0 = .fsetp false .always 2 1 (.v 2) (.v 3) ∧ decodeTeam 0x041C1A58 0 0 = .fcos32 false 6 7 ∧
    decodeTeam 0x001411F9 0xC0000000 0 = .frnd64 false .always 4 5 3 ∧
    decodeTeam 0x60101209 0xFC00 0 = .fscl64 false .always 4 (.v 4) (.imm 0xFC) 0 ∧
    decodeTeam 0x00101269 0x6000 0 = .cvt false .always 4 4 0x60 0 ∧
    decodeTeam 0x00141271 0x0A06 0 = .cvtpPack false .always 4 5 6 10 0 ∧
    decodeTeam 0x00102E71 0x6A00 0 = .cvtpUnpack false .always 11 4 1 10 := by decide

/-- R267 and the programs of sections 22 and 23. -/
theorem test_words_memory :
    decodeTeam 0xA80406E1 0 0 = .ld false .always 2 1 (.a 1) 0 0 0 0 ∧
    decodeTeam 0xA8040AE1 0x05014000 0 = .ld false (.one ⟨false, 1⟩) 2 2 (.a 1) 0 0x40 1 0 ∧
    decodeTeam 0xA80446E9 0x4002 0 = .st false .always 2 0x11 (.a 1) 2 0x40 0 0 ∧
    decodeTeam (word0 0 0 0 0 0x63 0 0) 0 0 = .fenceAcq false ∧
    decodeTeam (word0 6 3 5 0 0x65 0 1) (word1 0 0 0 0 0 0 6 2) 0 = .pref false .always 5 2 6 0 := by decide

/-- R268 and section 23. -/
theorem test_words_async :
    decodeTeam 0x003C0370 0 0 = .qfence false 15 ∧ decodeTeam 0xC3FC0392 0x122 0 = .wbld false .always 0xFF 0x22 1 0 ∧
    decodeTeam 0x000C037A 0x0101FFFF 0x0001FFFF
      = .isend false (.one ⟨false, 1⟩) 3 0xFF 0xFF 0 0xFF 0xFF 0 0 1 false 0 0 := by decide

/-- R269 and the programs of sections 22 and 23. -/
theorem test_words_matrix_and_limb :
    decodeTeam 0x000C03C0 0 0 = .lbind false 3 ∧ decodeTeam 0x040003C0 0 0 = .lunbind false ∧
    decodeTeam 0x00042BE2 0xB02 0x00070000 = .lmacs false .always 0x0A 1 2 0x0B false 7 ∧
    decodeTeam 0x00283FD1 0x104 0 = .lsub false .always 0x0F 0x0A 4 1 false false ∧
    decodeTeam 0x000003A6 0x80000010 0x032900FF = .mma true .always 0 0x10 0 true false 0xFF 0 true 9 3 := by decide

/-- The worked words of R54. -/
theorem test_words_gondola :
    decodeGondola 0x0005850B = .xgnd (.rfetch 10 11) ∧ decodeGondola 0x1883128B = .xgnd (.bfx 5 6 8 3) ∧
    decodeGondola 0x2083128B = .xgnd (.bfx 5 6 8 4) ∧ decodeGondola 0x0000402B = .illegal ∧ decodeGondola 0x0005C50B = .illegal := by
  decide

/-- "Decoding against the map" of section 12: the causes of words that are not instructions. -/
theorem test_words_refused :
    decodeTeam 0 0 0 = .ill 0 0 0 3 ∧ decodeTeam 0x78 0 0 = .ill 1 0x78 0 3 ∧
    (∃ b, decodeTeam 0x041410C0 0 0 = .ill 1 0x041410C0 0 b) ∧ (∃ b, decodeTeam 0x401410C0 0 0 = .ill 4 0x401410C0 0 b) ∧
    (∃ b, decodeTeam 0x002421D8 0 0 = .ill 0x0F 0x002421D8 0 b) ∧ (∃ b, decodeTeam 0x00000283 0 0 = .ill 2 0x00000283 0 b) ∧
    (∃ b, decodeTeam 0xC4A002A9 0x01010000 0 = .ill 9 0xC4A002A9 1 b) := by
  refine ⟨by decide, by decide, ⟨_, rfl⟩, ⟨_, rfl⟩, ⟨_, rfl⟩, ⟨_, rfl⟩, ⟨_, rfl⟩⟩

/-- The table's numbering of a word, and an Xgnd word. -/
theorem test_table_words :
    decodeTableWord 32 0xC4141028 = some (.smulh32 false 4 5) ∧
    decodeTableWord 64 0x0000FD0060001011 = some (.smov64 false .always 4 (.imm 0xFD)) ∧
    decodeTableWord 32 0x1883128B = some (.bfx 5 6 8 3) := by decide

/-! Ill-formed terms, one for each check of WellFormed. -/

theorem test_ill_formed_operands :
    Instr.wellFormed (.smov64 false .always 4 (.v 5)) = false ∧ Instr.wellFormed (.imov64 false .always 4 (.s 5)) = false ∧
    Instr.wellFormed (.aadd64 false .always 1 (.v 1) (.s 4)) = false ∧
    Instr.wellFormed (.iadd64 false .always 4 (.imm 1) (.v 5) 0) = false ∧
    Instr.wellFormed (.imad false .always 4 (.v 1) (.imm 5) 6 0) = false ∧
    Instr.wellFormed (.pmovBit false .always 1 (.v 1) (.v 5)) = false ∧
    Instr.wellFormed (.shflIdx false .always 4 (.v 1) (.a 5)) = false ∧ Instr.wellFormed (.barr false 0 2 (.a 5) 0xC0) = false ∧
    Instr.wellFormed (.barr false 7 2 (.v 0) 0xC0) = false ∧ Instr.wellFormed (.lshl false .always 4 (.v 1) (.imm 32)) = false ∧
    Instr.wellFormed (.lshr false .always 4 (.v 1) (.s 3)) = false ∧
    Instr.wellFormed (.ld false .always 2 4 (.imm 3) 0 0 0 0) = false := by decide

theorem test_ill_formed_fields :
    Instr.wellFormed (.iabs64 false .always 4 5 2) = false ∧ Instr.wellFormed (.redx false .always 7 3 8) = false ∧
    Instr.wellFormed (.scan false .always 7 3 8 false) = false ∧ Instr.wellFormed (.cvt false .always 4 5 0x0D 0) = false ∧
    Instr.wellFormed (.cvt false .always 4 5 0xF0 0) = false ∧ Instr.wellFormed (.cvtpPack false .always 4 5 6 0 0) = false ∧
    Instr.wellFormed (.cvtpUnpack false .always 4 5 2 7) = false ∧
    Instr.wellFormed (.ld false .always 7 4 (.v 3) 0 0 0 0) = false ∧ Instr.wellFormed (.ld false .always 2 4 (.v 3) 0 0 3 0) = false ∧
    Instr.wellFormed (.st false .always 5 4 (.v 3) 0 0 0 0) = false ∧
    Instr.wellFormed (.ldb false .always 4 4 (.v 3) 0 5 0 0) = false ∧
    Instr.wellFormed (.atom false .always 2 4 (.v 3) 0 0 false 0 0 5 0 0x0B) = false ∧
    Instr.wellFormed (.atom false .always 2 4 (.v 3) 0 0 false 0 0 5 6 0) = false ∧
    Instr.wellFormed (.red false .always 2 (.v 3) 0 0 false 0 false 5 9) = false := by decide

theorem test_ill_formed_engine :
    Instr.wellFormed (.waitt32 false 0) = false ∧ Instr.wellFormed (.waitw false .always 4 6 0 3) = false ∧
    Instr.wellFormed (.isend false .always 3 4 5 0 6 7 0 0 0 false 0 0) = false ∧
    Instr.wellFormed (.isend false .always 3 4 5 0 6 7 0 0 7 false 0 0) = false ∧
    Instr.wellFormed (.tricls false .always 1 4 3 2 0) = false ∧ Instr.wellFormed (.tricls false .always 1 4 0 1 0) = false ∧
    Instr.wellFormed (.mma false .always 0 0x10 1 false false 0xFF 0 false 9 3) = false ∧
    Instr.wellFormed (.lbind false 6) = false ∧ Instr.wellFormed (.lbind false 0) = false ∧
    Instr.wellFormed (.lmacs false .always 4 1 2 4 false 0) = false ∧ Instr.wellFormed (.ill 1 0x5B8 0 3) = false ∧
    Instr.wellFormed (.cpymRd false .always (.v 1) (.v 2) 0 0 false 0 0 false 8 0) = false ∧
    Instr.wellFormed (.cpymMc false .always (.v 1) (.s 2) 0 0 false 0 0 false 0) = false ∧
    Instr.wellFormed (.cpyt false .always 8 16 1 0 2 3 false false false 0) = false ∧
    Instr.wellFormed (.cpy false .always (.v 1) 1 3 0 0 4 2 0 false 0 0 true false false) = false ∧
    Instr.wellFormed (.cpy false .always (.v 1) 1 3 0 0 4 2 0 false 0 3 false false false) = false := by decide

/-! Single steps on a small state. -/

/-- A launch record with a trap entry, 32 vector registers and `n` lanes. -/
def recOf (n : Nat) : LaunchRec := { loadRec with vregs := 32, lanes := n, trapEnt := 0x100 }

/-- The team of the setting of Machine/Load.lean, with `n` lanes. -/
def teamOf (n : Nat) : Team :=
  { teamStart (recOf n) { uid := 2, part := 1, launch := 0, nb := 1, grid := 0, rank := 0, core := 0, slot := 0 } none 0 with
      port := some 0, runs := 1 }

/-- A device of two cores and two partitions on which one team issues. -/
def stateOf (t : Team) : State :=
  { State.reset with
      cores := List.replicate 2 Core.reset, parts := [Partition.reset, loadPart]
      launches := [{ loadLaunch 0 with prm := t.prm }], nbs := [loadNb 0 0], teams := [t], cur := 2, nextId := 3 }

/-- What an outcome says of its first team; the default where there is no next state. -/
def see {α : Type} (o : Out) (z : α) (f : Team → α) : α :=
  match o with
  | .next s => (s.teams.head?.map f).getD z
  | .fault _ => z
  | .refused _ => z

/-- What an instruction leaves of a team. -/
def after {α : Type} (i : Instr) (t : Team) (z : α) (f : Team → α) : α := see (exec i (stateOf t)) z f

theorem test_sadd_wraps :
    after (.sadd32 false 4 5) (((teamOf 4).writeS 4 0xFFFFFFFF).writeS 5 2) (0, 0) (fun t => (t.readS 4, t.pc)) = (1, 4) := by
  decide +kernel

theorem test_smulh_signed :
    after (.smulh32 false 4 5) (((teamOf 4).writeS 4 0xFFFFFFFE).writeS 5 3) 0 (·.readS 4) = 0xFFFFFFFF := by decide +kernel

theorem test_ssar_past_the_width :
    after (.ssar32 false 4 5) (((teamOf 4).writeS 4 0x80000000).writeS 5 40) 0 (·.readS 4) = 0xFFFFFFFF := by decide +kernel

theorem test_scmp_signed_and_unsigned :
    (let t := ((teamOf 4).writeS 4 0xFFFFFFFF).writeS 5 1
     after (.scmp false .always 2 1 4 5) t false (·.readQ 1) = true ∧ after (.scmp false .always 6 1 4 5) t true (·.readQ 1) = false) := by
  decide +kernel

/-- The worked example of R282 and R283. -/
theorem test_capnar_worked_example :
    (let c : Cap := 0x00000002000000000001000008300042
     let t := ((((teamOf 4).writeC 2 c).writeS64 4 0x8000).writeS64 6 0x10000).writeS 8 0x00300000
     after (.capnar false .always 3 2 4 6) t 0 (·.readC 3) = 0x00000001000000000001800008300042 ∧
     after (.capnar false .always 3 2 4 6) (t.writeS64 6 0x18001) 0 (·.trapCause.toNat % 256) = 0x27 ∧
     after (.caprst false .always 3 2 8) t 0 (fun t => (t.readC 3).toNat % 2 ^ 32) = 0x00300042) := by decide +kernel

theorem test_iabs_of_the_most_negative :
    after (.iabs32 false 4 5) ((teamOf 4).putV 15 5 [0x80000000, 0xFFFFFFFD, 7, 0]) [] (·.readV 4)
      = [0x80000000, 3, 7, 0] := by decide +kernel

theorem test_iadd_saturates :
    after (.iadd64 false .always 4 (.v 5) (.imm 0xFF) 2) ((teamOf 2).putV 3 5 [0, 1]) [] (·.readV 4) = [0xFFFFFFFF, 0xFFFFFFFF] ∧
    after (.iadd64 false .always 4 (.v 5) (.imm 1) 1) ((teamOf 2).putV 3 5 [0x7FFFFFFF, 1]) [] (·.readV 4)
      = [0x7FFFFFFF, 2] := by decide +kernel

theorem test_iadd_guard_leaves_other_lanes :
    after (.iadd64 false (.one ⟨false, 1⟩) 4 (.v 4) (.imm 1) 0) (((teamOf 4).writeP 15 1 5).putV 15 4 [10, 20, 30, 40]) []
      (·.readV 4) = [11, 20, 31, 40] := by decide +kernel

theorem test_y_registers_advance :
    after (.iadd32 false 4 5) (((teamOf 2).putV 3 4 [1, 2]).putV 3 5 [10, 20]) ([], [])
      (fun t => (t.readV 0xF8, t.readV 0xF9)) = ([11, 22], [0, 0]) := by decide +kernel

/-- The worked example of R303 and R304. -/
theorem test_scan_worked_example :
    (let t := ((teamOf 4).writeP 15 1 15).putV 15 8 [0x4B800000, 0x3F800000, 0x3F800000, 0x3F800000]
     after (.redx false (.one ⟨false, 1⟩) 6 3 8) t 0 (·.readS 3) = 0x4B800001 ∧
     after (.scan false (.one ⟨false, 1⟩) 6 9 8 true) t [] (·.readV 9)
       = [0x80000000, 0x4B800000, 0x4B800000, 0x4B800000]) := by decide +kernel

/-- The worked example of R320: 300.0 and −1.0 in E4M3. -/
theorem test_cvtp_worked_example :
    (let t := ((teamOf 1).putV 1 5 [0x43960000]).putV 1 6 [0xBF800000]
     after (.cvtpPack false .always 4 5 6 10 0) t [] (·.readV 4) = [0x0000B879] ∧
     after (.cvtpPack false .always 4 5 6 10 2) t [] (·.readV 4) = [0x0000B87A] ∧
     after (.cvtpPacksr false .always 7 5 8 10) (t.putV 1 8 [0x5FFFFFFF]) [] (·.readV 7) = [0x0000007A] ∧
     after (.cvtpPacksr false .always 7 5 8 10) (t.putV 1 8 [0x60000000]) [] (·.readV 7) = [0x00000079] ∧
     after (.cvtpUnpack false .always 11 4 1 10) (t.putV 1 4 [0x0000B879]) [] (·.readV 11) = [0xBF800000]) := by decide +kernel

/-- The worked example of limb carries (section 18). -/
theorem test_limb_worked_example :
    (let t := (({ teamOf 8 with limb := 2 } : Team).putV 255 6 [0xFFFFFFFF, 0xFFFFFFFF, 0xFFFFFFFF, 0xFFFFFFFF, 0, 1, 0, 0]).putV 255 8
        [1, 0, 0, 0, 0xFFFFFFFF, 0, 0, 0]
     after (.ladd false .always 4 6 8 1 false false) t ([], 0) (fun t => (t.readV 4, (t.readP 1).toNat))
       = ([0, 0, 0, 0, 0xFFFFFFFF, 1, 0, 0], 15)) := by decide +kernel

theorem test_lmacs_worked_example :
    (let t := (({ teamOf 2 with limb := 1 } : Team).putV 3 10 [5, 1]).putV 3 12 [3, 7]
     after (.lmacs false .always 20 10 12 21 false 1) t ([], []) (fun t => (t.readV 20, t.readV 21)) = ([0, 35], [7, 0])) := by
  decide +kernel

/-- The worked examples of section 10: two roundings per block, and a block of mixed 4-bit codes. -/
theorem test_block_roundings :
    (let f : BlockFmt := { ea := 12, eb := 12, isInt := false }
     accBlock f 0 [(0x6C00, 0x6C00), (0x3C00, 0x3C00)] = (0x4B800000, 16) ∧
     (accBlock f 0x4B800000 [(0x3C00, 0x3C00)]).1 = 0x4B800000) := by decide +kernel

theorem test_block_of_mixed_codes :
    (let cs := [(0x3, 0x2), (0xA, 0x3), (0x7, 0x9), (0x1, 0x7)]
     (blockSum { ea := 2, eb := 4, isInt := true } cs).1 = 8 ∧ (scaleAcc true true 0x3E800000 8 33 30).1 = 0x3FA00000 ∧
     (blockSum { ea := 3, eb := 4, isInt := true } cs).1 = BitVec.ofInt 32 (-184) ∧
     (scaleAcc true true 0x3E800000 (BitVec.ofInt 32 (-184)) 33 30).1 = 0xC1B60000) := by decide +kernel

theorem test_branch_splits_a_team :
    after (.brx false ⟨false, 1⟩ 16 32) ((teamOf 4).writeP 15 1 5) (0, 0, [])
      (fun t => (t.pc, t.active.toNat, t.stack.map fun e => (e.pc.toNat, e.m.toNat))) = (64, 5, [(12, 10), (128, 15)]) := by
  decide +kernel

theorem test_trap_entry :
    after (.trap64 false (.one ⟨false, 1⟩) 5) ((teamOf 4).writeP 15 1 6) (0, 0, 0, 0, [])
      (fun t => (t.pc, t.trapCause.toNat, t.trapInfo.toNat, t.active.toNat, t.stack.map fun e => (e.pc.toNat, e.m.toNat)))
      = (0x100, 0x0B + 256, 5, 6, [(8, 15)]) := by decide +kernel

theorem test_ret_leaves_the_trap :
    (let e : StackEntry := { kind := .call, pc := 8, m := 15, seg := 0, head := 0, k := 0, trapCall := true }
     after (.ret false) { teamOf 4 with stack := [e], inTrap := true, active := 6, pc := 0x100 } (0, 0, true)
       (fun t => (t.pc, t.active.toNat, t.inTrap)) = (8, 15, false)) := by decide +kernel

theorem test_partial_mask_stops_a_uniform_write :
    after (.sadd32 false 4 5) { teamOf 4 with active := 3 } 0 (·.trapCause.toNat % 256) = 0x10 := by decide +kernel

theorem test_fadd_rounds_and_sets_inexact :
    after (.fadd64 false .always 4 (.v 5) (.v 6) 0) (((teamOf 1).putV 1 5 [0x4B800000]).putV 1 6 [0x3F800000]) ([], 0)
      (fun t => (t.readV 4, t.flags)) = ([0x4B800000], 16) := by decide +kernel

theorem test_step_runs_a_placed_word :
    see (step (State.reset.withFetchWord 64 0x0000FD0060001011)) (0, 0) (fun t => (t.readS 4, t.pc)) = (0xFFFFFFFD, 8) := by
  decide +kernel


/-! Witnesses: for each statement with hypotheses, a concrete state and operands that meet them. -/

/-- An outcome that is a next state. -/
def isNext (o : Out) : Bool :=
  match o with
  | .next _ => true
  | .fault _ => false
  | .refused _ => false

theorem next_of_isNext {o : Out} (h : isNext o = true) : ∃ q, o = .next q := by
  cases o <;> first | exact ⟨_, rfl⟩ | cases h

/-- An answer whose value meets a condition. -/
def okAnd {ε α : Type} (e : Except ε α) (p : α → Bool) : Bool :=
  match e with
  | .ok x => p x
  | .error _ => false

theorem ok_of_okAnd {ε α : Type} {e : Except ε α} {p : α → Bool} (h : okAnd e p = true) : ∃ x, e = .ok x ∧ p x = true := by
  cases e with
  | ok x => exact ⟨x, rfl, h⟩
  | error x => cases h

theorem error_of_okAnd {ε α : Type} {e : Except ε α} (h : okAnd e (fun _ => true) = false) : ∃ x, e = .error x := by
  cases e with
  | ok x => cases h
  | error x => exact ⟨x, rfl⟩

/-- Lanes 0 and 2 of four hold P1; Q1 is true. -/
def teamA : Team := ((teamOf 4).writeP 15 1 5).writeQ 1 true

/-- The guard that P1 gives, the one that no lane meets, and the uniform guard Q1. -/
def gP1 : Guard := .one ⟨false, 1⟩
def gNone : Guard := .one ⟨false, 2⟩

theorem wit_ResetAndTeamStart : (recOf 1024).lanes ≤ 1024 := by decide

/-- The state after reset with an IADD placed where the next step fetches it. -/
def fetchState : State := State.reset.withFetchWord 32 0x00140801

theorem wit_EveryStepKeepsInvariant : Memory.wf fetchState.mem = true ∧ ∃ q, step fetchState = .next q :=
  ⟨by decide +kernel, next_of_isNext (by decide +kernel)⟩

theorem wit_DecodeEncodeRoundTrip :
    (Instr.iaddc true gP1 0xEF (.v 0xFF) (.v 0xF9) 6 7).wellFormed = true ∧
      (encodeFields (Instr.iaddc true gP1 0xEF (.v 0xFF) (.v 0xF9) 6 7)).isSome = true ∧
      (encodeXgnd (Instr.dspt 31 1)).isSome = true := by decide +kernel

theorem wit_DecodedWordsHaveOneMeaning :
    ∃ w i, decodeGondola w = .xgnd i := ⟨0xB, _, rfl⟩

/-- A team that may issue on `fetchState`, and the words at its pc. -/
theorem wit_StepRunsDecodedInstruction_team :
    (let s := fetchState
     let t := loadTeam 0 0
     s.schedule = [.team 2] ∧ s.frozen = false ∧ s.team? 2 = some t ∧ t.canIssue = true ∧
     t.pc.toNat + 4 * wordCount (0x00140801 : Word) ≤ Cap.length t.prm.code ∧
     (∀ k < 2, okAnd (s.translate t.part (Cap.handle t.prm.code) (Cap.base t.prm.code + (t.pc.toNat + 4 * k)) 4 [23] 0x34)
       (fun x => s.homeNat x.pa 4 == if k = 0 then 0x00140801 else 0) = true)) := by decide +kernel

theorem wit_StepRunsDecodedInstruction_others :
    (let s := State.reset.withFetchWord 32 0xB
     s.schedule = [.gondola 0] ∧ s.frozen = false ∧ s.boot.stat = 0 ∧ decodeGondola (s.gondolaWord 0) = .xgnd (.rfetch 0 0)) ∧
    decodeGondola ((State.reset.withFetchWord 32 0xFE00000B).gondolaWord 0) = .illegal ∧
    decodeGondola ((State.reset.withFetchWord 32 0x13).gondolaWord 0) = .base ∧
    isEvent (.runStart 2) = true ∧ { fetchState with frozen := true }.frozen = true ∧
    ({ loadTeam 0 0 with port := none } : Team).canIssue = false := by decide +kernel

theorem wit_MissingFormRule :
    (∃ k, decodeTeam 0x00000283 0 0 = .ill 2 0x00000283 0 k) ∧ (∃ k, decodeTeam 0x002421D8 0 0 = .ill 0x0F 0x002421D8 0 k) ∧
    decodeTeam 0 0 0 = .ill 0 0 0 3 ∧ (0x00000283 : Word).extractLsb' 0 2 = 3 := by decide +kernel

/-- Every word group with OP = 0 is an ILL_WORD, so its OP, SUB and LEN have no form. -/
theorem wit_MissingFormRule_all (x0 x1 x2 : Word) (h : x0.extractLsb' 3 7 = (0 : Word).extractLsb' 3 7) :
    ∃ y j n, decodeTeam x0 x1 x2 = .ill 0 y j n := by
  have h0 : (teamFields x0 x1 x2).op = 0 := by simpa [teamFields, Fields.ofWords] using h
  exact ⟨(teamFields x0 x1 x2).word0, 0, 3, by simp [decodeTeam, decodeFields, classify, h0]⟩

theorem wit_IntegerAccumulationRule : ∃ f : BlockFmt, f.isInt = true := ⟨⟨8, 8, true⟩, rfl⟩

/-! Uniform, affine and capability instructions. -/

theorem wit_ReductionRule :
    (stateOf teamA).uniformReady teamA [RegUse.dest 0 .s 4, RegUse.src 1 .v 5] ∧ teamA.prm.fptrap = 0 ∧
    teamA.active &&& teamA.guardMask gNone = 0 ∧
    (let t : Team := { teamA with active := 3 }
     (stateOf t).team? (stateOf t).cur = some t ∧ t.canIssue = true ∧
       t.badReg [RegUse.dest 0 .s 4, RegUse.src 1 .v 5] = none ∧ t.active ≠ t.launched) := by decide +kernel

theorem wit_PartialStepAndParkResults_partial :
    (let t : Team := { teamA with active := 3 }
     (stateOf t).team? (stateOf t).cur = some t ∧ t.canIssue = true ∧ t.active ≠ t.launched ∧
       t.badReg [RegUse.dest 0 .s 4, RegUse.src 1 .s 5] = none ∧
       t.badReg [RegUse.dest 0 .s 4, RegUse.src 1 .s 5, RegUse.src 2 .s 0xFF] = none ∧ t.badReg [RegUse.dest 0 .s 4] = none ∧
       t.badReg [] = none ∧ (encodeFields (.sadd32 true 4 5)).isSome = true ∧ (encodeFields (.smul64 true .always 4 5 0xFF)).isSome = true ∧
       (encodeFields (.smov64 true .always 4 (.imm 5))).isSome = true ∧ (encodeFields (.qnot32 true 7 0)).isSome = true) := by
  decide +kernel

theorem wit_PartialStepAndParkResults_step :
    (let t : Team := { teamA with dbg := 1 }
     t.dbg.getLsbD 0 = true ∧ t.inTrap = false ∧ (stateOf t).team? (stateOf t).cur = some t ∧ t.canIssue = true ∧
       t.hazard t.active [] = false) := by decide +kernel

/-- An open wait entry of partition 1 for a page, under a token. -/
def waitOf (n page : Nat) : WaitEntry :=
  { part := 1, cause := 0x30, key := some (7, page), info := 0, token := n, waiters := 1, wake := false, agent := 0, slot := 0,
    pc := 0, handle := 7, lane := 0, cursor := 0, posted := false }

/-- The state with wait entries at core 0. -/
def waiting (t : Team) (ws : List WaitEntry) : State := (stateOf t).mapCore 0 fun c => { c with waits := ws }

theorem wit_PartialStepAndParkResults_park :
    (let t := teamA
     t.core < (stateOf t).cores.length ∧ t.part < (stateOf t).parts.length ∧
     (waiting t [waitOf 9 4]).team? t.uid = some t ∧
     ((waiting t [waitOf 9 4]).getCore t.core).waitFor? t.part (some (7, 4)) = some (waitOf 9 4) ∧
     ((waiting t [waitOf 9 5]).getCore t.core).waitFor? t.part (some (7, 4)) = none ∧
     ((waiting t [waitOf 9 5]).getCore t.core).openWaits.length < 64 ∧
     (let s := waiting t ((List.range 64).map fun n => waitOf n (n + 5))
      s.team? t.uid = some t ∧ (s.getCore t.core).waitFor? t.part (some (7, 4)) = none ∧ 64 ≤ (s.getCore t.core).openWaits.length)) := by
  decide +kernel

theorem wit_RegisterReadBack :
    (let t := teamA
     (0xFE : Spec) ≠ 0xFF ∧ (63 : Spec).toNat < t.sreg.length ∧ (31 : Spec).toNat < t.areg.length ∧ (15 : Spec).toNat < t.creg.length ∧
     (6 : BitVec 3) ≠ 7 ∧ (6 : BitVec 3).toNat < t.preg.length ∧ 250 ≤ (250 : Spec).toNat ∧ (31 : Spec).toNat < t.vreg.length ∧
     (t.readV 31).length = t.lanes ∧ ([1, 2, 3, 4] : List Word).length = t.lanes ∧ t.y0.length = t.lanes ∧ t.y1.length = t.lanes) := by
  decide +kernel

theorem wit_RegisterInstructionsLeaveMemory :
    (encodeFields (.sadd32 false 4 5)).any (fun f => f.op.toNat < 0x5B) = true ∧
    (encodeFields (.mmas false .always 64 8 4 6 false 9 0)).any (fun f => 0x75 ≤ f.op.toNat) = true ∧
    ∃ q, exec (.sadd32 false 4 5) (stateOf teamA) = .next q :=
  ⟨by decide +kernel, by decide +kernel, next_of_isNext (by decide +kernel)⟩

theorem wit_HomeWritesReadBack : 8 / 4 ∉ wordsOf 0xE ([1, 2, 3] : List Byte).length := by decide

/-- Sd and Sy as destination and source. -/
def usS : List RegUse := [RegUse.dest 0 .s 4, RegUse.src 1 .s 5, RegUse.src 2 .s 0xFF, RegUse.src 3 .s 32]

theorem wit_UniformResults :
    (let t := teamA
     let s := stateOf t
     s.uniformReady t (usS.take 2) ∧ s.uniformReady t (usS.take 3) ∧ s.uniformReady t usS ∧ s.uniformReady t (usS.take 1) ∧
     s.uniformReady t [] ∧ s.uniformReady t (usS.drop 1 |>.take 2) ∧ s.uniformReady t [RegUse.dest 0 .s 0xFF, RegUse.src 1 .s 31] ∧
     t.guardQ (.one ⟨false, 1⟩) = true ∧ t.guardQ (.one ⟨true, 1⟩) = false ∧ t.guardQ .always = true ∧ (0 : BitVec 3) ≠ 7) := by
  decide +kernel

theorem wit_AffineInstructionResults :
    (let t : Team := { teamA with active := 0 }
     let s := stateOf t
     s.controlReady t [RegUse.dest 0 .a 31, RegUse.src 1 .a 0] ∧ s.controlReady t [RegUse.dest 0 .a 1] ∧
     s.controlReady t [RegUse.dest 0 .a 1, ⟨1, .s, 62, false, 2, 2⟩] ∧
     s.controlReady t [RegUse.dest 0 .a 1, RegUse.src 1 .a 1, RegUse.src 2 .a 2] ∧
     s.controlReady t [RegUse.dest 0 .a 1, RegUse.src 1 .a 1, RegUse.src 2 .s 2] ∧
     s.controlReady t [RegUse.dest 0 .a 1, RegUse.src 1 .s 1, RegUse.src 2 .s 0xFF] ∧
     t.guardQ .always = true ∧ t.guardQ (.one ⟨true, 1⟩) = false) := by decide +kernel

theorem wit_MovesBetweenClasses :
    (let t := teamA
     let s := stateOf t
     s.varyingReady t gP1 [RegUse.dest 0 .v 31, RegUse.src 2 .a 31] ∧ s.varyingReady t gP1 [RegUse.dest 0 .v 0xFF, RegUse.src 2 .s 63] ∧
     s.varyingReady t gP1 [] ∧ s.varyingIdle t gNone [RegUse.dest 0 .v 4, RegUse.src 2 .a 5] ∧
     s.varyingIdle t gNone [RegUse.dest 0 .v 4, RegUse.src 2 .s 5] ∧ s.varyingIdle t gNone [] ∧
     s.uniformReady t [RegUse.dest 0 .s 4, RegUse.src 1 .v 5] ∧
     s.uniformReady t [RegUse.dest 0 .s 4, RegUse.src 1 .v 5, RegUse.src 2 .s 6]) := by decide +kernel

theorem wit_MovesBetweenClasses_lanes :
    (let t := teamA
     2 < t.lanes ∧ (t.execMask gP1).getLsbD 2 = true ∧ (∀ k < t.lanes, 2 < k → (t.execMask gP1).getLsbD k = false) ∧
     (t.execMask gP1).getLsbD 0 = true ∧ (∀ l < t.lanes, (t.execMask gNone).getLsbD l = false)) := by decide +kernel

/-- A capability that holds D with base 2^48 − 16 and length 32, and one that does not hold D. -/
def capD : Cap := Cap.make 7 0x83 0xFFFFFFFFFFF0 32
def capN : Cap := Cap.make 7 0x03 0 32

theorem wit_CapabilityResults :
    (let t := (((teamA.writeC 2 capD).writeC 3 capN).writeS64 4 16).writeS64 6 17
     let s := stateOf t
     t.guardQ .always = true ∧
     s.uniformReady t [RegUse.dest 0 .c 1, RegUse.src 1 .c 2, ⟨2, .s, 4, false, 2, 2⟩, ⟨3, .s, 4, false, 2, 2⟩] ∧
     s.uniformReady t [RegUse.dest 0 .c 1, RegUse.src 1 .c 2, RegUse.src 2 .s 4] ∧
     s.uniformReady t [⟨0, .s, 8, true, 2, 2⟩, RegUse.src 1 .c 2] ∧ s.uniformReady t [RegUse.dest 0 .s 8, RegUse.src 1 .c 2] ∧
     (t.readC 2).getLsbD 27 = true ∧ (t.readC 3).getLsbD 27 = false ∧
     -- exactly the capability's length, and one byte past it
     8 + 24 ≤ Cap.length (t.readC 2) ∧ Cap.base (t.readC 2) + 8 < 2 ^ 48 ∧
     Cap.length (t.readC 2) < t.readS64 4 + t.readS64 6 ∧ 2 ^ 48 ≤ Cap.base (t.readC 2) + t.readS64 4) := by decide +kernel

/-! Varying integer, predicate, cross-lane and control instructions. -/

/-- Operand lists of the varying forms: registers, an immediate, Y1 and VZ among the sources. -/
def usV2 : List RegUse := RegUse.dest 0 .v 4 :: (opdUse 1 (.v 0xF9) ++ opdUse 2 (.imm 0xFF))
def usV3 : List RegUse := RegUse.dest 0 .v 0xFF :: (opdUse 1 (.s 63) ++ opdUse 2 (.v 31) ++ [RegUse.src 3 .v 5])

theorem wit_VaryingIntegerResults :
    (let t := teamA
     let s := stateOf t
     s.varyingReady t .always [RegUse.dest 0 .v 4, RegUse.src 1 .v 0xFF, RegUse.src 0 .v 4] ∧ s.varyingReady t gP1 usV2 ∧
     s.varyingIdle t gNone usV2 ∧
     (let u : Team := { t with active := 0 }
      (stateOf u).varyingIdle u .always [RegUse.dest 0 .v 4, RegUse.src 1 .v 0xFF, RegUse.src 0 .v 4])) := by decide +kernel

/-- Lanes 0 and 2 hold 2^31 − 1 in V5: lane 0 is the lowest that overflows; V6 holds 1 everywhere. -/
def teamMax : Team := (teamA.putV 15 5 [0x7FFFFFFF, 0, 0x7FFFFFFF, 0]).putV 15 6 [1, 1, 1, 1]

theorem wit_VaryingRangeResults :
    (let t := teamMax
     let s := stateOf t
     s.varyingReady t gP1 usV2 ∧ s.varyingReady t gP1 usV3 ∧ s.varyingReady t gP1 [RegUse.dest 0 .v 4, RegUse.src 1 .v 5] ∧
     (0 : BitVec 2) ≠ 3 ∧ (1 : BitVec 2) ≠ 2 ∧
     s.varyingReady t gP1 (RegUse.dest 0 .v 4 :: (opdUse 1 (.v 5) ++ opdUse 2 (.v 6))) ∧
     (List.zipWith (fun (a c : Word) => a.toInt + c.toInt) (t.readV 5) (t.readV 6))[0]? = some 2147483648 ∧
     (t.execMask gP1).getLsbD 0 = true ∧ (t.execMask (.one ⟨true, 1⟩)).getLsbD 0 = false) := by decide +kernel

theorem wit_VaryingOtherIntegerResults :
    (let t := teamA
     let s := stateOf t
     s.varyingReady t .always [RegUse.dest 0 .v 4, RegUse.src 1 .v 5] ∧ s.varyingReady t gP1 [RegUse.dest 0 .v 4, RegUse.src 1 .v 5] ∧
     s.varyingReady t gP1 (RegUse.dest 0 .v 4 :: opdUse 1 (.a 31)) ∧ s.varyingReady t gP1 usV3 ∧ s.varyingReady t gP1 usV2 ∧
     s.varyingReady t gP1 (opdUse 1 (.v 5) ++ opdUse 2 (.imm 0))) := by decide +kernel

theorem wit_PredicateAndVoteResults :
    (let t := teamA
     let s := stateOf t
     s.varyingReady t .always [] ∧ s.varyingReady t gP1 [] ∧ s.varyingReady t gP1 [RegUse.src 1 .v 5] ∧
     s.varyingReady t gP1 [RegUse.src 1 .v 5, RegUse.src 2 .s 6] ∧ s.varyingIdle t gNone [] ∧ s.uniformReady t [] ∧
     s.uniformReady t [RegUse.dest 0 .s 4, RegUse.src 2 .s 5] ∧ s.uniformReady t [RegUse.dest 0 .s 4] ∧
     (6 : BitVec 3) ≠ 7 ∧ (6 : BitVec 3).toNat < t.preg.length) := by decide +kernel

theorem wit_ShuffleAndScanResults :
    (let t := teamA
     let s := stateOf t
     s.varyingReady t gP1 (RegUse.dest 0 .v 4 :: (RegUse.src 1 .v 5 :: opdUse 2 (.imm 0xFF))) ∧
     s.varyingIdle t gNone (RegUse.dest 0 .v 4 :: (RegUse.src 1 .v 5 :: opdUse 2 (.s 6))) ∧
     s.varyingReady t gP1 [RegUse.dest 0 .v 4, RegUse.src 1 .v 5] ∧ (t.readV 5).length ≤ 1024 ∧ t.prm.fptrap = 0 ∧
     (5 : BitVec 3).toNat < 6) := by decide +kernel

/-- A barrier of the whole neighbourhood takes the team's arrival; one of another class refuses it. -/
theorem wit_BarrierArrival :
    (let t := teamA
     let s := stateOf t
     s.uniformReady t [RegUse.dest 0 .s 4, RegUse.src 1 .s 5] ∧ s.uniformReady t [RegUse.dest 0 .s 4, RegUse.src 1 .v 5] ∧
     s.controlReady t [] ∧ t.prm.spanOf t.rank 0x40 = none ∧ t.prm.spanOf t.rank 0x80 = none ∧
     t.prm.spanOf t.rank 0xC0 = some (0, 0, 1, 1) ∧ t.released? = true ∧ s.barrierMismatch t (0, 0, 1, 1) 0 0 = false ∧
     (6 : BitVec 3) ≠ 7) := by decide +kernel

/-- The state whose neighbourhood has a barrier instance at which another team has brought SUB 1. -/
def barrierState (t : Team) : State :=
  (stateOf t).mapNb t.nb fun n =>
    { n with
        barriers := [{ ox := 0, oy := 0, sw := 1, sh := 1, n := 0, span := 0xC0, result := none, departed := []
                       arrivals := [{ rank := 1, lanes := 4, sub := 1, cls := 0, payload := 0, exc := 0, causes := [] }] }] }

theorem wit_BarrierArrival_mismatch :
    (let t := teamA
     (barrierState t).uniformReady t [RegUse.dest 0 .s 4, RegUse.src 1 .s 5] ∧ t.released? = true ∧
     (barrierState t).barrierMismatch t (0, 0, 1, 1) 0 0 = true) := by decide +kernel

/-- A stack entry. -/
def entryOf (k : EntryKind) (pc : Word) (m c : LaneMask) : StackEntry :=
  { kind := k, pc := pc, m := m, seg := 0, head := 0x20, k := c, trapCall := false }

/-- A team with a stack. -/
def stacked (l : List StackEntry) : Team := { teamA with stack := l }

/-- P1 splits the active lanes, P7 holds in all of them, and P2 in none. -/
theorem wit_BranchAndJoinResults_branch :
    (let t := teamA
     let yes (p : PTerm) : LaneMask := t.active &&& (if p.neg then ~~~(t.readP p.idx) else t.readP p.idx)
     let no (p : PTerm) : LaneMask := t.active &&& ~~~(if p.neg then ~~~(t.readP p.idx) else t.readP p.idx)
     (stateOf t).controlReady t [] ∧ no ⟨false, 7⟩ = 0 ∧ no ⟨false, 2⟩ ≠ 0 ∧ yes ⟨false, 2⟩ = 0 ∧
     no ⟨false, 1⟩ ≠ 0 ∧ yes ⟨true, 1⟩ ≠ 0 ∧ yes ⟨false, 1⟩ ≠ 0 ∧ t.limb = 0 ∧ t.stack.length + 2 ≤ depthLimit t.lanes ∧
     (let u := stacked (List.replicate (depthLimit 4 - 1) (entryOf .call 0x40 15 0))
      (stateOf u).controlReady u [] ∧ depthLimit u.lanes < u.stack.length + 2)) := by decide +kernel

theorem wit_BranchAndJoinResults_jump :
    topVisible .loop (stacked []).stack = none ∧ topVisible .defer (stacked []).stack = none ∧
    (stacked [entryOf .loop 0x40 15 2]).stack = entryOf .loop 0x40 15 2 :: [] ∧ topVisible .defer ([] : List StackEntry) = none ∧
    topVisible .loop (stacked [entryOf .defer 0x40 12 0]).stack = none ∧ (stacked []).bbc + 1 < 64 ∧
    64 ≤ ({ stacked [entryOf .loop 0x40 15 2, entryOf .defer 0x40 12 0] with bbc := 63 } : Team).bbc + 1 := by decide +kernel

theorem wit_BranchAndJoinResults_join :
    (∀ t ∈ [stacked [], stacked [entryOf .defer 0x40 12 0], stacked [entryOf .join 0 12 0], stacked [entryOf .join 4 12 0],
        stacked [entryOf .call 0x40 12 0]], (stateOf t).controlReady t []) ∧
    (stacked []).stack = [] ∧ topVisible .call (stacked [entryOf .defer 0x40 12 0]).stack = none ∧
    (entryOf .defer 0x40 12 0).m ≠ 0 ∧ (entryOf .join 0 12 0).pc = (stacked []).pc ∧ (entryOf .join 4 12 0).pc ≠ (stacked []).pc := by
  decide +kernel

theorem wit_LoopCallAndExitResults_loop :
    (let t := stacked [entryOf .loop 0x40 15 0]
     (stateOf t).controlReady t [] ∧ t.stack.length + 1 ≤ depthLimit t.lanes ∧ t.active &&& t.guardMask gNone = 0 ∧
     t.active &&& t.guardMask gP1 ≠ 0 ∧ t.active &&& ~~~(t.active &&& t.guardMask gP1) ≠ 0 ∧
     t.active &&& ~~~(t.active &&& t.guardMask .always) = 0 ∧ topVisible .loop (stacked []).stack = none ∧
     (stateOf (stacked [])).controlReady (stacked []) [] ∧ (entryOf .loop 0x40 15 0).m ≠ 0 ∧ t.limb = 0 ∧
     (entryOf .loop 0x40 15 0).k = 0 ∧ (entryOf .loop 0x40 15 2).k ≠ 0 ∧ t.active ≠ 0) := by decide +kernel

theorem wit_LoopCallAndExitResults_call :
    (let t := stacked (List.replicate 63 (entryOf .call 0x40 15 0))
     let u := stacked (List.replicate 64 (entryOf .call 0x40 15 0))
     (stateOf t).controlReady t [] ∧ t.stack.length + 1 ≤ depthLimit t.lanes ∧
     (t.stack.countP fun e => decide (e.kind = .call)) < 64 ∧ ¬ ((stacked (List.replicate (depthLimit 4) (entryOf .join 0 15 0))).stack.length + 1
       ≤ depthLimit 4) ∧
     u.stack.length + 1 ≤ depthLimit u.lanes ∧ 64 ≤ (u.stack.countP fun e => decide (e.kind = .call)) ∧
     (let v := (stacked []).writeS 5 6
      (stateOf v).controlReady v [RegUse.src 1 .s 5] ∧ (v.readS 5).toNat % 4 ≠ 0) ∧
     (let v := (stacked []).writeS 5 8
      (stateOf v).controlReady v [RegUse.src 1 .s 5] ∧ (v.readS 5).toNat % 4 = 0)) := by decide +kernel

theorem wit_LoopCallAndExitResults_exit :
    (let t := stacked []
     let x := t.active &&& t.guardMask gP1
     (stateOf t).controlReady t [] ∧ t.active &&& t.guardMask gNone = 0 ∧ x ≠ 0 ∧ t.limb = 0 ∧ t.stack = [] ∧
     (∀ n ∈ (stateOf t).nbs, n.id = t.nb → n.barriers = []) ∧ t.active &&& ~~~x ≠ 0 ∧ t.launched &&& ~~~x ≠ 0 ∧ t.active ≠ 0 ∧
     t.launched = t.active ∧ ({ t with limb := 1 } : Team).limb ≠ 0) := by decide +kernel

theorem wit_TrapResults :
    (let t := teamA
     let s := stateOf t
     s.varyingReady t gP1 [] ∧ s.varyingReady t .always [] ∧ s.varyingIdle t gNone [] ∧ 0 < t.lanes ∧
     (t.execMask gP1).getLsbD 0 = true ∧ t.active.getLsbD 0 = true ∧
     t.prm.trapEnt ≠ 0xFFFFFFFF ∧ t.inTrap = false ∧ t.stack.countP (fun e => decide (e.kind = .call)) < 64 ∧
     t.stack.length + 1 ≤ depthLimit t.lanes ∧ loadRec.trapEnt = 0xFFFFFFFF ∧ ({ t with inTrap := true } : Team).inTrap = true ∧
     (∀ n ∈ s.nbs, n.id = t.nb → n.barriers = [])) := by decide +kernel

theorem wit_SpecialRegisterResults :
    (let t := teamA
     let s := stateOf t
     s.uniformReady t [⟨0, .s, 4, true, 2, 2⟩] ∧ s.uniformReady t [⟨0, .s, 5, true, 1, 1⟩] ∧ t.guardQ .always = true ∧
     t.guardQ (.one ⟨true, 1⟩) = false ∧ s.controlReady t [⟨1, .s, 5, false, 1, 1⟩] ∧ s.controlReady t [⟨1, .s, 4, false, 2, 2⟩] ∧
     -- the ends of the two ranges of R297, and the numbers beside them
     (∀ k ∈ ([0x13, 0x20, 0x61] : List Nat), k ≤ 0x13 ∨ (0x20 ≤ k ∧ k ≤ 0x61)) ∧
     (∀ k ∈ ([0x14, 0x1F, 0x62] : List Nat), ¬ (k ≤ 0x13 ∨ (0x20 ≤ k ∧ k ≤ 0x61))) ∧
     (0x04 : Spec) ∉ ([0x00, 0x01, 0x02, 0x03, 0x0E, 0x0F, 0x10, 0x11, 0x12, 0x13] : List Spec)) := by decide +kernel

/-! Floating point. -/

theorem wit_FloatArithmeticAndPackedResults :
    (let t := teamA
     let s := stateOf t
     t.prm.fptrap = 0 ∧ s.varyingReady t .always [RegUse.dest 0 .v 4, RegUse.src 0 .v 4, RegUse.src 1 .v 5] ∧
     s.varyingReady t gP1 usV2 ∧ s.varyingReady t gP1 usV3 ∧ s.varyingIdle t gNone usV2 ∧
     s.varyingReady t .always [RegUse.dest 0 .v 4, RegUse.src 1 .v 5] ∧ s.varyingReady t gP1 [RegUse.dest 0 .v 4, RegUse.src 1 .v 5]) := by
  decide +kernel

theorem wit_FloatBitsAndDraws :
    (let t := teamA
     let s := stateOf t
     s.varyingReady t .always [RegUse.dest 0 .v 4, RegUse.src 1 .v 5] ∧
     s.varyingReady t .always [RegUse.dest 0 .v 4, RegUse.src 1 .v 5, RegUse.src 0 .v 4] ∧
     s.varyingReady t gP1 [RegUse.dest 0 .v 4, RegUse.src 1 .v 5] ∧ s.varyingReady t gP1 usV2 ∧
     s.varyingReady t .always [RegUse.dest 0 .v 4] ∧ s.varyingReady t gP1 [RegUse.dest 0 .v 4] ∧ s.varyingIdle t gNone [RegUse.dest 0 .v 4]) := by
  decide +kernel

/-- A team that traps NV, whose lanes 0 and 2 multiply zero by infinity and convert a NaN. -/
def teamFp : Team :=
  { (teamA.putV 15 5 [0x7FC00000, 0, 0x7FC00000, 0]).putV 15 6 [0x7F800000, 0x7F800000, 0, 0] with prm := { recOf 4 with fptrap := 1 } }

theorem wit_CompareConvertAndTraps :
    (let t := teamFp
     let s := stateOf t
     s.varyingReady t gP1 (RegUse.dest 0 .v 4 :: (opdUse 1 (.v 5) ++ opdUse 2 (.v 6))) ∧ s.varyingReady t gP1 usV3 ∧
     t.prm.fptrap.testBit 0 = true ∧ (fMul 0 0 0x7F800000).2.getLsbD 0 = true ∧
     (let u := teamA
      (stateOf u).varyingReady u gP1 (opdUse 1 (.v 5) ++ opdUse 2 (.imm 1)) ∧ (stateOf u).varyingReady u gP1 [RegUse.dest 0 .v 4, RegUse.src 1 .v 5] ∧
        (stateOf u).varyingReady u gP1 [RegUse.dest 0 .v 4, RegUse.src 1 .v 5, RegUse.src 2 .v 6] ∧ u.prm.fptrap = 0)) := by decide +kernel

theorem wit_FloatValues :
    (let nan (v : Word) : Prop := v.extractLsb' 23 8 = 255 ∧ v.extractLsb' 0 23 ≠ 0
     nan 0x7F800001 ∧ nan 0xFFFFFFFF ∧ ¬ nan 0x7F800000 ∧ ¬ nan 0x80000001 ∧ (0x80000001 : Word).extractLsb' 0 31 ≠ 0 ∧
     (0x80000001 : Word).getLsbD 31 = true ∧ (0x80000000 : Word).extractLsb' 0 31 = 0 ∧ (0x7F7FFFFF : Word).extractLsb' 23 8 ≠ 255 ∧
     (0x7F7FFFFF : Word).extractLsb' 0 31 ≠ 0) := by decide

/-! Memory, copies, waits, islands, limbs and the matrix unit. -/

/-- Partition 1 with three objects: an ordinary one, a round region of one tile of 4 × 4 words, and one with mailboxes that islands
may read and PIN may name. -/
def memPart : Partition :=
  { loadPart with
      gused := 3
      desc :=
        { loadPart.desc with
            htLen := 4, otLen := 4, mbxBase := 0x5000, emBase := 0x6000, mailboxes := 8, queues := 2, pinq := 1, streams := 1
            shelf := 0, gQuota := 3 } }

/-- Its tables (R118, R120, R121, R138). -/
def memTables : List (Nat × List Byte) :=
  let obj (fa flags halo : Nat) : List Byte :=
    leBytes 32 (0x10000 * 2 ^ 32 + fa * 2 ^ 128 + halo * 2 ^ 176 + flags * 2 ^ 224 + 0xFF * 2 ^ 240 + 2 ^ 248)
  [(0x1000, leBytes 24 (2 ^ 63 + (2 ^ 63 + 1) * 2 ^ 64 + (2 ^ 63 + 2) * 2 ^ 128)), (0x2000, obj 0x3000 1 0),
   (0x2020, obj 0x3008 (1 + 2 ^ 5 + 2 ^ 6) 0x3100), (0x2040, obj 0x3010 (1 + 2 ^ 7 + 2 ^ 8 + 2 ^ 9) 0),
   (0x3000, leBytes 24 (0x10001 + 0x20001 * 2 ^ 64 + 0x30001 * 2 ^ 128)),
   (0x3100, leBytes 8 (2 + 3 * 2 ^ 2 + 3 * 2 ^ 14 + 2 ^ 42))]

/-- The state of a team with these objects. -/
def memState (t : Team) : State :=
  memTables.foldl (fun s x => s.tableWrite x.1 x.2) { stateOf t with parts := [Partition.reset, memPart] }

/-- All of an object, with every right. -/
def capAll (h : Nat) : Cap := Cap.make h 0xFF 0 0x10000

/-- A team with capabilities to them, lane offsets in V5 and 256 bytes of scratchpad. -/
def teamM : Team :=
  { (((teamA.writeC 2 (capAll 0)).writeC 3 (capAll 1)).writeC 4 (capAll 2)).putV 15 5 [0, 4, 8, 12] with
      prm := { recOf 4 with scratch := 256 } }

theorem wit_LoadAndStoreIssue :
    (let t := teamM
     let s := memState t
     s.memReady t gP1 [groupUse 0 8 true 1, RegUse.src 2 .c 2] (.v 5) false t ∧
     okAnd (s.access t (t.readC 2) [20] 4 0x30 false (t.laneOffsets (.v 5) 0 (t.execMask gP1)))
       (fun accs => accs.length == 2 && decide (t.watch true false 0 4 accs = [])) = true ∧
     s.memReady t gP1 [groupUse 0 8 true 1] (.v 5) false t ∧
     okAnd (t.padChecks false 4 (t.laneOffsets (.v 5) 0xF0 (t.execMask gP1))) (fun p => p.length == 2) = true ∧
     s.uniformReady t [⟨0, .s, 4, true, 2, 2⟩, RegUse.src 1 .s 6, RegUse.src 2 .s 0xFF] ∧ t.guardQ .always = true ∧
     okAnd (s.access t t.prm.code [23] 8 0x30 false [(0, (t.readS 6).toNat + (t.readS 0xFF).toNat)])
       (fun accs => decide (t.watch true false 0 8 accs = [])) = true) := by decide +kernel

theorem wit_LoadAndStoreIssue_store :
    (let t := teamM
     let s := memState t
     let m := t.execMask gP1 &&& ~~~t.helper
     s.memReady t gP1 [groupUse 0 8 false 1, RegUse.src 2 .c 3] (.v 5) true t ∧
     okAnd (s.access t (t.readC 3) [21] 4 0x30 true (t.laneOffsets (.v 5) 0 m))
       (fun accs => accs.length == 2 && decide (t.watch false true 1 4 accs = []) && accs.all fun a => ODesc.isRound a.xl.desc) = true ∧
     s.memReady t gP1 [groupUse 0 8 false 1] (.v 5) true t ∧
     okAnd (t.padChecks true 4 (t.laneOffsets (.v 5) 0xF0 m)) (fun p => p.length == 2) = true) := by decide +kernel

theorem wit_AtomicAndBoundedIssue_atomic :
    (let t := teamM
     let s := memState t
     let offs := t.laneOffsets (.v 5) 0 (t.execMask gP1 &&& ~~~t.helper)
     s.memReady t gP1 ([groupUse 0 8 true 1, RegUse.src 2 .c 2] ++ atomUses 1 6 7 9) (.v 5) true t ∧
     okAnd (s.access t (t.readC 2) [22] 4 0x31 true offs)
       (fun accs => decide (t.watch true true 0 4 accs = []) && decide (t.watch false true 0 4 accs = [])) = true ∧
     s.memReady t gP1 [RegUse.src 2 .c 2, groupUse 4 6 false 1] (.v 5) true t ∧
     s.memReady t gP1 (groupUse 0 8 true 1 :: atomUses 1 6 7 0) (.v 5) true t ∧
     okAnd (t.padChecks false 4 offs) (fun p => p.length == 2) = true) := by decide +kernel

/-- A load of lane 0 that an LDB has left, served or not. -/
def boundedLoad (got : Option Nat) : PendLoad :=
  { seq := 0, place := .obj 1 0 0x20000, size := 4, signed := false, rq := 0, hint := 0, got := got, bound := some (0, true)
    target := { cls := 1, reg := 8, lane := 0, ySlot := 2, first := false, n := 1 } }

theorem wit_AtomicAndBoundedIssue_bounded :
    (let t := teamM
     let s := memState t
     let accs := s.access t (t.readC 3) [24] 4 0x30 false (t.laneOffsets (.v 5) 0 (t.execMask gP1))
     s.memReady t gP1 ([groupUse 0 8 true 1, RegUse.src 2 .c 3] ++ if (0 : BitVec 2).getLsbD 0 then [] else [RegUse.src 3 .s 6])
       (.v 5) false t ∧ t.inLdb = false ∧
     okAnd accs (fun l => decide (s.ldbFail 1 4 l = none) && l.head?.any fun a => (s.halo? a.xl.desc).isSome) = true ∧
     (let u : Team := { t with inLdb := true, loads := [boundedLoad none] }
      (memState u).memReady u gP1 [groupUse 0 8 true 1, RegUse.src 2 .c 3, RegUse.src 3 .s 6] (.v 5) false u ∧
        ∃ p ∈ u.loads, p.bound.isSome = true ∧ p.got = none) ∧
     (let u : Team := { t with inLdb := true, loads := [boundedLoad (some 7)] }
      (memState u).memReady u gP1 [groupUse 0 8 true 1, RegUse.src 2 .c 3, RegUse.src 3 .s 6] (.v 5) false u ∧
        (∀ p ∈ u.loads, p.bound = none ∨ p.got ≠ none) ∧ u.dbg = 0)) := by decide +kernel

theorem wit_FenceAndRangeResults_fence :
    (let t := teamM
     let s := memState t
     s.controlReady t [] ∧ (∀ p ∈ t.loads, ∀ x ∈ [p.place], x = .scratch 0 0) ∧ t.atomics = [] ∧ t.storeQ = [] ∧
     (let u : Team := { t with loads := [boundedLoad none] }
      (memState u).controlReady u [] ∧ (boundedLoad none).place = .obj 1 0 0x20000 ∧ boundedLoad none ∈ u.loads) ∧
     (let u : Team := { t with storeQ := [markEntry 0 .fence 0] }
      (memState u).controlReady u [] ∧ u.storeQ ≠ []) ∧
     s.controlReady t [RegUse.src 1 .c 3] ∧ bit (Cap.rights (t.readC 3)) 4 = true ∧
     okAnd (s.lookupHandle t.part 1) (fun x => ODesc.ok x.2 && bit (ODesc.ceil x.2) 4 && (s.halo? x.2).any fun h =>
       decide ((s.region? t.part x.1).bind (·.attached) = none) && !s.storedThisClk t x.1 && decide (t.rank < h.gx * h.gy) &&
         decide (Cap.base (t.readC 3) ≤ (h.tileRange t.rank).1) &&
         decide ((h.tileRange t.rank).2 ≤ Cap.base (t.readC 3) + Cap.length (t.readC 3))) = true ∧ t.guardQ .always = true) := by
  decide +kernel

theorem wit_FenceAndRangeResults_range :
    (let t := (teamM.writeS 6 8).writeS 7 16
     let s := memState t
     s.controlReady t [RegUse.src 1 .s 6, RegUse.src 2 .c 2, RegUse.src 3 .s 7] ∧ t.guardQ .always = true ∧
     (t.readS 6).toNat % 4 = 0 ∧ (t.readS 7).toNat % 4 = 0 ∧ (t.readS 6).toNat + (t.readS 7).toNat ≤ Cap.length (t.readC 2) ∧
     okAnd (s.lookupHandle t.part 0) (fun x => ODesc.ok x.2 && decide (24 ≤ ODesc.length x.2) && bit (ODesc.ceil x.2) 0 &&
       !t.storesIn (s.rangeWords x.2 8 24) && (s.haloBad x.2).isNone && (s.rangeBad x.2 8 24).isNone) = true ∧ bit (Cap.rights (t.readC 2)) 1 = true ∧ bit (Cap.rights (t.readC 2)) 0 = true ∧
     (let u := t.writeS 6 9
      (memState u).controlReady u [RegUse.src 1 .s 6, RegUse.src 2 .c 2, RegUse.src 3 .s 7] ∧ (u.readS 6).toNat % 4 ≠ 0) ∧
     (let u := { t with storeQ := [{ seq := 0, kind := .writeThrough, handle := 1, off := 0, pa := 0x20000, bytes := [1, 2, 3, 4], lane := 0, hint := 0 }] }.writeC 2 (capAll 1)
      (memState u).controlReady u [RegUse.src 1 .s 6, RegUse.src 2 .c 2, RegUse.src 3 .s 7] ∧
        okAnd ((memState u).lookupHandle u.part 1) (fun x => u.storesIn ((memState u).rangeWords x.2 0 24)) = true) ∧
     (let u := t.writeS 7 0x20000
      (memState u).controlReady u [RegUse.src 1 .s 6, RegUse.src 2 .c 2, RegUse.src 3 .s 7] ∧
        Cap.length (u.readC 2) < (u.readS 6).toNat + (u.readS 7).toNat) ∧
     (let u := t.writeC 2 (Cap.make 0 0 0 0x10000)
      (memState u).controlReady u [RegUse.src 1 .s 6, RegUse.src 2 .c 2, RegUse.src 3 .s 7] ∧ bit (Cap.rights (u.readC 2)) 0 = false ∧
        bit (Cap.rights (u.readC 2)) 1 = false) ∧
     (let u := t.writeC 2 (Cap.make 0 3 0xFFFFFFF0 0x10000)
      okAnd ((memState u).lookupHandle u.part 0) (fun x => decide (ODesc.length x.2 < 0xFFFFFFF0 + 24)) = true) ∧
     (∀ h ∈ [3, 4], okAnd (s.lookupHandle t.part h) (fun _ => true) = false ∧ s.walkBad t.part h = none)) := by decide +kernel

theorem wit_AccessCheckOrder :
    (let t := teamM
     let s := memState t
     -- a right missing; a misaligned lane behind an aligned one; a lane past the end; all in order
     (Cap.rights capN).testBit 2 = false ∧ (Cap.rights (capAll 0)).testBit 0 = true ∧ (Cap.base (capAll 0) + 6) % 4 ≠ 0 ∧
     (Cap.base (capAll 0) + 4) % 4 = 0 ∧ Cap.length (capAll 0) < 0xFFFE + 4 ∧ ¬ (Cap.length (capAll 0) < 0xFFFC + 4) ∧
     okAnd (s.access t (capAll 0) [20] 4 0x30 false [(0, 4), (2, 0xFFFC)]) (fun l => l.length == 2) = true) := by decide +kernel

/-- S8 to S15 hold a tensor copy of two rows of 8 bytes, S16:S17 its plane strides; V6 the byte counts of a copy. -/
def teamC : Team :=
  let t := ((((teamM.writeS 12 8).writeS 13 0x10002).writeS 14 16).writeS 15 8).putV 15 6 [16, 16, 16, 16]
  (((t.writeS 16 32).writeS 17 16).writeS 18 0x10000).writeS 19 0x10000

/-- The capability with its windows of a completion word. -/
def cwCap : Spec := 4

theorem wit_CopyAndBufferIssue_cpy :
    (let t := teamC
     let s := memState t
     let du : List EndUse := [⟨0, 0, 16⟩, ⟨2, 8, 16⟩]
     s.varyingReady t gP1 (opdUse 1 (.v 5) ++ (if false then [] else [RegUse.src 2 .c 2]) ++ [RegUse.src 3 .v 6] ++ opdUse 4 (cpyDst 1 5) ++
       (if true then [] else [RegUse.src 5 .c 3]) ++ if true then [RegUse.src 6 .c 4] else []) ∧
     ¬ (true = true ∧ false = true) ∧ t.limbShape (t.execMask gP1) = none ∧
     t.affineUse (.v 5) (usesMask du) = (t, none) ∧ t.endFail (some (t.readC 2)) false 20 du = none ∧
     t.endFail none false 21 du = none ∧ t.submitFail true (t.readC 4) 7 = none ∧ s.inTurn t 0) := by decide +kernel

theorem wit_CopyAndBufferIssue_cpyt :
    (let t := teamC
     let s := memState t
     let K := t.tensorBlock 8 16
     s.controlReady t ([⟨1, .s, 8, false, 8, 8⟩, ⟨2, .s, 16, false, 2, 2⟩] ++ (if false then [] else [RegUse.src 3 .c 2]) ++
       (if true then [] else [RegUse.src 4 .c 3]) ++ if true then [RegUse.src 5 .c 4] else []) ∧ t.guardQ .always = true ∧
     t.tensorFail K (some (t.readC 2)) none = none ∧ t.submitFail true (t.readC 4) 0 = none ∧ s.inTurn t 0) := by decide +kernel

theorem wit_CopyAndBufferIssue_cpym :
    (let t := teamC
     let s := memState t
     let offs := (lanesOf t.lanes (t.execMask gP1 &&& ~~~t.helper)).map fun l => (l, (laneWord (t.readOpd immZext (.v 5)) l).toNat)
     s.varyingReady t gP1 (opdUse 1 (.v 5) ++ opdUse 2 (.v 6) ++ (if false then [] else [RegUse.src 3 .c 2]) ++
       if true then [RegUse.src 4 .c 4] else []) ∧
     t.prm.spanOf t.rank 0xC0 = some (0, 0, 1, 1) ∧ s.nb? t.nb = some (loadNb 0 0) ∧ t.limbShape (t.execMask gP1) = none ∧
     t.multicastPadFail offs = none ∧ t.submitFail true (t.readC 4) 0 = none ∧ s.inTurn t 0 ∧
     s.rankCapBad (loadNb 0 0) (t.prm.spanRanks 0 0 1 1) 2 = none ∧
     (∀ r ∈ t.prm.spanRanks 0 0 1 1, s.rankCap (loadNb 0 0) r 2 = some (capAll 0) ∧ ∀ p ∈ offs,
       capReceives 0 (some (capAll 0)) p.2 = true ∧ capReceives 5 (some (capAll 0)) p.2 = true)) := by decide +kernel

theorem wit_CopyAndBufferIssue_buffer :
    (let t := teamC
     let s := memState t
     let o := Cap.base (t.readC 2) + (t.readS 20).toNat
     s.controlReady t [RegUse.src 1 .s 20, RegUse.src 2 .s 18, RegUse.src 3 .c 2] ∧ t.guardQ .always = true ∧
     (t.readS 18).toNat / 2 ^ 10 % 2 ^ 6 = 0 ∧ (t.readS 18).toNat / 2 ^ 16 ≤ 1024 ∧ o % 64 = 0 ∧ (t.readS 20).toNat % 64 = 0 ∧ bit (Cap.rights (t.readC 2)) 0 = true ∧
     (t.readS 18).toNat / 2 ^ 16 ≠ 0 ∧ (t.readS 20).toNat / 2 ^ 16 = 0 ∧ (t.readS 20).toNat + 64 ≤ Cap.length (t.readC 2) ∧ o < 2 ^ 48 ∧
     s.controlReady t [RegUse.src 1 .s 20, RegUse.src 2 .s 20, RegUse.src 3 .c 2, RegUse.src 4 .s 20] ∧ (t.readS 20).toNat < 1024 ∧
     s.inTurn t 3 ∧ (t.readS 20).toNat % 32 = 0 ∧ (t.readS 20).toNat / 2 ^ 16 % 32 = 0) := by decide +kernel

theorem wit_WaitAndFenceResults_tags :
    (let t := teamC
     let u : Team := { t with tags := modifyAt t.tags 3 fun _ => 1 }
     (memState t).controlReady t [] ∧ (memState u).controlReady u [] ∧
     (∀ i < 8, (0x08 : Spec).getLsbD i = true → t.tags[i]?.getD 0 = 0) ∧ (0x08 : Spec).getLsbD 3 = true ∧ u.tags[3]?.getD 0 ≠ 0 ∧
     t.guardQ .always = true ∧ t.guardQ (.one ⟨true, 1⟩) = false ∧ (1 : BitVec 4) ≠ 0) := by decide +kernel

theorem wit_WaitAndFenceResults_words :
    (let t := teamC.writeS64 6 5
     let s := memState t
     s.controlReady t [RegUse.src 1 .s 20, ⟨2, .s, 6, false, 2, 2⟩, RegUse.src 3 .c 4] ∧ t.guardQ .always = true ∧ t.dbg = 0 ∧
     t.releases = true ∧
     okAnd (s.access t (t.readC 4) [20] 8 0x30 false [(0, (t.readS 20).toNat)]) (fun l => l.length == 1 && l.all fun a =>
       (let p : PendLoad := { seq := s.nextSeq, place := .obj 2 a.off a.xl.pa, size := 8, signed := false, rq := 1, hint := 0, target := { cls := 0, reg := 0, lane := 0, ySlot := 2, first := false, n := 0 }, bound := none, got := none }
        !t.heldLoad t.loads.length p && !s.sentBefore t.core p.seq a.xl.pa 8 && (s.loadBad t p 2 a.off a.xl.pa).isNone) &&
       !t.acquirePending s.nextSeq false &&
         decide (s.homeNat a.xl.pa 8 < t.readS64 6)) = true ∧
     okAnd (s.access t (t.readC 4) [21, 25] 8 0x30 true [(0, (t.readS 20).toNat)]) (fun l => l.length == 1 && l.all fun a =>
       ODesc.mailbox a.xl.desc && decide (a.off / 8 < (s.getPart t.part).desc.mailboxes) && (s.badIn a.xl.pa 8).isNone) = true) := by
  decide +kernel

/-- An envelope of a class that a slot holds. -/
def envOfClass (c : Nat) : HeldEnvelope := { entry := 0, cls := c, digest := 0, hangBound := 100, regBytes := 16 }

/-- The state whose core 0 holds an envelope of a class in slot A, with requests in its queue. -/
def slotState (t : Team) (c : Nat) (q : List IslandReq) : State :=
  (memState t).mapSlot 0 0 fun x => { x with env := some (envOfClass c), part := 1, queue := q, regs := resetRegs c }

theorem wit_IslandInstructionResults :
    (let t := teamC.putV 15 8 [1, 1, 1, 1]
     let s := slotState t 1 []
     let e : Isend := { words := [8, 5, 5, 5, 5], k := 1, ld := 0, cls := 1, slot := 0, hint := 0, tag := 3, cn := 4 }
     s.varyingReady t gP1 [RegUse.src 1 .v 8, RegUse.src 2 .v 5, RegUse.src 3 .v 5, RegUse.src 4 .v 5, RegUse.src 5 .v 5] ∧
     s.inTurn t 1 ∧ (s.getSlot t.core 0).reloading = false ∧ s.isendFail t e (t.execMask gP1) = none ∧ t.releases = true ∧
     s.uniformReady t [RegUse.dest 0 .s 4, RegUse.src 1 .l 7] ∧ t.guardQ .always = true ∧
     s.varyingReady t gP1 [⟨1, .v, 8, false, 6, 1⟩]) := by decide +kernel

/-- Four lanes in two groups of two limbs; in V8:V9 the accumulator of a group that carries. -/
def teamL : Team :=
  { ((((teamC.writeP 15 1 3).putV 15 8 [0xFFFFFFFF, 0xFFFFFFFF, 0, 0]).putV 15 9 [0xFFFFFFFF, 0xFFFFFFFF, 0, 0]).putV 15 10 [1, 1, 1, 1])
      with limb := 1 }

theorem wit_LimbResults_bind :
    (let t := teamM
     let u : Team := { t with active := 3 }
     (memState t).controlReady t [] ∧ (memState u).controlReady u [] ∧ (2 : BitVec 3) ≠ 0 ∧ t.launched = 15 ∧ t.active = 15 ∧
     0 < u.lanes / 4 ∧ (∃ i < 4, u.active.getLsbD (0 * 4 + i) = true) ∧ (∃ i < 4, u.active.getLsbD (0 * 4 + i) = false)) := by
  decide +kernel

theorem wit_LimbResults_arithmetic :
    (let t := teamL
     let s := memState t
     t.limb ≠ 0 ∧ 2 = 2 ^ t.limb ∧ t.limbShape (t.execMask gP1) = none ∧ 2 ∣ t.lanes ∧ (1 : BitVec 5).toNat < 2 ∧
     s.varyingReady t gP1 [RegUse.dest 0 .v 4, RegUse.src 1 .v 8, RegUse.src 2 .v 10] ∧
     s.varyingReady t gP1 (RegUse.dest 0 .v 4 :: (opdUse 1 (.v 8) ++ opdUse 2 (.imm 31))) ∧
     s.varyingReady t gP1 [RegUse.src 1 .v 8, RegUse.src 2 .v 10] ∧
     s.varyingReady t gP1 [RegUse.dest 0 .v 8, RegUse.src 1 .v 10, RegUse.src 2 .v 10, RegUse.dest 3 .v 9] ∧
     (t.execMask gP1).getLsbD 0 = true ∧ 0 < t.lanes ∧
     2 ^ 64 * 2 ^ 64 ≤ groupNum 2 (t.readV 8) 0 + groupNum 2 (t.readV 9) 0 * 2 ^ 64 +
       groupNum 2 (t.readV 10) 0 * (laneWord (t.readV 10) 1).toNat * 2 ^ 32) := by decide +kernel

/-- Unit 0 of the weight buffer holds a tile with a scaled format. -/
def scaledState (t : Team) : State := (memState t).mapCore 0 fun c => c.putUnits 1 0 0 (leBytes (64 * 33) 0x19)

/-- A team that may hold every register of the matrix unit. -/
def teamX : Team := { teamStart { loadRec with lanes := 2, trapEnt := 0x100 }
  { uid := 2, part := 1, launch := 0, nb := 1, grid := 0, rank := 0, core := 0, slot := 0 } none 0 with port := some 0, runs := 1 }

theorem wit_MatrixResults_mma :
    (let t := teamX.writeC 4 (capAll 2)
     let s := memState t
     s.varyingReady t .always ([matUses false 8 0 3, vGroup 2 64 true 32, RegUse.src 4 .s 6] ++
       if true then [RegUse.src 5 .c 4] else []) ∧
     okAnd (s.matSetup t (t.execMask .always) 0 3 6 false false 8) (fun _ => true) = true ∧
     okAnd (s.amaxTarget t (t.readC 4)) (fun l => l.length == 1) = true ∧ t.prm.fptrap = 0 ∧ t.dbg = 0) := by decide +kernel

theorem wit_MatrixResults_scaled :
    (let t := teamX
     let s := scaledState t
     t.prm.fptrap = 0 ∧
     s.varyingReady t .always [vGroup 0 96 true 32, matUses false 8 0x19 31, RegUse.src 3 .v 40, RegUse.src 4 .s 6] ∧
     okAnd (s.matSetup t (t.execMask .always) 0x19 31 6 true false 8) (fun o =>
       (scaleFail o (lanesOf t.lanes (t.execMask .always &&& ~~~t.helper)) (t.readV 40) ((s.getCore t.core).tiles o)).isNone) = true ∧
     s.varyingReady t .always [vGroup 0 128 true 32, vGroup 1 96 false 32, RegUse.src 3 .v 40, RegUse.src 4 .s 6] ∧
     okAnd (s.matSetup t (t.execMask .always) 0x19 31 6 true false 0) (fun _ => true) = true) := by decide +kernel

/-! The gondola, resets, errors, the host and the display. -/

/-- A packet of 32 bytes (R59, R60). -/
def pkt (typ h off v op : Nat) : List Byte :=
  leBytes 32 (typ + 2 ^ 24 + h * 2 ^ 32 + off * 2 ^ 64 + v * 2 ^ 128 + op * 2 ^ 192)

/-- A launch record of one team of 32 lanes (R63). -/
def recordBytes : List Byte :=
  leBytes 256 (0x800000 + 0xFFFFFFFF * 2 ^ 96 + 32 * 2 ^ 128 + 2 ^ 144 + 2 ^ 152 + 2 ^ 160 + 8 * 2 ^ 168 + 2 ^ 192 + 2 ^ 208 +
    0x200002 * 2 ^ 384)

/-- The state whose partition 1 has packet bytes at the head of queue 0, in a ring in object 2, and an envelope map with entry 0
loaded; gondola core 1 serves it. -/
def pktState (b : List Byte) : State :=
  let s := ((memState teamA).tableWrite 0x30000 b).tableWrite 0x6000 [1]
  { (s.mapQueue 1 0 fun x => { x with en := true, hnd := 2, qwr := b.length, st := .running }) with gcur := 1 }

/-- The same with a launch record at offset 0x1000 of object 2. -/
def recState (b : List Byte) : State := (pktState b).tableWrite 0x31000 recordBytes

/-- Gondola core 1 with a queue index in x2 and a packet buffer. -/
def coreWith (x : Word) (buf : List Byte) : GCore :=
  { (GCore.reset.setReg 2 x) with buf := buf ++ List.replicate (512 - buf.length) 0 }

def gstate (s : State) (c : GCore) : State := { s with gcores := modifyAt s.gcores 1 fun _ => c }

theorem wit_GondolaResults_fetch :
    (let c := coreWith 0x10 []
     let s := gstate (pktState (pkt 9 2 8 0 0)) c
     s.gcores[s.gcur]? = some c ∧ (27 : BitVec 5).toNat + (4 : BitVec 5).toNat + 1 ≤ 32 ∧
     32 < (27 : BitVec 5).toNat + (5 : BitVec 5).toNat + 1 ∧
     (c.reg 2).toNat % 4096 / 16 = 1 ∧ s.served s.gcur 1 0 = true ∧ s.served s.gcur 2 0 = false ∧
     okAnd (s.fetchPacket 1 0) (fun b => decide (b = some (pkt 9 2 8 0 0))) = true ∧
     (let s := gstate (pktState []) c
      s.served s.gcur 1 0 = true ∧ okAnd (s.fetchPacket 1 0) (·.isNone) = true) ∧
     (let s := gstate { pktState [] with signals := [(0, 0x10), (1, 0x42)] } c
      s.lowestSignal s.gcur 2 = some (1, 0x42) ∧ s.lowestSignal s.gcur 4 = none) ∧ (1 : BitVec 5) ≠ 0 ∧ 31 < c.x.length) := by
  decide +kernel

theorem wit_GondolaResults_dispatch :
    (let c := coreWith 0x10 (pkt 1 2 0x1000 0 0)
     let s := gstate (recState []) c
     s.gcores[s.gcur]? = some c ∧ s.queueExists 1 0 = true ∧ field c.buf 0 1 = 1 ∧ (s.getQueue 1 0).slot = none ∧
     okAnd ((s.touchRecord 1 (c.buf.take 32) true).acceptLaunch 1 0 (c.buf.take 32)) (fun _ => true) = true ∧
     ((s.mapQueue 1 0 fun x => { x with slot := some 7 }).getQueue 1 0).slot ≠ none ∧
     ((s.mapQueue 1 0 fun x => { x with st := .parked }).getQueue 1 0).st = .parked ∧ field (coreWith 0x10 []).buf 0 1 ≠ 1 ∧
     s.queueExists 1 2 = false ∧ s.queueExists 0 0 = false) := by decide +kernel

theorem wit_IllegalInstructionTrap :
    (stateOf teamA).team? (stateOf teamA).cur = some teamA ∧ teamA.canIssue = true := by decide +kernel

theorem wit_ResetAndBootResults :
    (let s := stateOf teamA
     checkFirmware s.fuses s.flash = none ∧ s.parts.all (fun p => p.pendBits == 0) = true ∧ s.frozen = false ∧ s.boot.stat = 0 ∧
     (let u := { s with boot := { s.boot with stat := 1, fwVersion := 3 } }
      u.boot.stat ≠ 0 ∧ 0x2000 % 4096 = 0 ∧ 0x2004 % 4096 ≠ 0 ∧ 0x2000 < u.capacity ∧ u.fuses.svc ≤ 3 ∧ 3 ≤ u.boot.fwVersion ∧ 3 ≤ 64 ∧
        u.boot.fwVersion < 4 ∧ ({ u with fuses := { u.fuses with svc := 2 } }.fuses.svc = 2))) := by decide +kernel

theorem wit_ErrorAndPowerResults :
    (let s := memState teamA
     s.frameOwner 0x10000 = some 1 ∧ s.frameOwner 0x50000 = none ∧ 0x10000 < s.capacity ∧ (s.getPart 1).st = .runnable ∧
     1 < s.parts.length ∧ s.tbl.stops = [] ∧ s.tbl.cmd = none ∧ (s.getPart 2).st ≠ .runnable ∧
     (∀ t ∈ ({ s with teams := [] } : State).teams, t.core / 12 = 0 → 2 ≤ t.runs) ∧
     (∀ t ∈ s.teams, t.core / 12 = 7 → 2 ≤ t.runs) ∧ (650 : Nat) % 5 = 0 ∧ (950 : Nat) % 5 = 0 ∧
     (∀ p ∈ s.parts, ∀ q ∈ p.queues, q.state = 0)) := by decide +kernel

/-- A display whose output 0 scans object 2 for partition 1: 4 × 1 pixels. -/
def outOf : Output :=
  { (State.reset.getOutput 0) with en := true, part := 1, handle := 2, geom := 4 + 2 ^ 16 + 16 * 2 ^ 32, curPart := 1, curHandle := 2
                                   curGeom := 4 + 2 ^ 16 + 16 * 2 ^ 32 }

def dispState (o : Output) : State := (memState teamA).mapOutput 0 fun _ => o

theorem wit_HostAndDisplayResults_host :
    (let s := memState teamA
     0x40000 + 8 ≤ s.capacity ∧ s.badIn 0x40000 8 = none ∧ s.hostForeign 0x40000 8 = none ∧ s.boot.stat = 0 ∧
     s.capacity ≤ 0xEFFFFFFFF8 ∧ 2 ≤ (0xFFFF : DWord).toNat % 2 ^ 16 ∧
     (let u := { (s.mapCore 0 fun c => { c with l1 := [{ part := 1, handle := 0, addr := 0x4000, st := .owned, data := 7, dirty := 1 }] })
                   with registry := [(0x4000, .core 0)] }
      wordsOf 0x10000 4 = [0x4000] ∧ u.owner 0x4000 = some (.core 0) ∧ ((u.getCore 0).l1Word? 0x4000).isSome = true)) := by decide +kernel

theorem wit_HostAndDisplayResults_display :
    (let s := dispState outOf
     s.outputs.length = 2 ∧ (s.getOutput 0).en = true ∧ (s.getOutput 0).part = 1 ∧ (s.getOutput 0).flip = false ∧
     (let u := (dispState { outOf with flip := true }).mapPart 1 fun z => { z with flipHnd := [2, 0] }
      (u.getOutput 0).flip = true ∧ u.flipOk 1 2 0 outOf.geom = true) ∧
     (let u := (dispState { outOf with flip := true }).mapPart 1 fun z => { z with flipHnd := [9, 0] }
      (u.getOutput 0).flip = true ∧ u.flipOk 1 9 0 outOf.geom = false) ∧ ¬ ((s.getOutput 1).en = true ∧ (s.getOutput 1).part = 1)) := by
  decide +kernel

/-- An answer that is a cause other than ECC_UNCORRECTABLE. -/
def notEcc {α : Type} (e : Except Nat α) : Bool :=
  match e with
  | .error c => c != 0x39
  | .ok _ => false

theorem cause_of_notEcc {α : Type} {e : Except Nat α} (h : notEcc e = true) : ∃ c, e = .error c ∧ c ≠ 0x39 := by
  cases e with
  | ok x => cases h
  | error c => exact ⟨c, rfl, by simpa [notEcc] using h⟩

theorem wit_HostAndDisplayResults_scan (off n : Nat)
    (h : off + n ≤ geomPitch outOf.curGeom * (geomHeight outOf.curGeom - 1) + geomWidth outOf.curGeom * pixelSize outOf.fmt) :
    (∃ a, (dispState outOf).scanAddr { outOf with curPart := 0 } off n = some a ∧ (dispState outOf).badIn a n = none) ∧
      (dispState outOf).scanAddr { outOf with curHandle := 9 } off n = none ∧
      (dispState outOf).scanBad { outOf with curHandle := 9 } off n = none := by
  have hc : off + n ≤ (dispState outOf).capacity := by
    refine Nat.le_trans h ?_
    decide +kernel
  have hp : outOf.curPart ≠ 0 := by decide +kernel
  obtain ⟨e, he, hc9⟩ := cause_of_notEcc (e := (dispState outOf).lookupHandle outOf.curPart 9) (by decide +kernel)
  have hb : (dispState outOf).badBlocks = [] := by decide +kernel
  have hw : (dispState outOf).walkBad outOf.curPart 9 = none := by decide +kernel
  exact ⟨⟨off, by simp [State.scanAddr, hc], by simp [State.badIn, hb]⟩, by simp [State.scanAddr, State.translate, he, hp, hw],
    by simp [State.scanBad, State.translate, he, hp, hw, hc9]⟩

/-! The Ethernet ports, the table port, the notify page and packets. -/

/-- A frame of 60 bytes and its FCS, with EtherType 0x0800. -/
def frameOf (n : Nat) : List Byte := leBytes n (0x08 * 2 ^ 96)

/-- Port 0 up and enabled, with an all-open gate list. -/
def portOf : Port :=
  { Port.reset with
      en := true, link := true, preempt := true, express := 0xFE, verified := true
      gctlLen := 2, gcycle := 100000, operLen := 2, operCycle := 100000, goper := [(0, 0xFF00001000), (1, 0xFE00001000)] }

/-- Stream 0 of partition 1 sends from object 2 on port 0, traffic class 3, in a ring of 2^4 slots. -/
def txEntry : BitVec 256 := BitVec.ofNat 256 (2 ^ 226 + 4 * 2 ^ 222 + 3 * 2 ^ 236 + 2 * 2 ^ 192)

def ethState (x : Port) : State :=
  let s := (memState teamA |>.tableWrite 0x30000 (leBytes 16 1)).tableWrite 0x30040 (leBytes 16 60)
  { (s.mapPort 0 fun _ => x) with
      streams := [{ part := 1, st := 0, entry := txEntry }]
      filters := [{ idx := 511, entry := 5, tokens := 0, filled := 0 }] }

theorem wit_EthernetResults_links :
    (let s := ethState portOf
     s.ports.length = 2 ∧ (s.getPort 0).link = true ∧ (s.getPort 1).link = false ∧ (256 : DWord).toNat % 512 ≤ 256 ∧
     ((ethState { portOf with pending := true }).getPort 0).pending = true ∧
     (((ethState { portOf with pending := true }).getPort 0).cycleStart 0).any (fun t => decide (t ≤ s.devTime.toNat)) = true ∧
     (let f : TxFrame := { part := 1, stream := 0, tc := 0, len := 60 }
      portOf.canPreempt f.tc = true ∧ portOf.gateOpen f.tc 0x1000 = false ∧ portOf.preempted = none ∧ portOf.gateOpen f.tc 0 = true ∧
        portOf.canPreempt 3 = false) ∧
     ({ s with ethSync := true }.ethSync = true) ∧ (0 : DWord).toNat % 2 = s.ethSrc ∧ (1 : DWord).toNat % 2 ≠ s.ethSrc) := by
  decide +kernel

theorem wit_EthernetResults_frames :
    (let s := ethState portOf
     let x := s.getPort 0
     x.en = true ∧ x.link = true ∧ 64 ≤ (frameOf 60).length + 4 ∧ (frameOf 60).length + 4 ≤ 9216 ∧ 9216 < 9213 + 4 ∧
     s.decide_ 0 (frameOf 60) = none ∧ (∀ f ∈ s.filters, f.idx = 511 → (∀ g ∈ s.filters, g.idx = 511 → g = f)) ∧ 511 < 512 ∧
     s.filters.any (fun f => f.idx == 511) = true ∧ rxEn (s.stream 1 1) = false ∧ txEn (s.stream 1 1) = false) := by decide +kernel

theorem wit_EthernetResults_sending :
    (let s := ethState portOf
     let x := s.getPort 0
     let e := s.stream 1 0
     let f : TxFrame := { part := 1, stream := 0, tc := 0, len := 60 }
     txEn e = true ∧ s.live 1 0 = true ∧ s.txSlot 1 e = .frame 60 0 ∧ x.sending 1 0 = false ∧ x.inWindow e 0 = true ∧ x.tx = none ∧
     x.canPreempt 3 = false ∧ ((x.gateTime 3 0).all fun t => decide (x.frameTime 60 ≤ t)) = true ∧
     ({ portOf with tx := some f }.sending 1 0 = true) ∧ x.preempted = none ∧ s.live 1 1 = false ∧
     (let u := s.tableWrite 0x30040 (leBytes 16 59)
      u.txSlot 1 e = .skip)) := by decide +kernel

/-- A table-port command for partition 1 with its arguments (R36). -/
def cmdState (code : Nat) (a0 a1 : DWord) (st : PState) : State :=
  let s := (memState teamA).mapPart 1 fun x => { x with st := st, desc := { x.desc with shelf := 1 } }
  { s with tbl := { s.tbl with cmd := some (BitVec.ofNat 64 (code * 2 ^ 56 + 2 ^ 48)), arg0 := a0, arg1 := a1 } }

theorem wit_TableAndPageResults_commands :
    (let s := cmdState 0x10 (0x00300002) 0 .runnable
     s.boot.stat = 0 ∧ s.tbl.cmd = some (BitVec.ofNat 64 (0x10 * 2 ^ 56 + 2 ^ 48)) ∧
     (BitVec.ofNat 64 (0x10 * 2 ^ 56 + 2 ^ 48)).toNat = 0x10 * 2 ^ 56 + 1 * 2 ^ 48 ∧ (s.getPart 1).st = .runnable ∧
     s.tbl.arg0.toNat < 2 ^ 40 ∧ s.tbl.arg0.toNat % 2 ^ 20 < (s.getPart 1).desc.htLen ∧ s.handleBusy 1 (· == 2) = false ∧
     (cmdState 0x11 3 0 .configured).tbl.arg0.toNat < 2 ^ 20 ∧ 3 < (s.getPart 1).desc.htLen ∧ s.handleBusy 1 (· == 3) = false ∧
     s.tbl.stops = []) := by decide +kernel

theorem wit_TableAndPageResults_states :
    ((cmdState 1 0 0 .free).getPart 1).st = .free ∧ ((cmdState 2 0 0 .configured).getPart 1).st = .configured ∧
    (cmdState 2 0 0 .configured).activates 1 = true ∧
    ((cmdState 2 0 0 .configured).mapPart 1 fun x => { x with desc := { x.desc with fqLen := 63 } }).activates 1 = false ∧
    ((cmdState 4 0 0 .stopped).getPart 1).st = .stopped ∧ ((cmdState 1 0 0 .resetting).getPart 1).st = .resetting := by decide +kernel

theorem wit_TableAndPageResults_objects :
    (let s := cmdState 0x13 2 0x40001 .runnable
     let obj := s.tbl.arg0.toNat % 2 ^ 20
     let od := s.homeNat ((s.getPart 1).desc.otBase + 32 * obj) 32
     obj < (s.getPart 1).desc.otLen ∧ s.tbl.arg0.toNat / 2 ^ 20 < ODesc.pages od ∧ s.handleBusy 1 (s.namesObj 1 obj) = false ∧
     (s.homeNat (ODesc.faAddr od + 8 * (s.tbl.arg0.toNat / 2 ^ 20)) 8).testBit 0 = true ∧
     (let u := s.tableWrite (ODesc.faAddr od) (leBytes 8 0)
      s.tbl.arg1.getLsbD 0 = true ∧ (u.homeNat (ODesc.faAddr od) 8).testBit 0 = false ∧
        (u.getPart 1).desc.gQuota < (u.getPart 1).gused + 1) ∧
     s.badIn 0x2000 32 = none ∧ 0x2000 < s.capacity) := by decide +kernel

theorem wit_TableAndPageResults_page :
    (let s := pktState (pkt 1 2 0x1000 0 0)
     let x := s.getQueue 1 0
     s.queueExists 1 0 = true ∧ x.en = true ∧ (4064 : Nat) % 32 = 0 ∧ 4064 < x.ringSize ∧ x.ringSize ≤ 4096 ∧ (s.getPart 1).st = .runnable ∧
     x.st ≠ .parked ∧ ((s.mapQueue 1 0 fun y => { y with st := .parked }).getQueue 1 0).st = .parked ∧ 1 < s.parts.length ∧
     0 < (s.getPart 1).queues.length ∧ 7 < (s.getPart 1).desc.mailboxes ∧ (s.getPart 1).desc.mailboxes ≤ 8 ∧ s.apertureGated = false ∧
     (let u := { (s.mapQueue 1 0 fun y => { y with pend := true }) with apertureGated := true }
      u.apertureGated = true ∧ (u.getQueue 1 0).pend = true) ∧
     ((memState teamA).getQueue 1 0).en = false ∧ bits (0x8 * 2 ^ 52) 55 52 ≤ 8) := by decide +kernel

theorem wit_PacketResults_heads :
    (∀ x ∈ ([(0, pkt 0 0 0 5 0), (1, pkt 1 2 0x1000 0 0), (2, pkt 2 2 8 5 0), (2, pkt 2 2 8 5 1), (3, pkt 3 2 8 0 0), (3, pkt 3 2 8 1 1),
        (5, pkt 5 2 0 0 0), (5, pkt 5 0 0 7 1), (6, pkt 6 2 0 0 1), (6, pkt 6 2 0 0 0x101), (7, pkt 7 2 0 0x10000 0), (8, pkt 8 0 0 0 1),
        (9, pkt 9 2 8 0 0), (10, pkt 10 2 0x1000 0 0x700), (10, pkt 10 0 0 0 0x701)] : List (Nat × List Byte)),
      (pktState x.2).fetches 1 0 = true ∧ ((pktState x.2).resumeQueue 1 0).ringAt 1 0 = .packet x.1 x.2) ∧
    ((pktState []).getQueue 1 0).st ≠ .parked := by decide +kernel

theorem wit_PacketResults_launch :
    (let b := pkt 1 2 0x1000 0 0
     let r := (recState b).resumeQueue 1 0
     (r.getQueue 1 0).slot = none ∧ okAnd (r.acceptLaunch 1 0 b) (fun _ => true) = true ∧
     (let u := ((recState b).mapQueue 1 0 fun x => { x with slot := some 9 }).resumeQueue 1 0
      (u.getQueue 1 0).slot ≠ none ∧ u.ringAt 1 0 = .packet 1 b)) := by decide +kernel

theorem wit_PacketResults_words :
    (let r (b : List Byte) : State := (pktState b).resumeQueue 1 0
     okAnd ((r (pkt 2 2 0x100 5 0)).wordDest 1 2 0x100 [21]) (fun _ => true) = true ∧
     okAnd ((r (pkt 2 2 0x100 5 1)).wordDest 1 2 0x100 [21, 22]) (fun pa => ((r (pkt 2 2 0x100 5 1)).badIn pa 8).isNone) = true ∧
     okAnd ((r (pkt 3 2 0x100 0 0)).waitWord 1 (pkt 3 2 0x100 0 0)) (fun w => decide (0 ≤ w)) = true ∧
     okAnd ((r (pkt 3 2 0x100 1 1)).waitWord 1 (pkt 3 2 0x100 1 1)) (fun w => decide (w ≠ 1)) = true ∧
     okAnd ((r (pkt 9 2 8 0 0)).wordDest 1 2 8 [21]) (fun _ => true) = true ∧
     okAnd ((r []).lookupHandle 1 2) (fun x => ODesc.ok x.2) = true) := by decide +kernel

/-- A COPY of 16 bytes from object 0 to object 2 (R60). -/
def copyPkt : List Byte :=
  leBytes 64 (4 + 2 * 2 ^ 24 + 0x40 * 2 ^ 64 + 2 * 2 ^ 128 + 0x80 * 2 ^ 192 + 16 * 2 ^ 256)

theorem wit_PacketResults_copy :
    (let b := copyPkt
     let r := (pktState b).resumeQueue 1 0
     r.ringAt 1 0 = .packet 4 b ∧ field b 0x20 8 ≠ 0 ∧ field b 0x20 8 ≤ 2 ^ 40 ∧
     okAnd (r.locCheck 1 (pktHandle b) (pktOff b) (field b 0x20 8) [20] 4) (fun _ => true) = true ∧
     okAnd (r.locCheck 1 (field b 0x10 4) (field b 0x18 8) (field b 0x20 8) [21] 0x10) (fun _ => true) = true) := by decide +kernel

theorem wit_PacketResults_pin :
    (let b := pkt 7 2 0 0x10000 0
     let r := (recState b).resumeQueue 1 0
     okAnd (r.pinRange 1 b) (fun rs => decide ((r.getPart 1).pinUsed + rs.length ≤ (r.getPart 1).desc.pinq * 16)) = true ∧ pktValue b ≠ 0 ∧
     okAnd (r.locate 1 (pktHandle b) (pktOff b) (pktValue b) [20] 4) (fun _ => true) = true ∧ r.envState 1 0 ≠ 0 ∧ r.envState 1 1 = 0 ∧
     (r.getQueue 1 0).started = [] ∧ 7 < (r.getPart 1).desc.mailboxes ∧
     (match r.validateRecord 1 2 0x1000 false with
      | .ok k => k.gridX == 1 && k.gridY == 1
      | .fail _ => false
      | .ecc _ => false) = true ∧
     ((recState (leBytes 32 (1 + 2 ^ 24 + 2 ^ 16))).resumeQueue 1 0).ringAt 1 0 = .stop (.fail (.ill 2))) := by decide +kernel

/-- An open packet. -/
def openOf (typ : Nat) (b : List Byte) (l : Option Nat) : OpenPacket :=
  { id := 5, typ := typ, rd := 0, body := b, launch := l, waitsFor := [], cursor := 0, stuck := false }

/-- The state whose queue 0 of partition 1 has it under way, and whose launch 0 is done. -/
def openState (k : OpenPacket) : State :=
  let s := (pktState []).mapQueue 1 0 fun x => { x with started := [k] }
  { s with launches := s.launches.map fun l => { l with finished := 1 } }

theorem wit_PacketResults_completion :
    (let s := openState (openOf 1 (pkt 1 2 0x1000 0 0) (some 0))
     (s.launch? 0).any (fun l => decide (l.prm.gridX * l.prm.gridY ≤ l.finished) && l.rast.isNone) = true ∧
     ((s.getQueue 1 0).started.find? fun k => k.launch == some 0) = some (openOf 1 (pkt 1 2 0x1000 0 0) (some 0)) ∧
     ((pktState []).launch? 0).any (fun l => decide (l.finished < l.prm.gridX * l.prm.gridY)) = true ∧ s.fetches 1 0 = true) ∧
    (let b := pkt 3 2 0x100 0 0
     let s := (pktState []).mapQueue 1 0 fun x => { x with unmet := some b }
     s.works 1 0 = true ∧ (s.getQueue 1 0).unmet = some b ∧ okAnd (s.waitWord 1 b) (fun _ => true) = true) ∧
    (let k := openOf 4 copyPkt none
     let r := (openState k).resumeQueue 1 0
     ((r.getQueue 1 0).started.find? fun k => k.typ == 4 && !k.stuck) = some k ∧
       (State.copyOn 1 k.body (field k.body 0x20 8 - k.cursor) r k.cursor).2.2 = none) ∧
    (let k := openOf 6 (pkt 6 0 0 0 0x101) none
     ((openState k).getQueue 1 0).started.find? (fun k => k.typ == 6 && !(openState k).entryRequired 1 (bits (pktOp k.body) 11 8)) = some k) := by
  decide +kernel

theorem wit_PacketResults_mailbox :
    (let s := (pktState []).mapMailbox 1 7 fun x => { x with binding := some (loadRec, 0), count := 2 }
     ((s.getPart 1).mailboxes[7]?).any (fun x => x.binding.isSome && decide (x.count ≠ 0) && x.slot.isNone) = true ∧ s.boot.stat = 0 ∧
     (s.getPart 1).st = .runnable ∧ 1 < s.parts.length ∧ ∀ l ∈ s.launches, l.id ≠ s.nextId) := by decide +kernel

/-! Placement, starts, runs and departures. -/

/-- A launch that is ready in the slot of queue 0, with a deficit. -/
def readyState : State :=
  let s := { recState [] with teams := [], nbs := [], launches := [] }
  match s.acceptLaunch 1 0 (pkt 1 2 0x1000 0 0) with
  | .ok t => t.mapQueue 1 0 fun x => { x with deficit := 5 }
  | .error _ => s

theorem wit_PlacementResults_launch :
    (let s1 := readyState.settleTimers
     (∀ c < 4, (pktState []).settleTimers.classWork c = false) ∧ s1.classOrder.head?.isSome = true ∧
     (s1.classOrder.find? fun c => s1.classWork c) = some 0 ∧ s1.returnsOf 0 = [] ∧ (s1.readyOf 0).length = 1 ∧
     (s1.readyOf 0).all (fun l => decide (l.queue < 16) && decide (0 < (s1.getQueue l.part l.queue).deficit) &&
       (s1.findPlace (fun _ => false) false l.part l.prm none == some (0, 0)) && decide (0 < l.prm.t)) = true) := by decide +kernel

/-- A neighbourhood of launch 0 that waits on the return list. -/
def returnState : State :=
  let s := { pktState [] with teams := [], nbs := [{ loadNb 0 0 with phase := .waiting }] }
  s.mapPart 1 fun x => { x with returns := [1] }

theorem wit_PlacementResults_return :
    (let s1 := returnState.settleTimers
     (s1.classOrder.find? fun c => s1.classWork c) = some 0 ∧ (s1.returnsOf 0).length = 1 ∧
     (s1.returnsOf 0).all (fun e => s1.findPlace (fun _ => false) false e.1.part e.2.prm (some e.1) == some (0, 0)) = true) := by
  decide +kernel

theorem wit_TimersWinchAndStarts_timers :
    (let s := { memState teamA with starveFrom := [none, none, some 0, none], clk := 6000000 }
     (s.settleTimers.starveFrom[2]?.getD none).any (fun k => decide (s.settleTimers.starve * 2600 ≤ s.settleTimers.clk - k)) = false ∧
     State.reset.settleTimers.starveFrom[2]?.getD none = none ∧ (s.winch[7]?).any (fun w => decide (w.window + 256 ≤ s.clk)) = true ∧
     (State.reset.winch[7]?).any (fun w => decide (0 < w.window + 256)) = true ∧ s.winch[8]? = none ∧ s.boot.stat = 0 ∧
     (let v : DWord := 0x010203
      v.toNat % 64 ≠ 0 ∧ v.toNat / 256 % 64 ≠ 0 ∧ v.toNat / 65536 % 64 ≠ 0) ∧ (0x0102 : DWord).toNat / 65536 % 64 = 0) := by
  decide +kernel

/-- Work in class 1 that has waited since clk 0. -/
def starvedState : State :=
  let ls : List Launch := returnState.launches.map fun l => { l with cls := 1 }
  { returnState with launches := ls, starveFrom := [none, some 0, none, none], clk := 0x7D0 * 2600 }

theorem wit_TimersWinchAndStarts_starved :
    (let s1 := starvedState.settleTimers
     (s1.starveFrom[1]?.getD none) = some 0 ∧ starvedState.starve * 2600 ≤ starvedState.clk - 0) := by decide +kernel

theorem wit_TimersWinchAndStarts_start :
    (let s := { returnState with nbs := [{ loadNb 0 0 with phase := .requested }] }
     (s.nb? 1).any (fun n => decide (n.phase = .requested) && (s.launch? n.launch).any fun l =>
       (s.reloadsFor n.part l.prm (l.prm.coresAt n.x n.y)).isEmpty && !s.homeFirst (l.prm.coresAt n.x n.y) && s.windowed n.y l.prm.h &&
       decide (s.heldRows n.y l.prm.h ≠ [])) = true ∧
     (let u := { s with winch := modifyAt s.winch 0 fun w => { w with budget := 1 } }
      (u.nb? 1).any (fun n => (u.launch? n.launch).any fun l => (u.heldRows n.y l.prm.h).isEmpty && n.saved.isEmpty && n.pads.isEmpty &&
        n.retired.isEmpty && decide (0 < l.prm.teams)) = true ∧ u.nbTeams 1 = []) ∧
     (let u := { s with nbs := [{ loadNb 0 0 with reloads := [(0, 0, 3)] }] }.mapSlot 0 0 fun x => { x with reloading := true }
      (u.getSlot 0 0).reloading = true ∧ (u.getSlot 0 0).tris = [] ∧ (u.getSlot 0 0).queue = [] ∧
        (u.nbs.findSome? fun n => (n.reloads.find? fun r => r.1 == 0 && r.2.1 == 0).map fun r => (n.part, r.2.2)) = some (1, 3))) := by
  decide +kernel

/-- A team that holds no port, and the state in which its core's clock runs. -/
def teamIdle : Team := { teamM with port := none }

def runState (t : Team) : State := (memState t).mapCore 0 fun c => { c with clocked := true }

theorem wit_RunsAndDepartures_runs :
    (let t := teamIdle
     let s := runState t
     s.team? 2 = some t ∧ s.portFree t.core 0 = true ∧ s.mayRun t = true ∧ t.due = none ∧ t.async = none ∧
     (∀ x ∈ s.teams, x.core = t.core → x.uid ≠ t.uid → s.mayRun x = true → s.precedes x t = true → s.operandsReady x = false) ∧ s.operandsReady t = true ∧
     (let u : Team := { teamM with runLen := 24, runClk := 0 }
      { runState u with clk := 2 ^ 24 }.team? 2 = some u ∧ 24 ≤ u.runLen ∧ u.port.isSome = true ∧ u.runClk + 2 ^ 24 ≤ 2 ^ 24) ∧
     teamM.runLen < 24 ∧
     (let u : Team := { teamIdle with status := .retiring }
      (runState u).team? 2 = some u ∧ u.status = .retiring ∧ u.drained = true ∧ (runState u).hasWork 2 = false)) := by decide +kernel

/-- A team of the smallest frame whose launch saves into object 2. -/
def teamS : Team :=
  { teamStart { recOf 4 with vregs := 8, aregs := 0, sregs := 0, savef := Cap.make 2 0x03 0 0x10000 }
      { uid := 2, part := 1, launch := 0, nb := 1, grid := 0, rank := 0, core := 0, slot := 0 } none 0 with runs := 1 }

theorem wit_RunsAndDepartures_evict :
    (let t : Team := { teamS with status := .parked 7, parkClk := 0 }
     let s := { runState t with clk := 0x14 * 2600 + 1 }
     s.team? 2 = some t ∧ t.parkClk + s.parkLim * 2600 < s.clk ∧ s.saveReady t 3 = true ∧ s.sliceChosen t.part t.nb = false ∧
     (s.saveFrame t 3 none).any (fun r => (r.saved? 2).isSome) = true ∧ { s with clk := 0 }.clk ≤ t.parkClk + s.parkLim * 2600) := by
  decide +kernel

/-- The resident neighbourhood 1 of launch 0, and neighbourhood 9 of launch 8 at the head of the return list; one core, whose
SRAM one of the two nearly fills (L1FLOOR of 310 KiB). -/
def sliceState : State :=
  let s := { runState { teamS with prm := { teamS.prm with l1floor := 310 } } with clk := 0x64 * 2600 }
  { (s.mapPart 1 fun x => { x with returns := [9] }) with
      nbs := s.nbs ++ [{ loadNb 0 0 with id := 9, launch := 8, phase := .waiting }]
      launches := s.launches.map (fun l => { l with prm := { l.prm with l1floor := 310, savef := teamS.prm.savef } }) ++
        [{ loadLaunch 0 with id := 8, prm := { teamS.prm with l1floor := 310 } }] }

theorem wit_RunsAndDepartures_slice :
    (let s := sliceState
     (s.getPart 1).st = .runnable ∧ (s.getPart 1).returns.head? = some 9 ∧ (s.nb? 9).any (fun n => (s.launch? n.launch).any fun l =>
       (s.findPlace (fun _ => false) false 1 l.prm (some n)).isNone &&
       (s.findPlace (s.sliceable 1) false 1 l.prm (some n) == some (0, 0)) &&
       (s.pendingOn (l.prm.coresAt 0 0)).isEmpty &&
       ((s.nbs.filterMap fun v => match s.launch? v.launch with
          | none => none
          | some lv => if s.sliceable 1 v && s.holdsCores v lv (l.prm.coresAt 0 0) then some (v, lv) else none).map fun x => x.1.id) == [1]) = true ∧
     (∀ t ∈ s.nbTeams 1, t.due = none ∧ s.saveReady t 1 = true) ∧
     (s.nb? 1).any (fun v => (s.launch? v.launch).any fun lv => okAnd (s.sliceNb lv v) fun r => (r.nb? v.id).isSome) = true) := by decide +kernel

/-- Partition 2, whose neighbourhood 9 waits for the core that partition 1 holds; its slice is over, and it has a ballast area. -/
def switchState : State :=
  let s := { runState teamS with clk := 0x400 * 2600 }
  let away : Partition := { loadPart with returns := [9] }
  { (s.mapPart 1 fun x => { x with balBase := 0x100000, balLen := 0x100000 }) with
      parts := (s.mapPart 1 fun x => { x with balBase := 0x100000, balLen := 0x100000 }).parts ++ [away]
      nbs := s.nbs ++ [{ loadNb 0 0 with id := 9, launch := 8, phase := .waiting, part := 2 }]
      launches := s.launches ++ [{ loadLaunch 0 with id := 8, part := 2 }] }

theorem wit_RunsAndDepartures_switch :
    (let s := switchState
     let cores := (s.getPart 2).desc.cores
     (s.getPart 2).st = .runnable ∧ cores = [0] ∧ (s.switchRank 2).isSome = true ∧ s.switchRank 1 = none ∧ s.switchRank 0 = none ∧
     (∀ q < 129, s.switchRank q = none ∨ q = 2) ∧
     s.outgoing 2 cores ≠ [] ∧ (∀ q ∈ s.outgoing 2 cores, s.mayLeave cores q = true) ∧ s.islandsQuiet 2 cores = true ∧
     (∀ t ∈ s.teams, t.part ≠ 2 → t.core ∈ cores → t.due = none ∧ s.saveReady t 2 = true) ∧
     (∀ e ∈ s.leavingNbs 2 cores, ∀ t ∈ s.nbTeams e.1.id, t.core ∉ cores → t.port = none)) := by decide +kernel

/-- A woken team of partition 1 that left its core with its frame in the SAVEF object. -/
def evictedState : State :=
  match (runState { teamS with status := .parked 7 }).saveFrame { teamS with status := .parked 7 } 3 none with
  | some s => { s.mapPart 1 (fun x => { x with deferred := [⟨1, 0, 0, 0x30, 0, 7, true⟩] }) with
      winch := modifyAt s.winch 0 fun w => { w with budget := 1 } }
  | none => State.reset

theorem wit_RunsAndDepartures_return :
    (let s := evictedState
     (s.getPart 1).deferred = [⟨1, 0, 0, 0x30, 0, 7, true⟩] ∧ (s.nb? 1).any (fun n => decide (n.phase = .resident) &&
       (n.saved.find? fun v => v.rank == 0).isSome && (s.launch? n.launch).any fun l => (s.reloadsFor 1 l.prm [0]).isEmpty) = true ∧
     (s.comesHome 1 ⟨1, 0, 0, 0x30, 0, 7, true⟩).any (fun x => x.2.2.2.2.isEmpty) = true ∧ (s.getPart 1).st = .runnable ∧
     s.windowed 0 1 = true ∧ s.heldRows 0 1 = []) := by decide +kernel

/-- A write-through store at 0x20000 that is first in its queue. -/
def storeOf (k : StoreKind) : StoreEntry :=
  { seq := 0, kind := k, handle := 1, off := 0, pa := 0x20000, bytes := [1, 2, 3, 4], lane := 0, hint := 0 }

theorem wit_DrainAndLoadResults_stores :
    (let e := storeOf .writeThrough
     let t : Team := { teamM with storeQ := [e] }
     let s := memState t
     s.team? 2 = some t ∧ t.storeQ[0]? = some e ∧ t.mayDrain 0 e = true ∧ s.registry = [] ∧
     s.sentBefore t.core e.seq e.pa e.bytes.length = false ∧ s.drainBad t e = none ∧
     (∀ w ∈ wordsOf e.pa e.bytes.length, (s.getCore t.core).l1For? t.part w = none) ∧
     okAnd (s.lookupHandle t.part e.handle) (fun x => decide (ODesc.faAddr x.2 + 8 * (e.off / 2 ^ ODesc.pageShift x.2) ≠ 0x5000)) = true ∧
     (let u : Team := { teamM with storeQ := [storeOf .fence] }
      (memState u).team? 2 = some u ∧ u.mayDrain 0 (storeOf .fence) = false) ∧
     (let u : Team := { teamM with winStores := [{ seq := 0, rank := 0, off := 4, bytes := [1, 2] }] }
      (memState u).team? 2 = some u ∧ u.storeQ = [] ∧ u.loads = [] ∧ u.atomics = [])) := by decide +kernel

/-- A load of one word into V8 that has not performed. -/
def loadOf (p : Place) : PendLoad := { boundedLoad none with place := p, bound := none }

theorem wit_DrainAndLoadResults_loads :
    (let p := loadOf (.obj 1 0 0x20000)
     let t : Team := { teamM with loads := [p] }
     let s := memState t
     s.team? 2 = some t ∧ p.got = none ∧ t.atomics = [] ∧ t.winStores = [] ∧ t.storeQ = [] ∧ p.bound = none ∧ s.loadBad t p 1 0 0x20000 = none ∧
     s.sentBefore t.core p.seq 0x20000 p.size = false ∧ s.servedLocal t p 0x20000 = false ∧
     (let w : Team := { t with uid := 9, slot := 1 }
      let v := { s with teams := [{ t with loads := [{ p with seq := 5 }] }, w] }
      v.sentBefore 0 5 0x20000 p.size = true) ∧
     (s.getCore t.core).l1 = [] ∧
     (let b := { boundedLoad none with bound := some (0, false) }
      let u : Team := { teamM with loads := [b] }
      let v := (memState u).mapCore 0 fun c => c.setL1 { part := 1, handle := 1, addr := 0x8000, st := .round 3, data := 7, dirty := 0 }
      v.team? 2 = some u ∧ v.boundValue u b 1 0 0x20000 0 false = some 7 ∧ v.boundBad u b 1 0 0x20000 0 = none ∧ v.boundLocal u b 0x20000 0 = true ∧
      (memState u).boundLocal u b 0x20000 0 = false ∧ ((memState u).boundValue u b 1 0 0x20000 0 false).isSome = true ∧
      (memState u).boundBad u b 1 0 0x20000 0 = none ∧ (memState u).sentBefore u.core b.seq 0x20000 4 = false) ∧
     (let u : Team := { teamM with loads := [loadOf (.scratch 0 8)] }
      (memState u).team? 2 = some u)) := by decide +kernel

theorem wit_AtomicResults_values :
    (3 : Nat) < 2 ^ (8 * 4) ∧ atomicOp 9 4 3 5 3 = some 5 ∧ atomicOp 9 4 3 5 4 = none ∧ diminWins 0 (0x3F800000 * 2 ^ 32) = true ∧
    (un32 (BitVec.ofNat 32 (0x7FC00000 * 2 ^ 32 / 2 ^ 32))).isNaN = true ∧ diminWins (0x7FC00000 * 2 ^ 32) 0 = false := by decide +kernel

/-- An atomic add of 5 that has not performed. -/
def atomicOf (op : Nat) (p : Place) : PendAtomic :=
  { seq := 0, place := p, size := 4, op := op, b := 5, c := 9, target := (boundedLoad none).target, loc := false, acquire := false
    release := false, hint := 0 }

theorem wit_AtomicResults :
    (let s (a : PendAtomic) : State := memState { teamM with atomics := [a] }
     let obj := Place.obj 1 0 0x20000
     let pad := Place.scratch 0 8
     (∀ a ∈ [atomicOf 0 obj, atomicOf 9 obj, atomicOf 0 pad, atomicOf 9 pad],
       (s a).team? 2 = some { teamM with atomics := [a] } ∧ ({ teamM with atomics := [a] } : Team).mayAtomic 0 a = true ∧ a.acquire = false) ∧
     (∀ a ∈ [atomicOf 0 obj, atomicOf 9 obj], (s a).entryBad 1 1 0 = none ∧ (s a).sentBefore 0 a.seq 0x20000 a.size = false) ∧
     (s (atomicOf 0 obj)).badIn 0x20000 4 = none ∧ (s (atomicOf 0 obj)).registry = [] ∧ ((s (atomicOf 0 obj)).getCore 0).l1 = [] ∧
     atomicOp 0 4 ((s (atomicOf 0 obj)).homeNat 0x20000 4) 5 9 = some 5 ∧ atomicOp 9 4 ((s (atomicOf 9 obj)).homeNat 0x20000 4) 5 9 = none ∧
     (0x20000 : Nat) % 4 = 0 ∧ atomicOp 9 4 (cellNat 0 ((s (atomicOf 9 pad)).pad 1 0) 8 4) 5 9 = none) := by decide +kernel

/-- A word that core 0 holds, owned and dirty in byte 1. -/
def wordOwned : L1Word := { part := 1, handle := 1, addr := 0x8000, st := .owned, data := 0x1234, dirty := 2 }

theorem wit_CacheAndWaitResults_l1 :
    (let s := ((memState teamM).mapCore 0 fun c => c.setL1 wordOwned).setOwner 0x8000 (some (.core 0))
     (s.getCore 0).l1Word? (0x20000 / 4) = some wordOwned ∧ s.owner (0x20000 / 4) = some (.core 0) ∧ 0 < s.cores.length ∧
     (s.getCore 0).l1Word? (0x20004 / 4) = none ∧ s.owner (0x20004 / 4) = none ∧
     (let v := (memState teamM).mapCore 0 fun c => c.setL1 { wordOwned with st := .valid }
      (v.getCore 0).l1Word? (0x20000 / 4) = some { wordOwned with st := .valid }) ∧
     (let v := (memState teamM).mapCore 0 fun c => c.setL1 { wordOwned with st := .round 3 }
      (v.getCore 0).l1Word? (0x20000 / 4) = some { wordOwned with st := .round 3 }) ∧
     (let t : Team := { teamM with storeQ := [storeOf .rrel] }
      (memState t).team? 2 = some t ∧ t.olderDone 0 = true ∧
        okAnd ((memState t).lookupHandle t.part 1) (fun x => ((memState t).halo? x.2).isSome) = true ∧
        (memState t).releaseBad t 1 = none) ∧
     (s.core? 0).any (fun c => decide (s.clk < c.adjClk + 65536) && decide (c.adjClk + 65536 ≤ 2 ^ 16)) = true) := by decide +kernel

theorem wit_CacheAndWaitResults_waits :
    (let t : Team := { teamM with inLdb := true, loads := [boundedLoad none] }
     let s := { memState t with clk := 2 ^ 26 }
     s.team? 2 = some t ∧ (boundedLoad none).bound.isSome = true ∧ t.sleepClk + 2 ^ 21 ≤ s.clk ∧
     (let u : Team := { teamM with status := .waitTags 2 0 }
      { memState u with clk := 2 ^ 26 }.team? 2 = some u ∧ 2 ^ 25 ≤ { memState u with clk := 2 ^ 26 }.sleptClk u ∧ (memState u).sleptClk u < 2 ^ 25 ∧
        u.prm.trapEnt ≠ 0xFFFFFFFF ∧ u.inTrap = false ∧ callCount u.stack < 64 ∧ u.stack.length < depthLimit u.lanes) ∧
     (let u : Team := { teamC with status := .waitWord 20 6 4 0 }
      { memState u with clk := 2 ^ 26 }.team? 2 = some u ∧ 2 ^ 25 ≤ { memState u with clk := 2 ^ 26 }.sleptClk u)) := by decide +kernel

theorem wit_CacheAndWaitResults_word :
    (let t : Team := { teamC with status := .waitWord 20 6 4 0 }
     let s := memState t
     let t0 : Team := { t with status := .running, slept := s.sleptClk t }
     let s0 := s.setTeam t0
     s.team? 2 = some t ∧ t.loads = [] ∧ t.atomics = [] ∧ t.winStores = [] ∧ t.storeQ = [] ∧ t.noStep ∧
     okAnd (s0.access t0 (t.readC 4) [20] 8 0x30 false [(0, (t.readS 20).toNat)]) (fun l => l.length == 1 && l.all fun a =>
       let p : PendLoad := { seq := s.nextSeq, place := .obj 2 a.off a.xl.pa, size := 8, signed := false, rq := 1, hint := 0
                             target := { cls := 0, reg := 0, lane := 0, ySlot := 2, first := false, n := 0 }, bound := none, got := none }
       (s0.loadBad t0 p 2 a.off a.xl.pa).isNone && !s0.sentBefore t.core p.seq a.xl.pa 8 && !waitHolds 0 (leNat ((s0.accessL1 t.core t.part a.xl.pa 8).loadBytes t0 p 2 a.off a.xl.pa).2) (t.readS64 12) &&
         waitHolds 0 (leNat ((s0.accessL1 t.core t.part a.xl.pa 8).loadBytes t0 p 2 a.off a.xl.pa).2) (t.readS64 6) &&
         decide (t0.watch true false 2 8 [a] = [])) = true) := by decide +kernel

/-- A wait-table entry whose record has not been posted, in a batch that is over, and one record that waits for the queue. -/
def batchState (ws : List WaitEntry) (rs : List FaultRec) : State :=
  let s := { (memState teamM).mapCore 0 (fun c => { c with waits := ws, batchClk := some 0 }) with clk := 2 * 2600 }
  s.mapPart 1 fun x => { x with records := rs }

theorem wit_FaultQueueResults :
    (let e : WaitEntry := { waitOf 1 0 with posted := false, part := 1 }
     let s := batchState [e] [FaultRec.of 0x30 1 7 1 0 0 0 0 0 0 0]
     let r := FaultRec.of 0x30 1 7 1 0 0 0 0 0 0 0
     let x := s.getPart 1
     (s.getCore 0).batchClk = some 0 ∧ 0 + 2 * 2600 ≤ s.clk ∧ (s.getCore 0).waits = [e] ∧ (s.getCore 0).batch.length ≤ 1 ∧
     { s with clk := 0 }.clk < 0 + 2 * 2600 ∧ 1 < s.parts.length ∧ x.records = [r] ∧ r.kind ≠ 2 ∧ 2 ≤ x.desc.fqLen ∧ x.fqRd < x.desc.fqLen ∧
     x.fqWr < x.desc.fqLen ∧ (x.fqWr + 1) % x.desc.fqLen ≠ x.fqRd ∧
     (let y := (s.mapPart 1 fun x => { x with fqRd := 1 }).getPart 1
      y.records = [r] ∧ (y.fqWr + 1) % y.desc.fqLen = y.fqRd)) := by decide +kernel

/-- A copy of 8 bytes from the scratchpad of rank 0 to that of rank 1. -/
def padCopy : EngineOp :=
  { id := 4, part := 1, uid := 2, nb := 1, rank := 0, pc := 0, tag := 3, hasTag := true, cw := none
    job := .pieces [{ src := .scratch 0, srcOff := 0, valid := 4, dst := .scratch 1, dstOff := 16, len := 8, lane := 0 }]
    hint := 0, after := 0, cursor := 0, done := false, parked := none, asking := none }

/-- Core 0 has these operations in its copy queue and its weight-buffer queue; rank 1 has a team of its own. -/
def engState (q w : List EngineOp) : State :=
  let s := memState teamM
  let two : Team := { teamM with uid := 9, rank := 1, slot := 1 }
  { s.mapCore 0 (fun c => { c with copyQ := q, wbQ := w }) with teams := s.teams ++ [two] }

theorem wit_EngineResults_copy :
    (let op := padCopy
     let s := engState [op] []
     (s.getCore 0).copyQ = [op] ∧ s.engReady op = true ∧ okAnd (s.startEng op) (fun k => (s.copyWork 0 k).2.2.isNone) = true ∧
     (s.rankTeam? op.nb 1).isSome = true ∧ (∀ x ∈ s.teams, ∀ y ∈ s.teams, x.uid = y.uid → x = y) ∧
     (let k := { op with parked := some 7 }
      ((engState [k] []).getCore 0).copyQ = [k] ∧ (engState [k] []).engReady k = false) ∧
     (let k := { op with done := true }
      ((engState [k] []).getCore 0).copyQ = [k] ∧ k.cw = none ∧ k.hasTag = true) ∧ op.done = false) := by decide +kernel

/-- The copy with a completion word in object 3, which has no descriptor, and one in object 2. -/
def padCopyCw (h : Nat) : EngineOp :=
  { padCopy with
      cw := some { handle := h, off := 8, canNotify := false, mailbox := none, pa := if h = 2 then some 0x30008 else none } }

theorem wit_EngineResults_word :
    (let k := { padCopyCw 2 with done := true }
     ((engState [k] []).getCore 0).copyQ = [k] ∧ (engState [k] []).cwBad k = none ∧
     { engState [k] [] with badBlocks := [(0x30000 / 64, 0)] }.cwBad k = some 0x30008 ∧
     (let u := padCopyCw 3
      (engState [u] []).engReady u = true ∧ okAnd ((engState [u] []).startEng u) (fun _ => true) = false) ∧
     (let j := { padCopy with job := .pieces [{ src := .obj 3, srcOff := 0, valid := 8, dst := .scratch 1, dstOff := 16
                                                len := 8, lane := 0 }] }
      okAnd ((engState [j] []).startEng j) (fun x => ((engState [j] []).copyWork 0 x).2.2.isSome) = true)) := by decide +kernel

/-- A weight-buffer operation at the head of its queue. -/
def wbOp (j : Job) : EngineOp := { padCopy with job := j, hasTag := false }

/-- The state whose object 2 starts with these bytes. -/
def wbState (op : EngineOp) (bs : List Byte) : State := (engState [] [op]).tableWrite 0x30000 bs

theorem wit_EngineResults_weights :
    (let op := wbOp (.weightLoad 2 0 0x10000 0 1)
     let s := wbState op (leBytes 4 0)
     (s.getCore 0).wbQ = [op] ∧ s.engReady op = true ∧ okAnd (s.loadTile 0 op.part op.nb op.hint 2 0 0x10000 0) (fun _ => true) = true ∧
     okAnd (s.loadTile 0 op.part op.nb op.hint 2 0 32 0) (fun _ => true) = false) := by decide +kernel

theorem wit_EngineResults_gather :
    (let op := wbOp (.weightGather 2 0 0 0x10000 0 32 0 none)
     let s := wbState op (leBytes 4 32)
     (s.getCore 0).wbQ = [op] ∧ s.engReady op = true ∧
     okAnd (s.gatherRead op 2 0 0x10000 0 64) (fun d => gatherOk d.2 && decide (bits d.2 388 388 = 0) && decide (bits d.2 31 0 ≤ 32) &&
       decide (0 + tileUnits (bits (bits d.2 391 384) 3 0) ≤ 1024)) = true ∧
     okAnd (s.gatherRead op 2 0 32 0 64) (fun _ => true) = false ∧
     okAnd ((wbState op (leBytes 16 (2 ^ 96))).gatherRead op 2 0 0x10000 0 64) (fun d => !gatherOk d.2) = true ∧
     (let c : GatherCur := { desc := 2 ^ 64, tile := 0, scale := 0, row := 0, entry := some (0, 1) }
      (s.gatherWork { op with job := .weightGather 2 0 0 0x10000 0 0 0 (some c) } 9 0 0x10000 0 0 { c with desc := 1 }).2.2.isSome = true) ∧
     0 < ceilDiv [(1 : Byte)].length 64 ∧ 5 < 32) := by decide +kernel

/-- A request of one lane with these words, sent to slot A. -/
def reqOf (c : Nat) (ws : List Word) (k : Nat) : IslandReq :=
  { id := 6, part := 1, uid := 2, nb := 1, rank := 0, slot := 0, pc := 0, cls := c, cap := capAll 0, line := 0, k := k, tag := 3
    pass := 0, last := true, after := 0, lanes := [{ lane := 1, words := ws }], helper := 0, result := [], bad := false, noted := []
    since := 0, parked := none, asking := none, fence := none,
    traps := [], missed := false, flagged := false, sync := false, launch := 0, env := 0, hint := 0 }

/-- The state whose slot A holds an envelope of the request's class, with object 2 in binding 0. -/
def islState (r : IslandReq) : State :=
  let cap (rs : List Word) : List Word :=
    (List.range 4).foldl (fun rs j => modifyAt rs j fun _ => BitVec.ofNat 32 ((capAll 2).toNat / 2 ^ (32 * j))) rs
  (slotState teamM r.cls [r]).mapSlot 0 0 fun x => { x with regs := cap x.regs }

theorem wit_EngineResults_islands :
    (let op := { padCopy with asking := some { cause := 0x30, handle := 2, page := 0, lane := 0, order := 0 } }
     let s := engState [op] []
     (s.getCore 0).copyQ = [op] ∧ (s.getCore 0).slotA.queue = [] ∧ (s.getCore 0).slotB.queue = [] ∧ (s.getCore 0).wbQ = [] ∧
     (s.getCore 0).openWaits.length < 64 ∧ 0 < s.cores.length ∧
     (let r := { reqOf 1 [1] 1 with lanes := [] }
      ((islState r).getSlot 0 0).queue = [r] ∧ r.out = false ∧ r.fence = none ∧ (islState r).team? r.uid = some teamM ∧
      (let x : AsyncTrap := { cause := 0x52, info := 1, handle := 0, lane := 1, pc := 0, agent := 2, cursor := 0 }
       ((islState { r with traps := [x] }).getSlot 0 0).queue = [{ r with traps := [x] }])) ∧
     (let ws := (List.range 64).map fun i => { waitOf 1 i with token := i }
      let v := (engState [op] []).mapCore 0 fun c => { c with waits := ws }
      64 ≤ (v.getCore 0).openWaits.length ∧ (v.getCore 0).waitFor? 1 (some (2, 0)) = none) ∧
     (let r := reqOf 1 [1] 1
      let v := { islState r with clk := 2 ^ 21 }
      (v.getSlot 0 0).queue = [r] ∧ (v.getSlot 0 0).tris = [] ∧ (v.getSlot 0 0).reloading = false ∧
      (v.getSlot 0 0).env = some (envOfClass 1) ∧ r.fence = none ∧ r.out = false ∧ r.traps = [] ∧ v.nextOf 0 0 = some 0 ∧ r.since + 100 + 2 ^ 20 ≤ v.clk ∧
      v.team? r.uid = some teamM ∧ teamM.status = .running ∧ teamM.async = none ∧ (islState r).clk < r.since + 100 + 2 ^ 20)) := by
  decide +kernel

theorem wit_IslandRequestResults_next :
    (let r := reqOf 1 [0x1E] 0
     let s := islState r
     s.nextOf 0 0 = some 0 ∧ r.sync = false ∧ r.noted = [] ∧ r.traps = [] ∧ s.loadsBefore r.uid r.after = true ∧ (s.getSlot 0 0).queue[0]? = some r ∧ s.submitted r.uid r.after = true ∧
     r.lanes = [⟨1, [0x1E]⟩] ∧ r.bad = false ∧ kindWords r.cls 0x1E r.k = some r.k ∧ (⟨1, [0x1E]⟩ : LaneReq).kind = 0xE ∧
     (⟨1, [0x1E]⟩ : LaneReq).word 0 < 128 ∧
     (let b := { r with bad := true }
      (islState b).nextOf 0 0 = some 0 ∧ ((islState b).getSlot 0 0).queue[0]? = some b) ∧
     (let l : LaneReq := ⟨1, [0x80F, 5]⟩
      let w := reqOf 1 l.words 0
      (islState w).nextOf 0 0 = some 0 ∧ ((islState w).getSlot 0 0).env = some (envOfClass 1) ∧ kindWords 1 0x80F 0 = some 0 ∧
        l.kind = 0xF ∧ l.word 0 < 4096 ∧ l.word 0 / 16 % 4 = 0 ∧ regwListed (envOfClass 1) (l.word 0 / 16) = true)) := by decide +kernel

/-- A failure that the request answers for. -/
def isFail {α : Type} (x : Except EngStop α) : Bool :=
  match x with
  | .error (.fail _) => true
  | .error (.ecc _) => false
  | .error .hang => false
  | .ok _ => false

/-- A blend of object 2's first pixel, a resolve into it, and a composition of its list, which is empty, end well; a request with a
bit set that its KIND keeps zero fails. -/
theorem wit_IslandRequestResults_classes :
    (let ok (f : State → IslandReq → LaneReq → Except EngStop (State × List Word)) (r : IslandReq) : Bool :=
       match r.lanes with
       | l :: _ => okAnd (f (islState r) r l) (fun _ => true) && decide (kindWords r.cls (l.words.headD 0) r.k = some r.k)
       | [] => false
     let bad (f : State → IslandReq → LaneReq → Except EngStop (State × List Word)) (r : IslandReq) : Bool :=
       match r.lanes with
       | l :: _ => isFail (f (islState r) r l) && decide (kindWords r.cls (l.words.headD 0) r.k = some r.k)
       | [] => false
     ok (State.blend 0 0) (reqOf 5 [1, 0, 0, 0] 0) = true ∧ ok (State.resolve 0 0) (reqOf 5 [2, 0, 64, 0] 0) = true ∧
     bad (State.blend 0 0) (reqOf 5 [0x81, 0, 0, 0] 0) = true ∧ bad (State.resolve 0 0) (reqOf 5 [0x82, 0, 64, 0] 0) = true ∧
     bad (State.texf 0 0) (reqOf 1 [0x11] 1) = true ∧ bad (State.texf 0 0) (reqOf 1 [0x12] 1) = true ∧
     bad (State.texf 0 0) (reqOf 1 [0x13] 1) = true ∧ bad (State.rast 0 0) (reqOf 2 [0x81] 0) = true ∧
     bad (State.trav 0 0) (reqOf 3 [0x21] 2) = true ∧ bad (State.trav 0 0) (reqOf 3 [0x22] 2) = true ∧
     bad (State.trav 0 0) (reqOf 3 [0x23] 2) = true ∧ bad (State.splat 0 0) (reqOf 4 [0x81] 2) = true ∧
     ((islState (reqOf 2 [0x81] 0)).getSlot 0 0).tris.length < 64) := by decide +kernel

/-- A right triangle with legs of four pixels (R201: 1/256 of a pixel), and a key search. -/
def triOf : TriSetup :=
  { v0 := ⟨0, 0, 0⟩, v1 := ⟨1024, 0, 0⟩, v2 := ⟨0, 1024, 0⟩, area := 1024 * 1024, x0 := 0, x1 := 3, y0 := 0, y1 := 3 }

def keyEnv : TravEnv :=
  { core := 0, slot := 0, part := 1, rd := { launch := 0, hint := 0 }, lane := 0, b0 := 0, kind := 3, ray := ⟨[], [], 0, 0⟩, key := 9 }

def noHit : Trav := { tcur := 0, hit := none, stack := [], stopped := false }

theorem wit_IslandArithmeticResults :
    edgeFn ⟨0, 0, 0⟩ ⟨4, 0, 0⟩ 2 0 = 0 ∧ triOf.covers 0 0 = true ∧ triOf.quads ≠ [] ∧
    (let k : Tri := { req := 6, uid := 2, tag := 3, part := 1, queue := 0, cls := 0, ident := 0, prm := teamM.prm, quads := triOf.quads, pc := 0 }
     (((memState teamM).mapSlot 0 0 fun x => { x with tris := [k] }).getSlot 0 0).tris = [k]) ∧
    (∀ j < 1, ([8, 9, 1, 2] : List Word)[j]? ≠ some keyEnv.key) ∧ ([8, 9, 1, 2] : List Word)[1]? = some keyEnv.key ∧
    (∀ j < 2, ([8, 7, 1, 2] : List Word)[j]? ≠ some keyEnv.key) ∧ keyEnv.kind = 3 ∧ ([8] : List Word).length = 2 - 1 ∧
    noHit.hit = none := by decide +kernel

/-! Barriers: the arrival that is not refused and the one that is, the team alone in its span, and the completion. -/

/-- Whether an existing instance refuses an arrival, as the statement says it, decided. -/
def refusedAt (s : State) (t : Team) (rect : Nat × Nat × Nat × Nat) (sub cls : Nat) : Bool :=
  (s.nb? t.nb).any fun nb => nb.barriers.any fun y =>
    (decide ((y.ox, y.oy, y.sw, y.sh) = rect ∧ y.n = 0) && y.arrivals.any fun a => a.sub != sub || a.cls != cls) ||
    (decide ((y.ox, y.oy, y.sw, y.sh) ≠ rect) && (t.prm.spanRanks y.ox y.oy y.sw y.sh).contains t.rank &&
      y.arrivals.any fun a => !y.departed.contains a.rank && (t.prm.spanRanks rect.1 rect.2.1 rect.2.2.1 rect.2.2.2).contains a.rank)

theorem wit_BarrierArrival_refused :
    (let t := teamA
     t.barrs = [] ∧ t.loads = [] ∧ t.atomics = [] ∧ t.storeQ = [] ∧ t.winStores = [] ∧
     refusedAt (stateOf t) t (0, 0, 1, 1) 0 0 = false ∧ refusedAt (barrierState t) t (0, 0, 1, 1) 0 0 = true ∧
     refusedAt (barrierState t) t (0, 0, 1, 1) 1 0 = false) := by decide +kernel

/-- The one team of its neighbourhood: its arrival completes the instance and it goes on with its payload. -/
theorem wit_BarrierArrival_alone :
    (let t := teamA.writeS 5 7
     let s := stateOf t
     s.uniformReady t [RegUse.dest 0 .s 4, RegUse.src 1 .s 5] ∧ t.prm.spanOf t.rank 0xC0 = some (0, 0, 1, 1) ∧
     (s.nb? t.nb).any (fun nb => nb.barriers.isEmpty && (s.launch? nb.launch).any fun l => decide (l.prm = t.prm)) = true ∧
     t.prm.spanRanks 0 0 1 1 = [t.rank] ∧ s.rankTeam? t.nb t.rank = some t ∧
     after (.barr true 0 4 (.s 5) 0xC0) t 0 (fun u => if u.pc = t.pc + 12 then u.readS 4 else 0) = 7) := by decide +kernel

/-- Two teams of one neighbourhood, the second of which has arrived with SUB 0 and 3 in its payload. -/
def pairRec : LaunchRec := { recOf 4 with w := 2 }

def pairTeam (rank : Nat) : Team :=
  teamStart pairRec { uid := 2 + rank, part := 1, launch := 0, nb := 1, grid := 0, rank := rank, core := rank, slot := 0 } none 0

def pairBarrier (payload : Word) : Barrier :=
  { ox := 0, oy := 0, sw := 2, sh := 1, n := 0, span := 0xC0, result := none, departed := []
    arrivals := [{ rank := 1, lanes := 4, sub := 0, cls := 0, payload := 3, exc := 0, causes := [] },
      { rank := 0, lanes := 4, sub := 0, cls := 0, payload := payload, exc := 0, causes := [] }] }

def pairWait (rank : Nat) : Team := { pairTeam rank with status := .waitBarrier 0 0 2 1 0 4 0 }

def pairState (l : List Arrival) : State :=
  (({ stateOf (pairWait 0) with teams := [pairWait 0, pairWait 1] }).mapNb 1 fun n =>
    { n with barriers := [{ pairBarrier 4 with arrivals := l }] })

theorem wit_BarrierCompletion :
    (let l := (pairBarrier 4).arrivals
     let s := pairState l
     (s.nb? 1).any (fun nb => decide (nb.barriers = [{ pairBarrier 4 with arrivals := l }]) &&
       (s.launch? nb.launch).any fun p => decide (
         ((p.prm.spanRanks 0 0 2 1).map fun r => s.lanesOfRank nb p.prm r).sum = (l.map (·.lanes)).sum)) = true ∧
     l ≠ [] ∧ (∀ a ∈ l, a.sub = 0) ∧ (l.map (·.rank)).Nodup ∧ (s.nbs.map (·.id)).Nodup ∧
     s.teams.Pairwise (fun a b => a.uid ≠ b.uid ∧ (a.nb, a.rank) ≠ (b.nb, b.rank)) ∧
     s.rankTeam? 1 0 = some (pairWait 0) ∧ s.rankTeam? 1 1 = some (pairWait 1) ∧ (pairWait 0).noStep ∧
     -- one arrival short: nothing happens
     (let u := pairState (l.take 1)
      (u.nb? 1).any (fun nb => (u.launch? nb.launch).any fun p => decide (
        ((p.prm.spanRanks 0 0 2 1).map fun r => u.lanesOfRank nb p.prm r).sum ≠ ((l.take 1).map (·.lanes)).sum)) = true) ∧
     -- a retired team counts no lane
     (let u : State := ({ s with teams := [pairWait 1] }).mapNb 1 fun n => { n with retired := [0] }
      u.rankTeam? 1 0 = none ∧ (u.nb? 1).any (fun nb => nb.retired.contains 0 && nb.saved.isEmpty) = true) ∧
     ((s.completeBarriers 1).teams.map fun t => (t.readS 4, t.pc)) = [(7, 12), (7, 12)]) := by decide +kernel

/-! The checks and the carry traps of the limb instructions. -/

/-- Two groups of two limbs; P1 holds in lanes 0 and 1, P2 in lane 0 alone, which splits group 0. -/
def teamSplit : Team := teamL.writeP 15 2 1

theorem wit_LimbChecks :
    (let t := teamSplit
     let u : Team := { teamSplit with limb := 0 }
     let m := t.execMask gNone
     (memState t).varyingReady t gP1 [RegUse.dest 0 .v 4, RegUse.src 1 .v 8, RegUse.src 2 .v 10] ∧
     (memState u).varyingReady u gP1 [RegUse.dest 0 .v 4, RegUse.src 1 .v 8, RegUse.src 2 .v 10] ∧ u.limb = 0 ∧ t.limb ≠ 0 ∧
     (encodeFields (.ladd true gP1 4 8 10 3 true false)).isSome = true ∧
     -- group 0 is the lowest that the mask splits
     (memState t).varyingReady t gNone [RegUse.src 1 .v 8, RegUse.src 2 .v 10] ∧ 0 < t.lanes / 2 ∧
     m.getLsbD 0 = true ∧ m.getLsbD 1 = false ∧
     -- no group is split, and the groups have no limb 2
     (memState t).varyingReady t gP1 [RegUse.dest 0 .v 8, RegUse.src 1 .v 10, RegUse.src 2 .v 10, RegUse.dest 3 .v 9] ∧
     (t.execMask gP1).getLsbD 0 = true ∧ (∀ k < 2, (t.execMask gP1).getLsbD (k * 2) = (t.execMask gP1).getLsbD (k * 2 + 1)) ∧
     2 ≤ (2 : BitVec 5).toNat) := by decide +kernel

/-- LADD carries in group 0; LSUB of the larger number from the smaller one borrows there. -/
theorem wit_LimbArithmeticResults_carry :
    (let t := teamL
     let m := t.execMask gP1
     t.limbShape m = none ∧ 2 ∣ t.lanes ∧ m.getLsbD 0 = true ∧ 0 < t.lanes ∧
     (memState t).varyingReady t gP1 [RegUse.dest 0 .v 4, RegUse.src 1 .v 8, RegUse.src 2 .v 10] ∧
     (memState t).varyingReady t gP1 [RegUse.dest 0 .v 4, RegUse.src 1 .v 10, RegUse.src 2 .v 8] ∧
     2 ^ 64 ≤ groupNum 2 (t.readV 8) 0 + groupNum 2 (t.readV 10) 0 ∧ groupNum 2 (t.readV 10) 0 < groupNum 2 (t.readV 8) 0 ∧
     -- and none in a group of zeros
     groupNum 2 (t.readV 8) 2 + groupNum 2 (t.readV 10) 2 < 2 ^ 64) := by decide +kernel

/-- The row byte of lane 0 of V40 has a scale type that the tile's format does not have. -/
theorem wit_ScaledMatrixResults_row :
    (let t := teamX.putV 3 40 [0x40, 0]
     let s := scaledState t
     let live := t.execMask .always &&& ~~~t.helper
     s.varyingReady t .always [vGroup 0 96 true 32, matUses false 8 0x19 31, RegUse.src 3 .v 40, RegUse.src 4 .s 6] ∧
     okAnd (s.matSetup t (t.execMask .always) 0x19 31 6 true false 8) (fun o => !o.q4 && decide (0 < o.nb)) = true ∧
     0 < t.lanes ∧ live.getLsbD 0 = true ∧ (laneWord (t.readV 40) 0).toNat / 2 ^ (8 * 0) % 256 / 64 ≠ 0) := by decide +kernel

/-! Save frames and the states of cores (R86, R87, R179 to R182). -/

/-- What a save of a team that leaves for its park limit writes. -/
def infoS : FrameInfo :=
  { reason := 1, parked := false, token := 0, pad := true, heldReqs := 0, heldOps := 0, held := 0, weight := none }

theorem wit_SaveAndRestore_save :
    (let t := teamS
     let s := runState t
     okAnd (s.freeFrame t.part t.prm.savef (frameLayout t.prm).size) (fun i => decide (i = 0)) = true ∧
     (s.withdraw t 1).2.1 = [] ∧ (s.withdraw t 1).2.2 = [] ∧ t.parkToken = none ∧ (s.withdraw t 1).1.freeCtr = 0 ∧ (s.nb? t.nb).isSome = true ∧
     okAnd ((s.withdraw t 1).1.frameWrite t.part 2 0 (frameChunks t infoS)) (fun _ => true) = true ∧
     -- frame 0 in use: frame 1 is the lowest free one
     okAnd ((s.tableWrite 0x30004 [1]).freeFrame t.part t.prm.savef (frameLayout t.prm).size) (fun i => decide (i = 1)) = true) := by
  decide +kernel

/-- The bytes that chunks in ascending order make, from position p. -/
def bytesOf : Nat → List (Nat × List Byte) → List Byte
  | _, [] => []
  | p, c :: cs => List.replicate (c.1 - p) 0 ++ (c.2 ++ bytesOf (c.1 + c.2.length) cs)

theorem wit_SaveAndRestore_frame :
    (let t := teamS
     let bs := bytesOf 0 (frameChunks t infoS)
     (∀ c ∈ frameChunks t infoS, (bs.drop c.1).take c.2.length = c.2) ∧ t.sreg.length = 64 ∧ t.areg.length = 32 ∧ t.creg.length = 16 ∧
     t.lines.length = 8 ∧ t.tags.length = 8 ∧ t.vreg.length = t.prm.vregs ∧ (∀ r ∈ t.vreg, r.length = t.lanes) ∧
     t.y0.length = t.lanes ∧ t.y1.length = t.lanes) := by decide +kernel

theorem wit_SaveAndRestore_restore :
    (let s := evictedState
     (s.nb? 1).any (fun n => n.barriers.isEmpty && decide (s.nb? n.id = some n) && n.saved.length == 1 && n.saved.all fun v =>
       decide (v.place = .frame 0) && (s.launch? n.launch).any fun l => (s.savedBad l n v).isNone &&
         ({ s with badBlocks := [(0x30000 / 64, 0)] }.savedBad l n v).isSome) = true) := by decide +kernel

theorem wit_SaveAndRestore_cores :
    (let s := switchState
     let away : State := s.mapPart 2 fun x => { x with ballast := [⟨0, Slot.reset, Slot.reset, [], [], []⟩] }
     0 < s.cores.length ∧ 1 < s.parts.length ∧ 2 < s.parts.length ∧ (s.getPart 1).st = .runnable ∧
     ((away.getPart 2).ballast.find? fun y => y.core == 0).isSome = true) := by decide +kernel

/-! Traps that a team cannot take. -/

theorem wit_TeamHalts :
    (let t := teamA
     let s := stateOf t
     { teamA with inTrap := true }.inTrap = true ∧ 64 ≤ (List.replicate 64 (entryOf .call 0x40 15 0)).countP (fun e => decide (e.kind = .call)) ∧
     depthLimit 4 < (List.replicate (depthLimit 4) (entryOf .join 0 15 0)).length + 1 ∧ loadRec.trapEnt = 0xFFFFFFFF ∧
     (∀ n ∈ s.nbs, n.id = t.nb → n.barriers = [])) := by decide +kernel

/-! Resets, the table port, the front end and the fault queue. -/

theorem wit_ResetAndBootResults_causes :
    (let s := stateOf teamA
     s.fuses.debugLock = false ∧ { s.fuses with debugLock := true }.debugLock = true ∧ s.ports.length = 2 ∧ (0 : Byte) ≠ 1) := by
  decide +kernel

theorem wit_TablePortResults_resetting :
    (let c : DWord := 0x04 * 2 ^ 56 + 2 ^ 48
     let s := ({ memState teamA with tbl := { State.reset.tbl with cmd := some c } }).mapPart 1 fun y => { y with st := .resetting }
     s.tbl.cmd = some c ∧ (s.getPart 1).st = .resetting ∧ s.boot.stat = 0 ∧ c.toNat = 0x04 * 2 ^ 56 + 1 * 2 ^ 48 ∧ s.tbl.stops = []) := by
  decide +kernel

/-- A WAIT for a value that the word does not reach, at the head of the queue, and the queue that waits at it. -/
theorem wit_PacketResults_unmet :
    (let b := pkt 3 2 0x100 9 0
     let r := (pktState b).resumeQueue 1 0
     ((pktState b).getQueue 1 0).unmet = none ∧ r.ringAt 1 0 = .packet 3 b ∧
     okAnd (r.waitWord 1 b) (fun w => decide (¬ pktValue b ≤ w)) = true ∧
     (let u := (pktState b).mapQueue 1 0 fun x => { x with unmet := some b }
      u.works 1 0 = true ∧ (u.getQueue 1 0).unmet = some b ∧ okAnd (u.waitWord 1 b) (fun w => !waitMet b w) = true)) := by
  decide +kernel

/-- A ring whose bytes lie in a bad block, and a packet that the checks refuse. -/
theorem wit_PacketResults_stops :
    (let s := { pktState (pkt 1 2 0x1000 0 0) with badBlocks := [(0x30000 / 64, 0)] }
     s.fetches 1 0 = true ∧ (s.resumeQueue 1 0).ringAt 1 0 = .stop (.ecc 0x30000) ∧ (s.getQueue 1 0).unmet = none) := by decide +kernel

/-- Two entries of one batch, of partition 1 and of partition 2, and a batch of two records that waits for the queue. -/
theorem wit_FaultQueueResults_batch :
    (let e : WaitEntry := { waitOf 1 0 with posted := false, part := 1 }
     let f : WaitEntry := { waitOf 2 1 with posted := false, part := 2 }
     let s := batchState [e, f] []
     (s.getCore 0).batchClk = some 0 ∧ 0 + 2 * 2600 ≤ s.clk ∧ 0 < s.cores.length ∧ 1 < s.parts.length ∧
     (let u := ({ batchState [e] [] with clk := 0 }).mapCore 0 fun c => { c with batch := List.range 32 }
      (u.getCore 0).batchClk = some 0 ∧ 32 ≤ (u.getCore 0).batch.length) ∧
     (let h : FaultRec := { FaultRec.of 0 2 0 0 0 0 0 0 0 0 0 with count := 1 }
      let r := FaultRec.of 0x30 1 7 1 0 0 0 0 0 0 0
      let v := batchState [] [h, r]
      let x := v.getPart 1
      let room (x : Partition) : Nat := x.desc.fqLen - 1 - (x.fqWr + x.desc.fqLen - x.fqRd) % x.desc.fqLen
      x.records = h :: ([r] ++ []) ∧ h.kind = 2 ∧ h.count = 1 ∧ 2 ≤ x.desc.fqLen ∧ x.fqRd < x.desc.fqLen ∧ x.fqWr < x.desc.fqLen ∧
        2 ≤ room x ∧ room { x with fqRd := 1 } < 2 ∧ 1 < x.desc.fqLen)) := by decide +kernel

/-! The device time and the credit of a queue. -/

theorem wit_EthernetResults_time :
    (let s := { ethState portOf with ethSync := true, devTime := 5 }
     s.ethSync = true ∧ s.devTime.toNat + 1000000 < (2000000 : DWord).toNat ∧ (1000 : DWord).toNat ≤ s.devTime.toNat + 1000000 ∧
     { s with ethSync := false }.ethSync = false ∧ { s with boot := { s.boot with stat := 1 } }.boot.stat ≠ 0 ∧ s.boot.stat = 0) := by
  decide +kernel

/-- Stream 0 of partition 1 in queue 5, which has a slope and owes credit. -/
theorem wit_EthernetResults_credit :
    (let x : Port := { portOf with idle := [1000, 1000, 1000, 1000], credit := [0, -5, 0, 0] }
     let s := { ethState x with streams := [{ part := 1, st := 0, entry := txEntry + 2 * 2 ^ 236 }] }
     let e := s.stream 1 0
     bits e 238 236 = 5 ∧ x.idleSlope 5 ≠ 0 ∧ x.credit[5 - 4]?.getD 0 < 0 ∧ x.hasCredit 3 = true ∧ txEn e = true ∧ s.live 1 0 = true ∧
     s.txSlot 1 e = .frame 60 0 ∧ x.sending 1 0 = false) := by decide +kernel

/-! Fences and range operations: the boundary cases. -/

/-- FENCE.REL with an earlier load out, and with a store that waits; a fence mark behind nothing is settled. -/
theorem wit_FenceAndRangeResults_rel :
    (let u : Team := { teamM with loads := [boundedLoad none] }
     let w : Team := { teamM with storeQ := [storeOf .writeThrough] }
     let s : State := { memState u with nextSeq := 1 }
     s.controlReady u [] ∧ u.storeQ = [] ∧ (boundedLoad none).seq < s.nextSeq ∧ (memState w).controlReady w [] ∧
     (storeOf .writeThrough).kind ≠ .fence) := by decide +kernel

/-- PREF through a capability without R, and through a handle that names nothing; the words of a whole range. -/
theorem wit_FenceAndRangeResults_pref :
    (let t := (teamM.writeS 6 8).writeS 7 16
     let us := [RegUse.src 1 .s 6, RegUse.src 2 .c 2, RegUse.src 3 .s 7]
     let u := t.writeC 2 (Cap.make 0 0 0 0x10000)
     let w := t.writeC 2 (capAll 3)
     (memState u).controlReady u us ∧ bit (Cap.rights (u.readC 2)) 0 = false ∧
     okAnd ((memState u).lookupHandle u.part 0) (fun x => ODesc.ok x.2 && ((memState u).haloBad x.2).isNone) = true ∧
     (memState w).controlReady w us ∧ okAnd ((memState w).lookupHandle w.part 3) (fun _ => true) = false ∧
     (memState w).walkBad w.part 3 = none ∧
     okAnd ((memState t).lookupHandle t.part 0) (fun x => ((memState t).rangeWords x.2 8 24).length == 4 &&
       ((memState t).rangeWords x.2 8 24).all fun k => ((memState t).badIn (4 * k.1) 4).isNone) = true) := by decide +kernel

/-- A uniform guard that is false, for the waits; an island request whose team has a load of an earlier order number. -/
theorem wit_WaitAndFenceResults_idle :
    (let t := teamC
     (memState t).controlReady t [] ∧
     (memState t).controlReady t [RegUse.src 1 .s 20, ⟨2, .s, 6, false, 2, 2⟩, RegUse.src 3 .c 4] ∧
     t.guardQ (.one ⟨true, 1⟩) = false) ∧
    (let u : Team := { teamM with loads := [boundedLoad none] }
     (memState u).loadsBefore 2 1 = false ∧ (memState u).loadsBefore 2 0 = true) := by decide +kernel

/-! Blocks that cannot be read, the order of the submissions of one clk, and scratchpads that are away. -/

/-- The state with one bad block. -/
def badAt (s : State) (pa : Nat) : State := { s with badBlocks := [(pa / 64, 0)] }

theorem wit_WaitAndFenceResults_marks :
    (let t := teamC
     let s := memState t
     let u := s.mapCore 0 fun c => { c with sentClk := s.clk, sent := [{ queue := 0, runClk := 9, port := 1, fence := false }] }
     s.controlReady t [] ∧ s.sentLate t.core ((queuesOf 3).map (t.sentTo true)) = false ∧ u.sentLate t.core ((queuesOf 3).map (t.sentTo true)) = true ∧
     ¬ u.inTurn t 0 ∧ u.inTurn t 3) := by decide +kernel

/-- Object 1's region belongs to an instance; an aligned store to it is foreign, and one that starts in object 0's page is not. -/
theorem wit_HostAndDisplayResults_foreign :
    (let s : State := { memState teamA with regions := [{ part := 1, obj := 1, tiles := [], attached := some 1 }] }
     (s.hostTouches 0x20000 8).findSome? (fun x => s.badIn x.entry 8) = none ∧ s.hostForeign 0x20000 8 = some (1, 0) ∧
     s.hostForeign 0x1FFF8 8 = none ∧ (s.hostTouches 0x1FFF8 8).findSome? (fun x => s.badIn x.entry 8) = none ∧
     s.homeCopyBad 0x10000 4 = none ∧ (badAt s 0x10000).homeCopyBad 0x10000 4 = some 0x10000) := by decide +kernel

theorem wit_HostAndDisplayResults_tables :
    (let s := dispState { outOf with flip := true }
     let u := s.mapPart 1 fun z => { z with flipHnd := [2, 0] }
     u.flipBad 0 { outOf with flip := true } = none ∧ (badAt u 0x1000).flipBad 0 { outOf with flip := true } = some 0x1010 ∧
     (badAt s 0x1000).scanBad outOf 0 16 = some 0x1010) := by decide +kernel

theorem wit_TableAndPageResults_blocks :
    (let s := cmdState 0x11 2 0 .runnable
     s.mapsBad = none ∧ s.mapBad 1 = none ∧ s.handlesBad 1 = none ∧ s.objBad 1 2 = none ∧ s.handleBad 1 2 = none ∧
     (badAt s 0x1000).handleBad 1 2 = some 0x1010 ∧ (badAt s 0x1000).handleBusy 1 (· == 2) = false) ∧
    (let s := { pktState [] with apertureGated := true }
     (s.getQueue 1 0).st ≠ .parked ∧ s.apertureGated = true ∧ (s.getPart 1).st = .runnable) := by decide +kernel

theorem wit_PacketResults_blocks :
    (let r := (recState []).resumeQueue 1 0
     r.walkBad 1 2 = none ∧ r.mapBad 1 = none ∧ r.badIn ((r.getPart 1).desc.mbxBase + 32 * 7) 32 = none ∧
     (openState (openOf 6 (pkt 6 0 0 0 0x101) none)).mapsBad = none) := by decide +kernel

theorem wit_PlacementResults_blocks :
    (let need : LaunchRec := { loadRec with enva := 0x80 }
     let ls : List Launch := readyState.launches.map fun l => { l with prm := need }
     let s : State := { readyState with launches := ls }
     (need.required 0).isSome = true ∧ s.workMapBad = none ∧ (badAt s 0x6000).workMapBad = some 0x6000 ∧ readyState.workMapBad = none ∧
     returnState.workMapBad = none ∧ (pktState []).workMapBad = none ∧ (readyState.settleTimers.readyOf 0).all readyState.settleTimers.servable = true ∧
     (readyState.getPart 1).ballast = [] ∧ (returnState.getPart 1).ballast = []) := by decide +kernel

theorem wit_TimersWinchAndStarts_blocks :
    (let s := { returnState with nbs := [{ loadNb 0 0 with phase := .requested }] }
     (s.nbs.all fun n => (s.launch? n.launch).all fun l => (s.neededMapBad n.part l.prm).isNone) = true ∧ s.mapBad 1 = none) := by
  decide +kernel

theorem wit_RunsAndDepartures_blocks :
    (let s := switchState
     (∀ e ∈ s.leavingNbs 2 [0], s.padsQuiet e [0] = true ∧ s.evictedReady e [0] 2 = true ∧ (e.1.phase = .resident → e.1.startClk ≠ s.clk)) ∧
     s.mapBad 2 = none) ∧
    (sliceState.nb? 1).any (fun v => (sliceState.launch? v.launch).any fun lv => sliceState.evictedReady (v, lv) (lv.prm.coresAt v.x v.y) 1) = true ∧
    (evictedState.nbs.all fun n => (evictedState.launch? n.launch).all fun l => (evictedState.neededMapBad 1 l.prm).isNone) = true := by
  decide +kernel

theorem wit_SaveAndRestore_touch :
    (let t := teamS
     let s := runState t
     let w := (s.touchStates t.part t.prm.savef (frameLayout t.prm).size 0).withdraw t 1
     w.2.1 = [] ∧ w.2.2 = [] ∧ (w.1.freeCtr = 0) ∧
     okAnd (w.1.frameWrite t.part 2 0 (frameChunks t infoS)) (fun _ => true) = true) := by decide +kernel

/-- Loads that wait: a bounded one behind an earlier fetch of its word, and a load behind an atomic on its word. -/
theorem wit_DrainAndLoadResults_waits :
    (let b := { boundedLoad none with bound := some (5, false), seq := 5 }
     let t : Team := { teamM with loads := [b] }
     let w : Team := { teamM with uid := 9, slot := 1, loads := [loadOf (.obj 1 0 0x20000)] }
     let s := { memState t with teams := [t, w] }
     s.team? 2 = some t ∧ s.boundLocal t b 0x20000 5 = false ∧ s.sentBefore t.core b.seq 0x20000 b.size = true) := by decide +kernel

theorem wit_CacheAndWaitResults_stale :
    (let t : Team := { teamM with inLdb := true, loads := [boundedLoad none] }
     let s := { memState t with clk := 2 ^ 26 }
     let u := s.mapCore 0 fun c => c.setL1 { part := 1, handle := 1, addr := 0x8000, st := .round 3, data := 7, dirty := 0 }
     s.boundValue t (boundedLoad none) 1 0 0x20000 0 true = none ∧ u.boundValue t (boundedLoad none) 1 0 0x20000 0 true = some 7 ∧
     u.team? 2 = some t ∧ (boundedLoad (some 7)).got = some 7) := by decide +kernel

/-- Rank 1 has left with its scratchpad: an operation that writes it waits. -/
theorem wit_EngineResults_pads :
    (let v : SavedTeam := { rank := 1, reason := 3, place := .ballast (pairTeam 1), status := .running, async := none, due := none, lanes := 4
                            uid := 9, core := 0, heldReqs := [], heldOps := [], lines := [], barrs := [], slept := 0
                            loads := [], parkCause := 0, parkKey := 0, token := 0, rounds := [], units := [] }
     let s := engState [padCopy] []
     let u : State := { s with teams := s.teams.take 1, nbs := s.nbs.map fun n => { n with saved := [v] } }
     padCopy.job.padsWritten = [1] ∧ s.padAway 1 0 = none ∧ (u.padAway 1 1).isSome = true ∧ u.engReady padCopy = false) := by decide +kernel

/-- An ISEND that is owed a line entry has not ended; a team with a request that hangs is owed one. -/
theorem wit_EngineResults_owed :
    (let r := reqOf 1 [1] 1
     let o : Owed := { req := r.id, tag := r.tag, pass := r.pass, word := 0, data := List.replicate 32 none }
     let t : Team := { teamM with lines := { entries := [], owed := [o] } :: teamM.lines.drop 1 }
     let s : State := { islState r with teams := [t] }
     (s.team? r.uid) = some t ∧ t.lines[0]? = some { entries := [], owed := [o] } ∧ s.isendDone r.id r.uid = false ∧
     (∀ q, q ∈ [(6, 2, 3), (6, 2, 3)] ↔ q = (6, 2, 3))) := by
  refine ⟨by decide +kernel, by decide +kernel, by decide +kernel, by simp⟩

/-! An image that passes: its signer's key and the R of its signature are the neutral element, and S is 0, so that it verifies whatever
it signs (R41, R42, R386). -/

theorem edAdd_neutral : edAdd (0, 1) (0, 1) = (0, 1) := by decide +kernel

theorem edMul_neutral : ∀ n k, edMul n k (0, 1) = (0, 1)
  | 0, _ => rfl
  | n + 1, k => by simp only [edMul, edAdd_neutral, edMul_neutral n]; split <;> rfl

theorem edMul_zero : ∀ n p, edMul n 0 p = (0, 1)
  | 0, _ => rfl
  | n + 1, p => by simp [edMul, edMul_zero n]

theorem edVerify_neutral (msg : List Byte) : edVerify (leBytes 32 1) msg (leBytes 64 1) = true := by
  have h1 : edDecode ((leBytes 64 1).take 32) = some (0, 1) := by decide +kernel
  have h2 : edDecode (leBytes 32 1) = some (0, 1) := by decide +kernel
  have h3 : leNat ((leBytes 64 1).drop 32) = 0 := by decide +kernel
  have h4 : 0 < edL := by decide +kernel
  simp only [edVerify, h1, h2, h3, edMul_zero, edMul_neutral, edAdd_neutral]
  simp [h4]

/-- Its 128 bytes of header: format 1, version 0, a body of 1 MiB, entry 0 (R42). -/
def goodHeader : List Byte := leBytes 128 (0x4B393646 + 2 ^ 32 + 2 ^ 20 * 2 ^ 96 + 2 ^ 256 + 2 ^ 512)

/-- Fuses that name its signer. -/
def goodFuses : Fuses := { State.reset.fuses with pkh := packBytes 512 (sha512 (leBytes 32 1)), svc := 0 }

theorem goodImage (img : List Byte) (h : img.take 128 = goodHeader) (hl : 128 + 2 ^ 20 ≤ img.length) :
    ∃ f, checkFirmware goodFuses img = some f := by
  have part (o n : Nat) (hn : o + n ≤ 128) : (img.drop o).take n = (goodHeader.drop o).take n := by
    rw [← h, List.drop_take, List.take_take, Nat.min_eq_left (by omega)]
  have num (o n : Nat) (hn : o + n ≤ 128) : field img o n = field goodHeader o n := by simp only [field, part o n hn]
  have hs : (img.drop 0x20).take 32 = leBytes 32 1 := (part 0x20 32 (by omega)).trans (by decide +kernel)
  have hg : (img.drop 0x40).take 64 = leBytes 64 1 := (part 0x40 64 (by omega)).trans (by decide +kernel)
  have f1 : field img 0 4 = 0x4B393646 := (num 0 4 (by omega)).trans (by decide +kernel)
  have f2 : field img 4 2 = 1 := (num 4 2 (by omega)).trans (by decide +kernel)
  have f3 : field img 6 2 = 0 := (num 6 2 (by omega)).trans (by decide +kernel)
  have f4 : field img 8 4 = 0 := (num 8 4 (by omega)).trans (by decide +kernel)
  have f5 : field img 0xC 4 = 2 ^ 20 := (num 0xC 4 (by omega)).trans (by decide +kernel)
  have f6 : field img 0x10 4 = 0 := (num 0x10 4 (by omega)).trans (by decide +kernel)
  have f7 : field img 0x14 12 = 0 := (num 0x14 12 (by omega)).trans (by decide +kernel)
  have hp : goodFuses.pkh = packBytes 512 (sha512 (leBytes 32 1)) := rfl
  have hv : goodFuses.svc = 0 := rfl
  have hl' : ¬ img.length < 0x80 + 2 ^ 20 := by omega
  simp only [checkFirmware, f1, f2, f3, f4, f5, f6, f7, hs, hg, hp, hv, hl', edVerify_neutral]
  simp

/-- A machine in recovery with such an image at 0x2000. -/
def recoveryState : State :=
  let s := State.reset.tableWrite 0x2000 goodHeader
  { s with boot := { Boot.reset with stat := 1 }, fuses := goodFuses }

theorem wit_ResetAndBootResults_image :
    (∃ f, checkFirmware goodFuses (goodHeader ++ List.replicate (2 ^ 20) 0) = some f) ∧
    (let s := recoveryState
     let n := 0x80 + min (s.homeNat 0x200C 4) 4194304
     s.boot.stat ≠ 0 ∧ 0x2000 < s.capacity ∧ s.badIn 0x2000 0x80 = none ∧ s.badIn 0x2000 n = none ∧
       ∃ f, checkFirmware s.fuses (s.homeBytes 0x2000 n) = some f) := by
  have hl : goodHeader.length = 128 := by decide +kernel
  have hn : 0x80 + min (recoveryState.homeNat 0x200C 4) 4194304 = 0x80 + 2 ^ 20 := by decide +kernel
  have hh : recoveryState.homeBytes 0x2000 128 = goodHeader := by decide +kernel
  have hb : recoveryState.badBlocks = [] := by decide +kernel
  refine ⟨goodImage _ (by rw [List.take_append_of_le_length (by omega), List.take_of_length_le (by omega)])
    (Nat.le_of_eq (by rw [List.length_append, hl, List.length_replicate])), ?_⟩
  simp only [hn]
  refine ⟨by decide +kernel, by decide +kernel, by simp [State.badIn, hb], by simp [State.badIn, hb], ?_⟩
  refine goodImage _ ?_ (by simp [State.homeBytes])
  rw [← hh]
  simp only [State.homeBytes, ← List.map_take, List.take_range]
  rfl

/-- A title envelope that passes (R49, R186, R187): a header with 4 bytes of code, its signer and signature as above; the digest is
SHA-512 of bytes 0 to 0x3F and of the code. -/
def goodEnvelope : List Byte :=
  leBytes 196 (0x4B393645 + 6 * 2 ^ 32 + 2 ^ 40 + 4 * 2 ^ 64 + 2 ^ 128 + 2 ^ 256 + 2 ^ 1024 + 2 ^ 512 *
    0x859DD19EB3E483626C5B025BEDCA5F27AE67DD768B37D0CD2CECFD3FC02A0512D0361C10934044986DB766D38653137CB8B9F338112AC828E85A89A4E69A7C13)

theorem goodEnvelope_digest : sha512 (goodEnvelope.take 0x40 ++ goodEnvelope.drop 0xC0) = (goodEnvelope.drop 0x40).take 64 := by decide +kernel

theorem goodEnvelope_key : (goodFuses.pkh != 0) = true := by decide +kernel

theorem goodEnvelope_signed : envelopeSigned goodFuses.pkh goodEnvelope = true := by
  have h1 : (goodEnvelope.drop 0x20).take 32 = leBytes 32 1 := by decide +kernel
  have h2 : (goodEnvelope.drop 0x80).take 64 = leBytes 64 1 := by decide +kernel
  have h3 : field goodEnvelope 4 1 = 6 := by decide +kernel
  have h4 : packBytes 512 (sha512 (leBytes 32 1)) = goodFuses.pkh := rfl
  simp only [envelopeSigned, h1, h2, h3, h4, goodEnvelope_digest, edVerify_neutral]
  rw [goodEnvelope_key]
  simp

/-- The state in which an ENVELOPE load of it is at the head of queue 0. -/
def loadState : State :=
  let s := (pktState (pkt 6 2 0x1000 0 0x200)).tableWrite 0x31000 goodEnvelope
  { s with envLen := 4, fuses := { s.fuses with hkh := goodFuses.pkh } }

theorem wit_PacketResults_load :
    (let b := pkt 6 2 0x1000 0 0x200
     let r := (loadState.resumeQueue 1 0).touchRing 1 0 b.length
     let r1 := r.touchLoc 1 2 0x1000 192
     let r2 := r1.touchLoc 1 2 0x1000 196
     (loadState.resumeQueue 1 0).ringAt 1 0 = .packet 6 b ∧ loadState.fetches 1 0 = true ∧ pktOff b = 0x1000 ∧ (pktOp b).testBit 0 = false ∧
     okAnd (r1.locBytes 1 2 0x1000 192 [20] 4) (fun hd => !envelopeBad hd && field hd 8 4 == 4) = true ∧
     okAnd (r2.locBytes 1 2 0x1000 196 [20] 4) (fun img => img == goodEnvelope) = true ∧ r2.mapBad 1 = none ∧
     okAnd (r2.loadEnvelope 1 2 goodEnvelope) (fun _ => true) = true) ∧ envelopeSigned loadState.fuses.hkh goodEnvelope = true :=
  ⟨by decide +kernel, goodEnvelope_signed⟩

/-! Base words of the gondola (log entry 7): expected values by hand from the published RISC-V encoding. -/

theorem test_rv_compressed :
    ([0x1141, 0x8082, 0x4501, 0xC606, 0x40B2, 0xA001, 0xC501, 0x411C, 0x0808, 0x6105, 0x6785, 0x8385, 0x8F99, 0x050A, 0] : List Nat).map
      rvExpand = [some 0xFF010113, some 0x00008067, some 0x00000513, some 0x00112623, some 0x00C12083, some 0x0000006F,
        some 0x00050463, some 0x00052783, some 0x01010513, some 0x02010113, some 0x000017B7, some 0x0017D793, some 0x40E787B3,
        some 0x00251513, none] := by decide +kernel

/-- One base instruction of a core whose x1 is 7 and x2 is −2, with a word at 0x100: rd and the pc. -/
def rvRun (w : Nat) (rd : BitVec 5) : Option (Word × Word) :=
  let g : GCore := { GCore.reset with x := [0, 7, 0xFFFFFFFE] ++ List.replicate 29 0, pc := 0x40, mtvec := 0x80 }
  match rvExec g [(0x100, 0x80)] 0 w 0x44 0 with
  | .done h _ => some (h.reg rd, h.pc)
  | .trap _ _ => none

theorem test_rv_results :
    rvRun 0x0220C1B3 3 = some (0xFFFFFFFD, 0x44) ∧ rvRun 0x0200C1B3 3 = some (0xFFFFFFFF, 0x44) ∧
    rvRun 0x022091B3 3 = some (0xFFFFFFFF, 0x44) ∧ rvRun 0x10000183 3 = some (0xFFFFFF80, 0x44) ∧
    rvRun 0x008001EF 3 = some (0x44, 0x48) ∧ rvRun 0xFE20CEE3 0 = some (0, 0x44) ∧ rvRun 0xFE114EE3 0 = some (0, 0x3C) ∧
    rvRun 0x00100073 0 = none := by decide +kernel

end Sys2Proof.Tests
end

section
/-!
SUPPORT. The list operations of the model as the library's, and the fields that an operation of the shared layer leaves alone.
-/
namespace Sys2Proof

/-- The model's update of an entry is the library's. -/
theorem modifyAt_eq_modify {α : Type} (l : List α) (i : Nat) (f : α → α) : modifyAt l i f = l.modify i f := by
  induction l generalizing i with
  | nil => simp [modifyAt]
  | cons x xs ih => cases i <;> simp [modifyAt, ih]

@[simp] theorem length_modifyAt {α : Type} (l : List α) (i : Nat) (f : α → α) : (modifyAt l i f).length = l.length := by
  simp [modifyAt_eq_modify]

@[simp] theorem getElem?_modifyAt_same {α : Type} (l : List α) (i : Nat) (f : α → α) : (modifyAt l i f)[i]? = l[i]?.map f := by
  simp [modifyAt_eq_modify]

/-- An update that agrees on the one entry it reaches. -/
theorem modifyAt_congr {α : Type} {l : List α} {i : Nat} {f g : α → α} (h : ∀ x, l[i]? = some x → f x = g x) :
    modifyAt l i f = modifyAt l i g := by
  induction l generalizing i with
  | nil => rfl
  | cons x xs ih =>
    cases i with
    | zero => simp [modifyAt, h x rfl]
    | succ i => simp [modifyAt, ih (i := i) h]

/-- An update that leaves the one entry it reaches as it was. -/
theorem modifyAt_eq_self {α : Type} {l : List α} {i : Nat} {f : α → α} (h : ∀ x, l[i]? = some x → f x = x) :
    modifyAt l i f = l := by
  rw [modifyAt_congr (g := id) h, modifyAt_eq_modify, List.modify_id]

/-- The model's map with the position is the library's, counted from its start. -/
theorem mapAt_eq_mapIdx {α β : Type} (f : Nat → α → β) (n : Nat) (l : List α) :
    mapAt f n l = l.mapIdx fun i => f (n + i) := by
  induction l generalizing n with
  | nil => simp [mapAt]
  | cons x xs ih => simp [mapAt, List.mapIdx_cons, ih, Nat.add_comm, Nat.add_left_comm]

@[simp] theorem length_mapAt {α β : Type} (f : Nat → α → β) (n : Nat) (l : List α) : (mapAt f n l).length = l.length := by
  simp [mapAt_eq_mapIdx]

theorem getElem?_mapAt {α β : Type} (f : Nat → α → β) (n : Nat) (l : List α) (i : Nat) :
    (mapAt f n l)[i]? = l[i]?.map (f (n + i)) := by
  simp [mapAt_eq_mapIdx]

/-- A lookup by key in the entries that a test keeps, which keeps those of the key. -/
theorem find?_filter_key {α : Type} {p : Nat × α → Bool} {v : Nat} (h : ∀ x : α, p (v, x) = true) (l : List (Nat × α)) :
    (l.filter p).find? (fun e => e.1 == v) = l.find? fun e => e.1 == v := by
  rw [List.find?_filter]
  congr 1
  funext e
  by_cases k : e.1 = v
  · subst k; simp [h]
  · simp [k]

/-- A lookup by key in the entries that a test keeps, which keeps none of the key. -/
theorem find?_filter_key_none {α : Type} {p : Nat × α → Bool} {v : Nat} (h : ∀ x : α, p (v, x) = false)
    (l : List (Nat × α)) :
    (l.filter p).find? (fun e => e.1 == v) = none := by
  rw [List.find?_eq_none]
  rintro ⟨k, x⟩ he hv
  obtain rfl : k = v := by simpa using hv
  simp [h] at he

/-- A lookup after an entry is put in its place among those of a table in key order. -/
theorem find?_put {α : Type} (l : List (Nat × α)) (w v : Nat) (x : α) :
    ((l.filter fun e => decide (e.1 < w)) ++ (w, x) :: l.filter fun e => decide (w < e.1)).find? (fun e => e.1 == v) =
      if v = w then some (w, x) else l.find? fun e => e.1 == v := by
  rw [List.find?_append, List.find?_cons]
  obtain h | h | h := Nat.lt_trichotomy v w
  · rw [find?_filter_key (fun _ => by simpa using h),
      find?_filter_key_none (p := fun e => decide (w < e.1)) (fun _ => by simp; omega),
      if_neg (by omega), beq_false_of_ne (by omega), Option.or_none]
  · rw [find?_filter_key_none (fun _ => by simp; omega), if_pos h, h, beq_self_eq_true, Option.none_or]
  · rw [find?_filter_key_none (p := fun e => decide (e.1 < w)) (fun _ => by simp; omega),
      find?_filter_key (fun _ => by simpa using h),
      if_neg (by omega), beq_false_of_ne (by omega), Option.none_or]

/-- The low bits of a number. -/
theorem bits_zero (x hi : Nat) : bits x hi 0 = x % 2 ^ (hi + 1) := by simp [bits]

end Sys2Proof

namespace Sys2Proof.Machine

/-- What every step of a fold keeps, the fold keeps. -/
theorem foldl_keeps {σ α β : Type} (f : σ → α → σ) (p : σ → β) (h : ∀ s x, p (f s x) = p s) (l : List α) (s : σ) :
    p (l.foldl f s) = p s := by
  induction l generalizing s with
  | nil => rfl
  | cons x xs ih => exact (ih (f s x)).trans (h s x)

/-! The flight log's entry changes the log alone (R29). -/

@[simp] theorem flight_flogNext (s : State) (a b c d : Nat) : (s.flight a b c d).flogNext = (s.flogNext + 1) % 4096 := rfl

/-- A partition that is updated reads back. -/
theorem getPart_mapPart_same {s : State} {p : Nat} (h : p < s.parts.length) (f : Partition → Partition) :
    (s.mapPart p f).getPart p = f (s.getPart p) := by
  rw [State.getPart, State.getPart, mapPart_parts, getElem?_modifyAt_same, List.getElem?_eq_getElem h]
  rfl

end Sys2Proof.Machine
end

section
/-!
Resets, FREEZE and the boot registers (R26-R30, R43-R46, R70, R71): what the boot chain and the firmware's report leave, and
from them the two resets.
-/
namespace Sys2Proof.Machine

theorem exec_coldReset (s : State) : exec .coldReset s = .next s.coldReset := rfl
theorem exec_warmReset (c : Byte) (s : State) : exec (.warmReset c) s = execWarmReset c s := rfl
theorem exec_freeze (b : Bool) (s : State) : exec (.freeze b) s = execFreeze b s := rfl
theorem exec_bootRecover (a : Nat) (s : State) : exec (.bootRecover a) s = execBootRecover a s := rfl
theorem exec_bootSvcset (n : Nat) (s : State) : exec (.bootSvcset n) s = execBootSvcset n s := rfl

/-! ## The boot chain -/

/-- What the boot chain leaves on a machine whose fuses and flash are these (R43, R46). -/
def Boots (fuses : Fuses) (flash : List Byte) (q : State) : Prop :=
  q.fuses.dsecLocked = true ∧ (checkFirmware fuses flash = none → q.boot.stat = 1 ∧ q.boot.idKey = 0) ∧
    ∀ f, checkFirmware fuses flash = some f → q.boot.stat = 0 ∧ q.boot.fwVersion = f.version ∧
      q.boot.idKey = packBytes 256 (edPublic ((sha512 (ascii "K96 identity" ++ leBytes 32 fuses.dsec.toNat)).take 32)) ∧
      q.gcores.map (·.pc) = List.replicate 4 (BitVec.ofNat 32 f.entry)

/-- The boot chain changes the fuses' lock, the boot registers and the gondola. -/
theorem bootChain_eq (s : State) :
    s.bootChain = { s with fuses := { s.fuses with dsecLocked := true }, boot := s.bootChain.boot, gmem := s.bootChain.gmem
                           gcores := s.bootChain.gcores } := by
  unfold State.bootChain
  dsimp only
  split <;> rfl

theorem bootChain_boots (s : State) : Boots s.fuses s.flash s.bootChain := by
  unfold Boots State.bootChain
  cases checkFirmware s.fuses s.flash with
  | none => simp [Boot.reset]
  | some f => simp [bootKeys]

/-- The lock of DSEC has no part in the check of an image or in the keys. -/
theorem Boots.of_unlocked {fuses : Fuses} {flash : List Byte} {q : State}
    (h : Boots { fuses with dsecLocked := false } flash q) : Boots fuses flash q := h

/-! ## The two resets -/

/-- A machine made anew on the board of `s` (R26). -/
def Anew (s q : State) : Prop :=
  q.cores = State.reset.cores ∧ q.teams = [] ∧ q.nbs = [] ∧ q.launches = [] ∧ q.signals = [] ∧
    q.ports = State.reset.ports ∧ q.outputs = State.reset.outputs ∧ q.frozen = false ∧ q.sizeGiB = s.sizeGiB ∧
    q.flash = s.flash ∧ q.fuses.svc = s.fuses.svc ∧ q.badBlocks = s.badBlocks

theorem anew_cleared (s : State) : Anew s s.cleared := ⟨rfl, rfl, rfl, rfl, rfl, rfl, rfl, rfl, rfl, rfl, rfl, rfl⟩

theorem Anew.bootChain {s u : State} (h : Anew s u) : Anew s u.bootChain := by
  rw [bootChain_eq]
  exact h

/-- A cold reset's machine before its boot chain. -/
def State.coldBase (s : State) : State :=
  { s.cleared with devTime := 0, flog := [(0, sizeEntry s.sizeGiB)], flogNext := 1 }

theorem coldReset_eq (s : State) : s.coldReset = s.coldBase.bootChain := rfl

/-- A partition of the always-on domain as a warm reset leaves it, before the firmware reports its bits (R33, R70). -/
def warmPart (i : Nat) (p : Partition) : Partition := if i = 0 then { p.alwaysOn with st := .runnable } else p.alwaysOn

/-- A warm reset's machine before its boot chain. -/
def State.warmBase (s : State) (reason : Nat) : State :=
  let s0 := s.flight 0x07 0x01 (if reason = 1 then 0 else 0xFF) reason
  { s0.cleared with
    devTime := s0.devTime, timeRate := s0.timeRate, timeFrac := s0.timeFrac, flog := s0.flog, flogNext := s0.flogNext
    parts := mapAt warmPart 0 s0.parts }

/-- A warm reset ends with the report where the firmware has started (R71). -/
theorem warmReset_eq (s : State) (reason : Nat) :
    s.warmReset reason =
      let b := (s.warmBase reason).bootChain
      if b.boot.stat = 0 then { b.reportWakes s.parts with parts := (b.reportWakes s.parts).parts.map Partition.noPend } else b :=
  rfl

/-- A state without its flight log, to say that an operation writes the log alone. -/
def State.noLog (s : State) : State := { s with flog := [], flogNext := 0, flogClk := 0, flogRun := 0 }

theorem flight_noLog (s : State) (a b c d : Nat) : (s.flight a b c d).noLog = s.noLog := rfl

theorem eq_of_noLog {s q : State} (h : q.noLog = s.noLog) :
    q = { s with flog := q.flog, flogNext := q.flogNext, flogClk := q.flogClk, flogRun := q.flogRun } := by
  exact congrArg (fun u : State =>
    { u with flog := q.flog, flogNext := q.flogNext, flogClk := q.flogClk, flogRun := q.flogRun }) h

/-- The firmware's report of the wakes writes the flight log alone (R71). -/
theorem reportWakes_eq (s : State) (old : List Partition) :
    s.reportWakes old = { s with flog := (s.reportWakes old).flog, flogNext := (s.reportWakes old).flogNext
                                 flogClk := (s.reportWakes old).flogClk, flogRun := (s.reportWakes old).flogRun } := by
  apply eq_of_noLog
  unfold State.reportWakes
  refine foldl_keeps _ State.noLog ?_ _ s
  intro s x
  rw [flight_noLog, flight_noLog]

/-- Without pending bits there is nothing to report. -/
theorem reportWakes_none {old : List Partition} (h : old.all (fun p => p.pendBits == 0) = true) (s : State) :
    s.reportWakes old = s := by
  have hn : (mapAt (fun i p => (i, Partition.pendBits p)) 0 old).filter (fun x => x.2 != 0) = [] := by
    rw [List.filter_eq_nil_iff, mapAt_eq_mapIdx]
    intro x hx
    obtain ⟨i, hi, rfl⟩ := List.mem_mapIdx.1 hx
    simpa using List.all_eq_true.1 h _ (List.getElem_mem hi)
  unfold State.reportWakes
  rw [hn]
  rfl

/-- Outside the flight log and the partitions, a warm reset leaves what its boot chain leaves. -/
theorem warmReset_frame (s : State) (reason : Nat) :
    s.warmReset reason =
      { (s.warmBase reason).bootChain with
          parts := (s.warmReset reason).parts, flog := (s.warmReset reason).flog, flogNext := (s.warmReset reason).flogNext
          flogClk := (s.warmReset reason).flogClk, flogRun := (s.warmReset reason).flogRun } := by
  rw [warmReset_eq]
  dsimp only
  split
  · rw [reportWakes_eq]
  · rfl

theorem warmReset_boots (s : State) (reason : Nat) : Boots s.fuses s.flash (s.warmReset reason) := by
  have h : Boots s.fuses s.flash (s.warmBase reason).bootChain := (bootChain_boots (s.warmBase reason)).of_unlocked
  rw [warmReset_frame]
  exact h

theorem warmReset_anew (s : State) (reason : Nat) : Anew s (s.warmReset reason) := by
  have h : Anew s (s.warmBase reason).bootChain := Anew.bootChain (anew_cleared s)
  rw [warmReset_frame]
  exact h

/-- The partitions after a warm reset: those of the always-on domain, without their bits where the firmware has started. -/
theorem warmReset_parts (s : State) (reason : Nat) :
    (s.warmReset reason).parts =
      if (s.warmReset reason).boot.stat = 0 then (mapAt warmPart 0 s.parts).map Partition.noPend else mapAt warmPart 0 s.parts := by
  have hb : (s.warmReset reason).boot = (s.warmBase reason).bootChain.boot := by rw [warmReset_frame]
  have hp : (s.warmBase reason).bootChain.parts = mapAt warmPart 0 s.parts := by rw [bootChain_eq]; rfl
  rw [hb, warmReset_eq]
  dsimp only
  split
  · rw [reportWakes_eq, hp]
  · exact hp

theorem maskOfList_eq_zero {l : List Bool} (h : ∀ b ∈ l, b = false) : maskOfList l = 0 := by
  induction l with
  | nil => rfl
  | cons b l ih =>
    obtain ⟨hb, hl⟩ := List.forall_mem_cons.1 h
    rw [maskOfList, hb, ih hl]
    rfl

@[simp] theorem pendBits_noPend (p : Partition) : p.noPend.pendBits = 0 := by
  rw [Partition.pendBits, Partition.noPend, List.map_map, List.map_map]
  refine maskOfList_eq_zero fun b hb => ?_
  obtain hb | hb := List.mem_append.1 hb
  · obtain ⟨q, -, rfl⟩ := List.mem_map.1 hb
    rfl
  · obtain ⟨m, -, rfl⟩ := List.mem_map.1 hb
    rfl

@[simp] theorem pendBits_warmPart (i : Nat) (p : Partition) : (warmPart i p).pendBits = p.pendBits := by
  unfold warmPart
  split <;> simp [Partition.pendBits, Partition.alwaysOn, Function.comp_def]

/-- What a warm reset's partition `r` keeps of the partition `p` that it was (R26, R33, R70), but for the pending bits. -/
def KeepsWake (i : Nat) (p r : Partition) : Prop :=
  r.st = (if i = 0 then .runnable else .free) ∧ r.desc = Desc.reset ∧
    r.queues.map (fun x => (x.qwr, x.en, x.slot)) = p.queues.map (fun x => (x.qwr, false, none)) ∧
    r.mailboxes.map (fun m => (m.count, m.overflow)) = p.mailboxes.map (fun m => (m.count, m.overflow))

theorem warmPart_keepsWake (i : Nat) (p : Partition) : KeepsWake i p (warmPart i p) := by
  unfold KeepsWake warmPart
  split <;> simp [Partition.alwaysOn, Partition.reset, Queue.reset, Mailbox.reset]

theorem KeepsWake.noPend {i : Nat} {p r : Partition} (h : KeepsWake i p r) : KeepsWake i p r.noPend := by
  obtain ⟨hst, hdesc, hq, hm⟩ := h
  refine ⟨hst, hdesc, ?_, ?_⟩
  · simpa [Partition.noPend, Function.comp_def] using hq
  · simpa [Partition.noPend, Function.comp_def] using hm

theorem warmReset_part {s : State} {reason i : Nat} {p : Partition} (h : s.parts[i]? = some p) :
    ∃ r, (s.warmReset reason).parts[i]? = some r ∧ KeepsWake i p r ∧
      r.pendBits = if (s.warmReset reason).boot.stat = 0 then 0 else p.pendBits := by
  rw [warmReset_parts]
  split
  · refine ⟨(warmPart i p).noPend, ?_, (warmPart_keepsWake i p).noPend, pendBits_noPend _⟩
    simp [getElem?_mapAt, h]
  · refine ⟨warmPart i p, ?_, warmPart_keepsWake i p, pendBits_warmPart i p⟩
    simp [getElem?_mapAt, h]

/-- Where nothing is reported, a warm reset writes one entry (R31). -/
theorem warmReset_flogNext {s : State} {reason : Nat}
    (h : (s.warmReset reason).boot.stat ≠ 0 ∨ s.parts.all (fun p => p.pendBits == 0) = true) :
    (s.warmReset reason).flogNext = (s.flogNext + 1) % 4096 := by
  have hb : (s.warmReset reason).boot = (s.warmBase reason).bootChain.boot := by rw [warmReset_frame]
  have hn : (s.warmBase reason).bootChain.flogNext = (s.flogNext + 1) % 4096 := by rw [bootChain_eq]; rfl
  rw [hb] at h
  rw [warmReset_eq]
  dsimp only
  split
  · next h0 =>
    rw [reportWakes_none (h.resolve_left fun k => k h0)]
    exact hn
  · exact hn

theorem warmReset_devTime (s : State) (reason : Nat) : (s.warmReset reason).devTime = s.devTime := by
  rw [warmReset_frame, bootChain_eq]
  rfl

theorem warmReset_timeSynced (s : State) (reason : Nat) : (s.warmReset reason).timeSynced = false := by
  rw [warmReset_frame, bootChain_eq]
  rfl

theorem warmReset_length (s : State) (reason : Nat) : (s.warmReset reason).parts.length = s.parts.length := by
  rw [warmReset_parts]
  split <;> simp

/-! ## FREEZE (R28) -/

/-- What FREEZE and a link that goes down leave alone. -/
theorem linkDown_frame (s : State) (n : Nat) :
    (s.linkDown n).mem = s.mem ∧ (s.linkDown n).teams = s.teams ∧ (s.linkDown n).devTime = s.devTime := by
  unfold State.linkDown
  split <;> exact ⟨rfl, rfl, rfl⟩

/-- A port with its link down (R17). -/
def Port.down (x : Port) : Port := if x.link then { x with link := false, verified := false } else x

@[simp] theorem down_link (x : Port) : x.down.link = false := by
  unfold Port.down
  split
  · rfl
  · next h => simpa using h

/-- A link that goes down changes its own port. -/
theorem linkDown_ports (s : State) (n : Nat) : (s.linkDown n).ports = modifyAt s.ports n Port.down := by
  unfold State.linkDown
  split
  · next h =>
    refine modifyAt_congr (l := s.ports) fun x hx => ?_
    rw [hx] at h
    exact (if_pos h).symm
  · next h =>
    refine (modifyAt_eq_self fun x hx => ?_).symm
    rw [hx] at h
    exact if_neg h

/-- A link that was up writes one entry of the flight log (R30, R31). -/
theorem linkDown_flogNext {s : State} {n : Nat} (hn : s.flogNext < 4096) :
    (s.linkDown n).flogNext = (s.flogNext + b2n (s.ports[n]?.getD Port.reset).link) % 4096 := by
  unfold State.linkDown
  split
  · next h => rw [h]; rfl
  · next h => rw [Bool.eq_false_iff.2 h]; exact (Nat.mod_eq_of_lt hn).symm

theorem eq_pair_of_length {α : Type} : ∀ {l : List α}, l.length = 2 → ∃ a b, l = [a, b]
  | [a, b], _ => ⟨a, b, rfl⟩

/-- FREEZE takes both links down and logs itself and each of them (R28, R30). -/
theorem freeze_result {s : State} (hf : s.frozen = false) (hp : s.ports.length = 2) :
    ∃ q, exec (.freeze true) s = .next q ∧ q.frozen = true ∧ q.ports.all (fun p => !p.link) = true ∧
      q.flogNext = (s.flogNext + 1 + s.ports.countP (·.link)) % 4096 ∧ q.mem = s.mem ∧ q.teams = s.teams ∧
      q.devTime = s.devTime := by
  obtain ⟨a, b, hab⟩ := eq_pair_of_length hp
  let s1 := s.flight 0x08 0x01 0xFF 0
  have hs1 : s1.ports = [a, b] := hab
  refine ⟨{ (s1.linkDown 0).linkDown 1 with frozen := true }, ?_, rfl, ?_, ?_, ?_⟩
  · rw [exec_freeze, execFreeze, if_pos ⟨rfl, by simp [hf]⟩]
  · show ((s1.linkDown 0).linkDown 1).ports.all (fun p => !p.link) = true
    simp [linkDown_ports, hs1, modifyAt]
  · show ((s1.linkDown 0).linkDown 1).flogNext = _
    have hn : s1.flogNext = (s.flogNext + 1) % 4096 := rfl
    have hn1 := linkDown_flogNext (s := s1) (n := 0) (Nat.mod_lt _ (by decide))
    have hn2 := linkDown_flogNext (s := s1.linkDown 0) (n := 1) (by rw [hn1]; exact Nat.mod_lt _ (by decide))
    rw [hn2, hn1, linkDown_ports, hs1, hab, hn]
    cases ha : a.link <;> cases hb : b.link <;> simp [modifyAt, b2n, ha, hb]
  · obtain ⟨m1, t1, d1⟩ := linkDown_frame s1 0
    obtain ⟨m2, t2, d2⟩ := linkDown_frame (s1.linkDown 0) 1
    exact ⟨m2.trans m1, t2.trans t1, d2.trans d1⟩

theorem execWarmReset_asked {cause : Byte} {s : State} (h : cause = 1 ∨ cause = 2 ∨ (cause = 3 ∧ s.fuses.debugLock = false)) :
    exec (.warmReset cause) s = .next (s.warmReset cause.toNat) := by
  rw [exec_warmReset, execWarmReset, if_pos (by simpa using h)]

theorem execWarmReset_ignored {cause : Byte} {s : State}
    (h : ¬ (cause = 1 ∨ cause = 2 ∨ (cause = 3 ∧ s.fuses.debugLock = false))) : exec (.warmReset cause) s = .next s := by
  rw [exec_warmReset, execWarmReset, if_neg (by simpa using h)]

/-! ## The boot registers (R44, R45) -/

theorem bootRecover_ignored {s : State} {addr : Nat} (h : s.boot.stat = 0 ∨ addr % 4096 ≠ 0 ∨ s.capacity ≤ addr) :
    exec (.bootRecover addr) s = .next s := by
  rw [exec_bootRecover, execBootRecover, if_pos h]

/-- The reads that the ROM makes of an image meet no bad block (R45). -/
def State.imageReads (s : State) (addr : Nat) : Prop := s.badIn addr 0x80 = none ∧ s.badIn addr (s.imageLen addr) = none

theorem imageReads_orElse {s : State} {addr : Nat} (h : s.imageReads addr) :
    ((s.badIn addr 0x80).orElse fun _ => s.badIn addr (s.imageLen addr)) = none := by
  rw [h.1, h.2]
  rfl

theorem bootRecover_rejects {s : State} {addr : Nat} (h0 : ¬ (s.boot.stat = 0 ∨ addr % 4096 ≠ 0 ∨ s.capacity ≤ addr))
    (hr : s.imageReads addr) (hn : checkFirmware s.fuses (s.homeBytes addr (s.imageLen addr)) = none) :
    exec (.bootRecover addr) s = .next { s with boot := { s.boot with stat := 2 } } := by
  rw [exec_bootRecover, execBootRecover, if_neg h0]
  simp only [imageReads_orElse hr, hn]

theorem bootRecover_restarts {s : State} {addr : Nat} {f : Firmware}
    (h0 : ¬ (s.boot.stat = 0 ∨ addr % 4096 ≠ 0 ∨ s.capacity ≤ addr)) (hr : s.imageReads addr)
    (hf : checkFirmware s.fuses (s.homeBytes addr (s.imageLen addr)) = some f) :
    exec (.bootRecover addr) s = .next (({ s with flash := s.homeBytes addr (s.imageLen addr) } : State).warmReset 2) := by
  rw [exec_bootRecover, execBootRecover, if_neg h0]
  simp only [imageReads_orElse hr, hf]

/-- A warm reset from a flash that holds an image that passes runs its firmware (R43). -/
theorem warmReset_restarts {s : State} {img : List Byte} {f : Firmware} (reason : Nat) (h : checkFirmware s.fuses img = some f) :
    (({ s with flash := img } : State).warmReset reason).flash = img ∧
      (({ s with flash := img } : State).warmReset reason).boot.stat = 0 := by
  obtain ⟨-, -, hrun⟩ := warmReset_boots { s with flash := img } reason
  obtain ⟨-, -, -, -, -, -, -, -, -, hflash, -, -⟩ := warmReset_anew { s with flash := img } reason
  exact ⟨hflash, (hrun f h).1⟩

theorem bootSvcset_blows {s : State} {n : Nat} (h : s.fuses.svc ≤ n) (h1 : n ≤ s.boot.fwVersion) (h2 : n ≤ 64) :
    exec (.bootSvcset n) s = .next { s with fuses := { s.fuses with svc := n } } := by
  rw [exec_bootSvcset, execBootSvcset, if_neg (by omega)]

theorem bootSvcset_ignored {s : State} {n : Nat} (h : n < s.fuses.svc ∨ s.boot.fwVersion < n) :
    exec (.bootSvcset n) s = .next s := by
  rw [exec_bootSvcset, execBootSvcset, if_pos (by omega)]

theorem coldReset_boots (s : State) : Boots s.fuses s.flash s.coldReset :=
  (bootChain_boots s.coldBase).of_unlocked

theorem coldReset_anew (s : State) : Anew s s.coldReset := Anew.bootChain (u := s.coldBase) (anew_cleared s)

/-- Settles O44: the two resets by what their boot chain and the firmware's report leave, FREEZE by its two links, and the boot
registers by the branches of their writes. -/
theorem resetAndBootResults : Obligations.ResetAndBootResults := by
  unfold Obligations.ResetAndBootResults
  intro s cause addr n
  refine ⟨?_, ?_, execWarmReset_ignored, freeze_result, rfl, fun h => bootRecover_ignored (.inl h),
    fun _ h => bootRecover_ignored (.inr h), ?_, bootSvcset_blows, bootSvcset_ignored⟩
  · refine ⟨s.coldReset, exec_coldReset s, coldReset_anew s, coldReset_boots s, ?_⟩
    rw [coldReset_eq, bootChain_eq]
    exact ⟨rfl, rfl, rfl, rfl⟩
  · intro asked
    refine ⟨s.warmReset cause.toNat, execWarmReset_asked asked, warmReset_anew s _, warmReset_boots s _, warmReset_devTime s _,
      warmReset_timeSynced s _, warmReset_length s _, ?_, warmReset_flogNext⟩
    intro i p hp
    obtain ⟨r, hr, ⟨hst, hdesc, hq, hm⟩, hb⟩ := warmReset_part (reason := cause.toNat) hp
    exact ⟨r, hr, hst, hdesc, hq, hm, hb⟩
  · intro h0 ha hc len img hh hb
    have hw : ¬ (s.boot.stat = 0 ∨ addr % 4096 ≠ 0 ∨ s.capacity ≤ addr) := by omega
    have hr : s.imageReads addr := ⟨hh, hb⟩
    exact ⟨bootRecover_rejects hw hr, fun f hf => ⟨_, bootRecover_restarts hw hr hf, warmReset_restarts 2 hf⟩⟩

end Sys2Proof.Machine
end

section
/-!
Errors in memory and in register files, the counters and the power domains (R5, R8-R11, R31, R70, R178): what a kill-class fault
leaves, and the events that raise one.
-/
namespace Sys2Proof.Machine

theorem exec_patrolScrub (a k : Nat) (s : State) : exec (.patrolScrub a k) s = execPatrolScrub a k s := rfl
theorem exec_mcCecntClear (c : Nat) (s : State) :
    exec (.mcCecntClear c) s = s.regWrite fun s => { s with cecnt := modifyAt s.cecnt c fun _ => 0 } := rfl
theorem exec_mcUecntClear (c : Nat) (s : State) :
    exec (.mcUecntClear c) s = s.regWrite fun s => { s with uecnt := modifyAt s.uecnt c fun _ => 0 } := rfl
theorem exec_domainVoltageChange (d mv : Nat) (s : State) :
    exec (.domainVoltageChange d mv) s = execDomainVoltageChange d mv s := rfl
theorem exec_apertureGating (s : State) : exec .apertureGating s = execApertureGating s := rfl

/-- A register write of a machine whose firmware runs takes effect (R46). -/
theorem regWrite_running {s : State} (h : s.boot.stat = 0) (f : State → State) : s.regWrite f = .next (f s) := by
  rw [State.regWrite, if_pos h]

/-- In recovery it is ignored (R46). -/
theorem regWrite_recovery {s : State} (h : s.boot.stat ≠ 0) (f : State → State) : s.regWrite f = .next s := by
  rw [State.regWrite, if_neg h]

/-! ## A block goes bad (R11) -/

theorem markBad_eq (s : State) (b : Nat) : s.markBad b = { s with badBlocks := (s.markBad b).badBlocks } := by
  unfold State.markBad
  split <;> rfl

theorem isBad_markBad (s : State) (b : Nat) : (s.markBad b).isBad b = true := by
  unfold State.markBad
  split
  · assumption
  · simp [State.isBad]

theorem countBad_eq (s : State) (pa : Nat) :
    s.countBad pa = { s with uecnt := modifyAt s.uecnt (Config.channel (blockOf pa)).val satInc
                             badBlocks := (s.countBad pa).badBlocks } := by
  rw [State.countBad, markBad_eq]

theorem isBad_countBad (s : State) (pa : Nat) : (s.countBad pa).isBad (blockOf pa) = true := isBad_markBad _ _

/-- The error as it is counted and logged, before anyone stops for it (R10, R31). -/
def State.noteBad (s : State) (pa : Nat) (scrub : Bool) : State :=
  (s.countBad pa).flight (if scrub then 0x04 else 0x03) (if scrub then 0x03 else 0x39) (ownerByte (s.frameOwner pa)) (blockData pa)

theorem uncorrectable_unowned {s : State} {pa : Nat} (h : s.frameOwner pa = none) (scrub : Bool) :
    s.uncorrectable pa scrub = s.noteBad pa scrub := by
  unfold State.uncorrectable State.noteBad
  simp only [h]

theorem uncorrectable_client {s : State} {pa p : Nat} (h : s.frameOwner pa = some p) (hp : p ≠ 0) (scrub : Bool) :
    s.uncorrectable pa scrub = (s.noteBad pa scrub).killClass p 0x39 (blockData pa) 0 0 0 := by
  unfold State.uncorrectable State.noteBad
  simp only [h, if_neg hp]

theorem noteBad_frame (s : State) (pa : Nat) (scrub : Bool) :
    (s.noteBad pa scrub).uecnt = modifyAt s.uecnt (Config.channel (blockOf pa)).val satInc ∧ (s.noteBad pa scrub).cecnt = s.cecnt ∧
      (s.noteBad pa scrub).mem = s.mem ∧ (s.noteBad pa scrub).parts = s.parts ∧ (s.noteBad pa scrub).tbl = s.tbl := by
  unfold State.noteBad
  rw [countBad_eq]
  exact ⟨rfl, rfl, rfl, rfl, rfl⟩

theorem isBad_noteBad (s : State) (pa : Nat) (scrub : Bool) : (s.noteBad pa scrub).isBad (blockOf pa) = true :=
  isBad_countBad s pa

/-! ## A partition stops (R40, R178) -/

/-- What a departure leaves of the machine's size: the counters and how many partitions there are. -/
def State.counts (s : State) : List Word × Nat := (s.uecnt, s.parts.length)

theorem mapPart_counts (s : State) (p : Nat) (f : Partition → Partition) : (s.mapPart p f).counts = s.counts := by
  simp [State.counts]

/-- The charge of a departure (R77): the stint, and what of an advance comes back. -/
def State.chargeStint (s : State) (t : Team) (back : Int) : State :=
  match s.launch? t.launch with
  | none => s
  | some l => s.mapQueue t.part l.queue fun q => (q.credit (-(s.clk - t.startClk : Nat))).credit back

theorem chargeStint_frame (s : State) (t : Team) (back : Int) :
    (s.chargeStint t back).teams = s.teams ∧ (s.chargeStint t back).counts = s.counts := by
  unfold State.chargeStint
  split
  · exact ⟨rfl, rfl⟩
  · exact ⟨rfl, mapPart_counts _ _ _⟩

/-- A slot that a team leaves: a core without another team waits for its gate release (R82). -/
def State.leaveSlot (s : State) (t : Team) : State :=
  let s2 := { s with teams := s.teams.filter fun x => x.uid != t.uid }
  if s2.teams.any fun x => x.core == t.core then s2 else s2.fresh.2.mapCore t.core fun c => { c with emptied := some s2.fresh.1 }

theorem leaveSlot_frame (s : State) (t : Team) :
    (s.leaveSlot t).teams = s.teams.filter (fun x => x.uid != t.uid) ∧ (s.leaveSlot t).counts = s.counts := by
  unfold State.leaveSlot
  dsimp only
  split <;> exact ⟨rfl, rfl⟩

theorem departTeam_eq (s : State) (t : Team) (b : Bool) :
    s.departTeam t b =
      ((s.chargeStint t (if b && ((s.nb? t.nb).map (·.advance)).getD false then s.advance else 0)).leaveSlot t).settleDeficits
        t.part := rfl

theorem departTeam_teams (s : State) (t : Team) (b : Bool) :
    (s.departTeam t b).teams = s.teams.filter fun x => x.uid != t.uid := by
  rw [departTeam_eq, State.settleDeficits, mapPart_teams, (leaveSlot_frame _ t).1, (chargeStint_frame s t _).1]

theorem departTeam_counts (s : State) (t : Team) (b : Bool) : (s.departTeam t b).counts = s.counts := by
  rw [departTeam_eq, State.settleDeficits, mapPart_counts, (leaveSlot_frame _ t).2, (chargeStint_frame s t _).2]

theorem returnAdvance_frame (s : State) (n : Nb) :
    (s.returnAdvance n).teams = s.teams ∧ (s.returnAdvance n).counts = s.counts := by
  unfold State.returnAdvance
  split
  · exact ⟨rfl, rfl⟩
  · split
    · exact ⟨rfl, mapPart_counts _ _ _⟩
    · exact ⟨rfl, rfl⟩

/-- A team that is left after some have departed is none of them. -/
theorem mem_teams_of_departed {l : List Team} {s : State} {x : Team}
    (h : x ∈ (l.foldl (fun s t => State.departTeam s t false) s).teams) : x ∈ s.teams ∧ ∀ t ∈ l, x.uid ≠ t.uid := by
  induction l generalizing s with
  | nil => exact ⟨h, by simp⟩
  | cons t ts ih =>
    obtain ⟨hx, hts⟩ := ih h
    rw [departTeam_teams, List.mem_filter] at hx
    exact ⟨hx.1, List.forall_mem_cons.2 ⟨by simpa using hx.2, hts⟩⟩

theorem killTeams_teams (s : State) (p : Nat) :
    (s.killTeams p).teams = ((s.teams.filter fun t => t.part == p).foldl (fun s t => s.departTeam t false) s).teams := by
  unfold State.killTeams
  dsimp only
  rw [foldl_keeps State.returnAdvance State.teams fun s n => (returnAdvance_frame s n).1]
  exact foldl_keeps State.detachNb State.teams (fun _ _ => rfl) _ _

theorem killTeams_counts (s : State) (p : Nat) : (s.killTeams p).counts = s.counts := by
  unfold State.killTeams
  dsimp only
  refine (foldl_keeps State.returnAdvance State.counts (fun s n => (returnAdvance_frame s n).2) _ _).trans ?_
  refine (foldl_keeps State.detachNb State.counts (fun _ _ => rfl) _ _).trans ?_
  exact foldl_keeps (fun s t => State.departTeam s t false) State.counts (fun s t => departTeam_counts s t false) _ s

theorem stopPart_counts (s : State) (p : Nat) : (s.stopPart p).counts = s.counts :=
  (mapPart_counts _ _ _).trans (killTeams_counts s p)

/-- No team of a partition that stops is left (R40). -/
theorem stopPart_teams {s : State} {p : Nat} {t : Team} (h : t ∈ (s.stopPart p).teams) : t.part ≠ p := by
  have hk : t ∈ (s.killTeams p).teams := h
  rw [killTeams_teams] at hk
  obtain ⟨hs, hne⟩ := mem_teams_of_departed hk
  intro hp
  exact hne t (List.mem_filter.2 ⟨hs, by simpa using hp⟩) rfl

theorem stopPart_st {s : State} {p : Nat} (h : p < s.parts.length) : ((s.stopPart p).getPart p).st = .stopped := by
  have hl : (s.killTeams p).parts.length = s.parts.length := congrArg Prod.snd (killTeams_counts s p)
  rw [State.stopPart, getPart_mapPart_same (hl ▸ h)]

/-- A partition that a kill-class fault stops at once: a client that is RUNNABLE, with no command of the table port under way
(R36, R40). -/
structure State.Stoppable (s : State) (p : Nat) : Prop where
  client : p ≠ 0
  known : p < s.parts.length
  runnable : (s.getPart p).st = .runnable
  stops : s.tbl.stops = []
  idle : s.tbl.cmd = none

theorem State.Stoppable.congr {s q : State} {p : Nat} (h : s.Stoppable p) (hp : q.parts = s.parts) (ht : q.tbl = s.tbl) :
    q.Stoppable p := by
  obtain ⟨h0, hk, hr, hs, hc⟩ := h
  exact ⟨h0, hp ▸ hk, by rwa [State.getPart, hp], ht ▸ hs, ht ▸ hc⟩

theorem killClass_stopPart {s : State} {p : Nat} (h : s.Stoppable p) (cause info core slot agent : Nat) :
    s.killClass p cause info core slot agent = (s.post p (FaultRec.of cause 7 0 0 core slot agent 0 info 0 0)).stopPart p := by
  have hc : ¬ (((s.getPart p).st ≠ .runnable ∧ (s.getPart p).st ≠ .resetting) ∨ p = 0 ∨ s.tbl.stops.contains p = true) := by
    simp [h.runnable, h.client, h.stops]
  have ht : s.tbl.target ≠ some p := by simp [TablePort.target, h.idle]
  rw [State.killClass, if_neg hc]
  exact if_neg ht

/-- What a kill-class fault leaves: the partition STOPPED, without a team, and the counters as they were (R40, R178). -/
theorem killClass_stops {s : State} {p : Nat} (h : s.Stoppable p) (cause info core slot agent : Nat) :
    let q := s.killClass p cause info core slot agent
    (q.getPart p).st = .stopped ∧ q.uecnt = s.uecnt ∧ ∀ t ∈ q.teams, t.part ≠ p := by
  dsimp only
  rw [killClass_stopPart h]
  have hc := (stopPart_counts (s.post p (FaultRec.of cause 7 0 0 core slot agent 0 info 0 0)) p).trans (mapPart_counts s p _)
  exact ⟨stopPart_st (by simpa [State.post] using h.known), congrArg Prod.fst hc, fun t => stopPart_teams⟩

/-- A partition that does not run has its flight-log entry alone (R178). -/
theorem killClass_idle {s : State} {p : Nat} (h : (s.getPart p).st ≠ .runnable) (h1 : (s.getPart p).st ≠ .resetting)
    (cause info core slot agent : Nat) : s.killClass p cause info core slot agent = s := by
  rw [State.killClass, if_pos (.inl ⟨h, h1⟩)]

/-! ## The events -/

theorem scrub_corrected {s : State} {addr k : Nat} (ha : addr < s.capacity) (hk : k = 0 ∨ k = 2) :
    exec (.patrolScrub addr k) s = .next (s.corrected addr (k == 0)) := by
  rw [exec_patrolScrub]
  unfold execPatrolScrub
  rw [if_neg (by omega)]
  obtain rfl | rfl := hk <;> rfl

theorem scrub_uncorrectable {s : State} {addr k : Nat} (ha : addr < s.capacity) (hk : k = 1 ∨ k = 3) :
    exec (.patrolScrub addr k) s = .next (s.uncorrectable addr (k == 1)) := by
  rw [exec_patrolScrub]
  unfold execPatrolScrub
  rw [if_neg (by omega)]
  obtain rfl | rfl := hk <;> rfl

theorem scrub_goesBad {s : State} {addr : Nat} (ha : addr < s.capacity) :
    exec (.patrolScrub addr 4) s = .next (s.markBad (blockOf addr)) :=
  (exec_patrolScrub addr 4 s).trans (if_neg (by omega))

theorem eccRegfile_one (core : Nat) (arr : Byte) (p : Nat) (s : State) :
    exec (.eccRegfile core arr [p]) s =
      .next ((s.flight 0x01 0x3A p (infoRegfile core arr)).killClass p 0x3A (infoRegfile core arr) core 0 0) := rfl

/-- A team two runs past its start holds no voltage back (R5). -/
theorem not_starting {t : Team} (h : 2 ≤ t.runs) : t.starting = false := by
  simp only [Team.starting, Bool.or_eq_false_iff, Bool.and_eq_false_iff, decide_eq_false_iff_not]
  omega

theorem domainVoltage_changes {s : State} {d mv : Nat} (hd : d < 8) (h1 : 650 ≤ mv) (h2 : mv ≤ 950) (h3 : mv % 5 = 0)
    (ht : ∀ t ∈ s.teams, t.core / 12 = d → 2 ≤ t.runs) :
    exec (.domainVoltageChange d mv) s = .next { s with volt := modifyAt s.volt d fun _ => mv } := by
  have hn : (s.teams.any fun t => decide (t.core / 12 = d) && t.starting) = false := by
    rw [List.any_eq_false]
    intro t hm
    by_cases hc : t.core / 12 = d
    · simp [not_starting (ht t hm hc)]
    · simp [hc]
  rw [exec_domainVoltageChange, execDomainVoltageChange, if_pos hd, if_pos ⟨h1, h2, h3, by simp [hn]⟩]

theorem domainVoltage_refused {s : State} {d mv : Nat} (hd : d < 8) (h : mv < 650 ∨ 950 < mv ∨ mv % 5 ≠ 0) :
    exec (.domainVoltageChange d mv) s = .next s := by
  rw [exec_domainVoltageChange, execDomainVoltageChange, if_pos hd, if_neg (by omega)]

theorem apertureGating_gates {s : State} (h : ∀ p ∈ s.parts, ∀ q ∈ p.queues, q.state = 0) :
    exec .apertureGating s = .next { s with apertureGated := true } := by
  rw [exec_apertureGating, execApertureGating, if_pos]
  simpa only [List.all_eq_true, beq_iff_eq] using h

/-- Settles O45: the scrubber's events by the owner of the frame, the kill-class faults by what a stopped partition is, and the
register writes by whether the firmware runs. -/
theorem errorAndPowerResults : Obligations.ErrorAndPowerResults := by
  unfold Obligations.ErrorAndPowerResults
  intro s addr core c d mv arr
  refine ⟨fun ha => ⟨?_, ?_, ?_, ?_⟩, ?_, ?_, rfl, ?_, ?_, domainVoltage_changes, domainVoltage_refused, apertureGating_gates⟩
  · intro k hk
    exact ⟨_, scrub_corrected ha hk, rfl, rfl, rfl, rfl, rfl⟩
  · intro k hk ho
    obtain ⟨hu, hc, hm, hp, -⟩ := noteBad_frame s addr (k == 1)
    refine ⟨_, scrub_uncorrectable ha hk, ?_⟩
    rw [uncorrectable_unowned ho]
    exact ⟨hu, hc, isBad_noteBad s addr _, hm, hp⟩
  · intro k p hk ho h0 hr hl hs hc
    obtain ⟨hu, -, -, hp, ht⟩ := noteBad_frame s addr (k == 1)
    have hstop : (s.noteBad addr (k == 1)).Stoppable p := State.Stoppable.congr ⟨h0, hl, hr, hs, hc⟩ hp ht
    obtain ⟨hst, huq, hteams⟩ := killClass_stops hstop 0x39 (blockData addr) 0 0 0
    refine ⟨_, scrub_uncorrectable ha hk, ?_⟩
    rw [uncorrectable_client ho h0]
    exact ⟨hst, huq.trans hu, hteams⟩
  · exact scrub_goesBad ha
  · intro p h h1
    rw [eccRegfile_one, killClass_idle (s := s.flight _ _ _ _) h h1]
    rfl
  · intro p h0 hl hr hs hc
    obtain ⟨hst, -, hteams⟩ := killClass_stops (s := s.flight 0x01 0x3A p (infoRegfile core arr))
      (State.Stoppable.congr ⟨h0, hl, hr, hs, hc⟩ rfl rfl) 0x3A (infoRegfile core arr) core 0 0
    exact ⟨_, eccRegfile_one core arr p s, hst, hteams⟩
  · intro h
    exact ⟨(exec_mcCecntClear c s).trans (regWrite_running h _), (exec_mcUecntClear c s).trans (regWrite_running h _)⟩
  · intro h
    exact ⟨(exec_mcCecntClear c s).trans (regWrite_recovery h _), (exec_mcUecntClear c s).trans (regWrite_recovery h _)⟩

end Sys2Proof.Machine
end

section
/-!
What the host reads and writes, and the display outputs (R9-R13, R24, R25, R29, R33, R36, R56, R139): the address map, ownership
after a host store, and scan-out run by run.
-/
namespace Sys2Proof.Machine

theorem exec_hostAccess (hart : Nat) (w : Bool) (a n : Nat) (v : DWord) (s : State) :
    exec (.hostAccess hart w a n v) s = execHostAccess hart w a n v s := rfl
theorem exec_registerWrite (a : Nat) (v : DWord) (s : State) : exec (.registerWrite a v) s = execRegisterWrite a v s := rfl
theorem exec_hostCoherenceTimeout (a n : Nat) (s : State) :
    exec (.hostCoherenceTimeout a n) s = execHostCoherenceTimeout a n s := rfl
theorem exec_flipHndWrite (p o : Nat) (v : Word) (s : State) :
    exec (.flipHndWrite p o v) s = .next (s.writeFlipHnd p o v.toNat) := rfl
theorem exec_flipOffWrite (p o : Nat) (v : DWord) (s : State) :
    exec (.flipOffWrite p o v) s = .next (s.writeFlipOff p o v.toNat) := rfl
theorem exec_displayVblank (o : Nat) (s : State) : exec (.displayVblank o) s = execDisplayVblank o s := rfl
theorem exec_scanoutRefresh (o : Nat) (s : State) : exec (.scanoutRefresh o) s = execScanoutRefresh o s := rfl

/-! ## The address map (R12) -/

theorem capacity_le (s : State) : s.capacity ≤ 0x0BA0000000 := by
  unfold State.capacity
  split <;> decide

theorem hostMap_gddr {s : State} {a n : Nat} (h0 : 0 < n) (h8 : n ≤ 8) (hc : a + n ≤ s.capacity) : s.hostMap a n = .gddr := by
  rw [State.hostMap, if_pos (by omega), if_pos ⟨h0, h8, hc⟩]

theorem hostMap_page (s : State) {p o : Nat} (hp : p < 129) (ho : o < 4096) (h8 : o % 8 = 0) :
    s.hostMap (0xF000000000 + 4096 * p + o) 8 = .page p o := by
  have hc := capacity_le s
  have e1 : (0xF000000000 + 4096 * p + o - 0xF000000000) / 4096 = p := by omega
  have e2 : (0xF000000000 + 4096 * p + o) % 4096 = o := by omega
  rw [State.hostMap, if_neg (by omega), if_neg (by omega), if_pos (by omega), e1, e2]

theorem hostMap_sys (s : State) {o : Nat} (ho : o < 0x1000000) (h8 : o % 8 = 0) : s.hostMap (0xF800000000 + o) 8 = .sys o := by
  have hc := capacity_le s
  have e : 0xF800000000 + o - 0xF800000000 = o := by omega
  rw [State.hostMap, if_neg (by omega), if_neg (by omega), if_neg (by omega), if_pos (by omega), e]

theorem hostMap_gap {s : State} {a n : Nat} (h : s.capacity ≤ a) (h1 : a < 0xF000000000) : s.hostMap a n = .none := by
  rw [State.hostMap, if_neg (by omega)]
  split
  · rfl
  · rw [if_neg (by omega), if_neg (by omega)]

section Access
variable {s : State} {hart a n p o : Nat} {v : DWord}

theorem hostAccess_gddr (h : s.hostMap a n = .gddr) (w : Bool) :
    exec (.hostAccess hart w a n v) s = .next (if w then { s with busFault := false }.hostStore a n v else s.hostLoad a n) := by
  rw [exec_hostAccess, execHostAccess]
  simp only [h]

theorem hostAccess_none (h : s.hostMap a n = .none) (w : Bool) :
    exec (.hostAccess hart w a n v) s = .next { s with busFault := true } := by
  rw [exec_hostAccess, execHostAccess]
  simp only [h]

theorem hostAccess_page (h : s.hostMap a n = .page p o) (w : Bool) :
    exec (.hostAccess hart w a n v) s = .next (if w then { s with busFault := false }.pageWrite p o v
      else { s with busRead := BitVec.ofNat 64 (s.pageRead p o), busFault := false }) := by
  rw [exec_hostAccess, execHostAccess]
  simp only [h]

theorem hostAccess_sysLoad (h : s.hostMap a n = .sys o) :
    exec (.hostAccess hart false a n v) s
      = .next { s.sysRead o with busRead := BitVec.ofNat 64 (s.sysGet o), busFault := false } := by
  rw [exec_hostAccess, execHostAccess]
  simp only [h]
  rfl

theorem registerWrite_page (h : s.hostMap a 8 = .page p o) : exec (.registerWrite a v) s = .next (s.pageWrite p o v) := by
  rw [exec_registerWrite, execRegisterWrite]
  simp only [h]

theorem registerWrite_sys (h : s.hostMap a 8 = .sys o) : exec (.registerWrite a v) s = s.sysWrite true o v := by
  rw [exec_registerWrite, execRegisterWrite]
  simp only [h]

end Access

/-! ## System registers of a machine whose firmware runs (R9, R29, R36, R171) -/

theorem sysRead_flogNext (s : State) : s.sysRead 0x0FFFF0 = s := by simp [State.sysRead]

section System
variable {s : State} (h : s.boot.stat = 0)
include h

theorem sysGet_flogNext : s.sysGet 0x0FFFF0 = s.flogNext := by simp [State.sysGet, h]

theorem sysGet_tblStat : s.sysGet 0x300018 = s.tbl.stat := by simp [State.sysGet, h]

theorem sysRead_tblStat : s.sysRead 0x300018 = { s with tbl := { s.tbl with drop := false } } := by simp [State.sysRead, h]

theorem sysWrite_arg0 (v : DWord) : s.sysWrite true 0x300000 v = .next { s with tbl := { s.tbl with arg0 := v } } := by
  simp [State.sysWrite, h]

theorem sysWrite_cmd (v : DWord) : s.sysWrite true 0x300010 v = .next (s.writeCmd v) := by
  simp [State.sysWrite, h]

theorem sysWrite_parkLim_eq (v : DWord) :
    s.sysWrite true 0x700000 v = if bits v.toNat 15 0 < 2 then .next s else .next { s with parkLim := bits v.toNat 15 0 } := by
  simp [State.sysWrite, h]

theorem sysWrite_parkLim {v : DWord} (hv : 2 ≤ v.toNat % 2 ^ 16) :
    s.sysWrite true 0x700000 v = .next { s with parkLim := v.toNat % 2 ^ 16 } := by
  rw [sysWrite_parkLim_eq h, bits_zero, if_neg (Nat.not_lt.2 hv)]

theorem sysWrite_cecnt (v : DWord) :
    s.sysWrite true 0x800010 v = .next { s with cecnt := modifyAt s.cecnt 2 fun _ => 0 } := by
  simp [State.sysWrite, h, execMcCecntClear, State.regWrite]

end System

/-! ## Who owns a word after a host store (R13, R136, R139) -/

theorem owner_setOwner (s : State) (w v : Nat) (x : Owner) :
    (s.setOwner w (some x)).owner v = if v = w then some x else s.owner v := by
  simp only [State.owner, State.setOwner, find?_put]
  split
  · rfl
  · next h =>
    rw [find?_filter_key (fun _ => by simpa using h)]

/-- After a run of stores every word of the run is the host's. -/
theorem owner_foldl_host {l : List Nat} {w : Nat} (s : State) (h : w ∈ l) :
    (l.foldl (fun (s : State) w => s.setOwner w (some .host)) s).owner w = some .host := by
  have step (q : State) (v : Nat) (hq : w = v ∨ q.owner w = some .host) :
      (q.setOwner v (some .host)).owner w = some .host := by
    rw [owner_setOwner]
    split
    · rfl
    · next hv => exact hq.resolve_left hv
  obtain ⟨a, b, rfl⟩ := List.append_of_mem h
  rw [List.foldl_append, List.foldl_cons]
  exact List.foldlRecOn (motive := fun q : State => q.owner w = some .host) b _ (step _ w (.inl rfl))
    fun q hq v _ => step q v (.inr hq)

/-- What the outside world and the teams see of a write at the homes. -/
def State.seen (s : State) : List Team × Bool := (s.teams, s.busFault)

theorem writeBack_seen (s : State) (x : L1Word) : (s.writeBack x).seen = s.seen := by
  refine foldl_keeps _ State.seen ?_ _ s
  intro s i
  split <;> rfl

theorem recall_seen (s : State) (w : Nat) : (s.recall w).seen = s.seen := by
  unfold State.recall
  split
  · split
    · exact writeBack_seen s _
    · rfl
  · rfl
  · rfl

theorem writeHome_seen (s : State) (pa : Nat) (bs : List Byte) : (s.writeHome pa bs).seen = s.seen :=
  foldl_keeps State.recall State.seen recall_seen _ s

theorem setDirty_seen (s : State) (a : Nat) : (s.setDirty a).seen = s.seen := by
  unfold State.setDirty
  dsimp only
  split
  · rfl
  · exact writeHome_seen s _ _

theorem noteStore_seen (s : State) (part obj d off n : Nat) (who : Option (Nat × Nat)) :
    (s.noteStore part obj d off n who).seen = s.seen := by
  unfold State.noteStore
  split
  · dsimp only
    split <;> rfl
  · rfl
  · rfl

theorem hostMarks_seen (s : State) (pa n : Nat) : (s.hostMarks pa n).seen = s.seen :=
  foldl_keeps (fun (s : State) (x : HostTouch) => (s.setDirty x.entry).noteStore x.part x.obj x.desc x.off x.n none) State.seen
    (fun s _ => (noteStore_seen _ _ _ _ _ _ _).trans (setDirty_seen s _)) _ s

/-- A host store that no frame entry and no attached region refuses (R13, R139). -/
theorem hostStore_owns {s : State} {pa n : Nat} (v : DWord) (hb : (s.hostTouches pa n).findSome? (fun x => s.badIn x.entry 8) = none)
    (hf : s.hostForeign pa n = none) :
    (∀ w ∈ wordsOf pa n, (s.hostStore pa n v).owner w = some .host) ∧ (s.hostStore pa n v).seen = s.seen := by
  unfold State.hostStore
  simp only [hb, hf]
  refine ⟨fun w hw => owner_foldl_host _ hw, ?_⟩
  refine (foldl_keeps _ State.seen ?_ _ _).trans ((writeHome_seen _ _ _).trans (hostMarks_seen s pa n))
  intro s x
  rfl

theorem hostStore_refused {s : State} {pa n p off : Nat} (v : DWord)
    (hb : (s.hostTouches pa n).findSome? (fun x => s.badIn x.entry 8) = none) (hf : s.hostForeign pa n = some (p, off)) :
    s.hostStore pa n v = s.post p (FaultRec.of 0x3E 5 0 0 0 0 0 (infoA off n) (infoA off n) 0 0) := by
  unfold State.hostStore
  simp only [hb, hf]

theorem hostLoad_reads {s : State} {pa n : Nat} (h : s.badIn pa n = none) :
    s.hostLoad pa n = { s with busRead := BitVec.ofNat 64 (s.homeNat pa n), busFault := false } := by
  unfold State.hostLoad
  simp only [h]

/-! ## A host load that a core does not answer (R13, R31, R159) -/

/-- The notice about a word that core `k` owns, and its flight-log entry (R31, R159). -/
def State.noteTimeout (s : State) (k : Nat) (x : L1Word) (a n : Nat) : State :=
  let obj := match s.lookupHandle x.part x.handle with
    | .ok (i, _) => i
    | .error _ => 2 ^ 20
  let off := (((s.pagesAt x.part a).find? fun e => e.1 == obj).map fun e => pageOff e.2.1 e.2.2.1 a).getD 0
  (s.post x.part (FaultRec.of 0x3D 5 0 x.handle k 0 0 (infoA off n) (infoA off n) 0 0)).flight 0x03 0x3D x.part (infoA off n)

section Timeout
variable {s : State} {a n w k : Nat} {x : L1Word} (hw : wordsOf a n = [w]) (h0 : 0 < n) (h8 : n ≤ 8) (hc : a + n ≤ s.capacity)
  (ho : s.owner w = some (.core k)) (hx : (s.getCore k).l1Word? w = some x)
include hw h0 h8 hc ho hx

theorem hostCoherenceTimeout_answers (hb : s.homeCopyBad a n = none) :
    exec (.hostCoherenceTimeout a n) s = .next { s.noteTimeout k x a n with
      busRead := BitVec.ofNat 64 (cellNat Config.memDefault s.mem a n), busFault := false } := by
  rw [exec_hostCoherenceTimeout, execHostCoherenceTimeout, if_neg (by omega), hw]
  simp only [List.findSome?_cons, ho, hx, Option.map_some, hb]
  rfl

theorem hostCoherenceTimeout_faults {b : Nat} (hb : s.homeCopyBad a n = some b) :
    exec (.hostCoherenceTimeout a n) s = .next { (s.noteTimeout k x a n).uncorrectable b false with busFault := true } := by
  rw [exec_hostCoherenceTimeout, execHostCoherenceTimeout, if_neg (by omega), hw]
  simp only [List.findSome?_cons, ho, hx, Option.map_some, hb]
  rfl

end Timeout

/-! ## The display outputs (R24, R25) -/

theorem mayFlip_eq_true_iff {s : State} {p o : Nat} (ho : o < 2) :
    s.mayFlip p o = true ↔ (s.getOutput o).en = true ∧ (s.getOutput o).part = p := by
  simp [State.mayFlip, ho]

theorem writeFlipHnd_eq (s : State) (p o v : Nat) :
    s.writeFlipHnd p o v =
      if s.mayFlip p o then s.mapPart p fun z => { z with flipHnd := modifyAt z.flipHnd o fun _ => v % 2 ^ 20 } else s := by
  rw [State.writeFlipHnd, bits_zero]

theorem writeFlipOff_eq (s : State) (p o v : Nat) :
    s.writeFlipOff p o v =
      if s.mayFlip p o then
        (s.mapPart p fun z => { z with flipOff := modifyAt z.flipOff o fun _ => v % 2 ^ 48 }).mapOutput o fun z =>
          { z with flip := true }
      else s := by
  rw [State.writeFlipOff, bits_zero]

/-- The registers of an output as they come into force at a vertical blank (R24). -/
def Output.blanked (x : Output) : Output :=
  { x with vblanks := (x.vblanks + 1) % 2 ^ 32, curPart := x.part, curHandle := x.handle, curGeom := x.geom, curBase := x.base }

/-- The handle and the offset that the partition of an output has written for its next frame (R25). -/
def State.flipTo (s : State) (o : Nat) (x : Output) : Nat × Nat :=
  ((s.getPart x.part).flipHnd[o]?.getD 0, (s.getPart x.part).flipOff[o]?.getD 0)

/-- An output after a vertical blank, where a flip may be pending (R25). -/
def State.afterBlank (s : State) (o : Nat) (x : Output) : Output :=
  let (h, f) := s.flipTo o x
  if !x.flip then x.blanked
  else if s.flipOk x.part h f x.geom then { x.blanked with flip := false, handle := h, base := f, curHandle := h, curBase := f }
  else { x.blanked with flip := false, reject := true }

theorem vblank_eq {s : State} {o : Nat} (ho : o < 2) (he : (s.getOutput o).en = true) :
    exec (.displayVblank o) s = .next (s.unlessBad (s.flipBad o (s.getOutput o))
      (s.mapOutput o fun _ => s.afterBlank o (s.getOutput o))) := by
  rw [exec_displayVblank, execDisplayVblank, if_neg (by simp [he]; omega)]
  rfl

theorem vblank_bad {s : State} {o a : Nat} (ho : o < 2) (he : (s.getOutput o).en = true)
    (hb : s.flipBad o (s.getOutput o) = some a) : exec (.displayVblank o) s = .next (s.uncorrectable a false) := by
  rw [vblank_eq ho he, hb]
  rfl

theorem vblank_blanks {s : State} {o : Nat} (ho : o < 2) (he : (s.getOutput o).en = true)
    (hb : s.flipBad o (s.getOutput o) = none) {z : Output} (hz : s.afterBlank o (s.getOutput o) = z) :
    exec (.displayVblank o) s = .next (s.mapOutput o fun _ => z) := by
  rw [vblank_eq ho he, hb, hz]
  rfl

section Blank
variable {s : State} {o : Nat} {x : Output}

theorem flipBad_still (h : x.flip = false) : s.flipBad o x = none := by simp [State.flipBad, h]

theorem afterBlank_still (h : x.flip = false) : s.afterBlank o x = x.blanked := if_pos (by simp [h])

theorem afterBlank_flips (h : x.flip = true) (hok : s.flipOk x.part (s.flipTo o x).1 (s.flipTo o x).2 x.geom = true) :
    s.afterBlank o x = { x.blanked with flip := false, handle := (s.flipTo o x).1, base := (s.flipTo o x).2
                                        curHandle := (s.flipTo o x).1, curBase := (s.flipTo o x).2 } :=
  (if_neg (by simp [h])).trans (if_pos hok)

theorem afterBlank_rejects (h : x.flip = true) (hok : s.flipOk x.part (s.flipTo o x).1 (s.flipTo o x).2 x.geom = false) :
    s.afterBlank o x = { x.blanked with flip := false, reject := true } :=
  (if_neg (by simp [h])).trans (if_neg (Bool.eq_false_iff.1 hok))

end Blank

theorem dstatRead_eq (o : Nat) (s : State) :
    exec (.dstatRead o) s = .next { s.clearDstat o with busRead := BitVec.ofNat 64 (s.getOutput o).dstat, busFault := false } := rfl

theorem dstat_eq (x : Output) :
    x.dstat = x.vblanks + (if x.flip then 2 ^ 32 else 0) + (if x.reject then 2 ^ 33 else 0) + (if x.scanErr then 2 ^ 34 else 0) := by
  have hbit (b : Bool) (n : Nat) : b2n b * n = if b then n else 0 := by
    cases b
    · exact Nat.zero_mul n
    · exact Nat.one_mul n
  rw [Output.dstat, hbit, hbit, hbit]

/-! ## Scan-out (R24, R130) -/

@[simp] theorem pieces64_nil (fuel off : Nat) : pieces64 fuel off [] = [] := by cases fuel <;> rfl

/-- The pieces of a run of bytes lie in it. -/
theorem pieces64_bounds {fuel off : Nat} {bs : List Byte} {c : Nat × List Byte} (h : c ∈ pieces64 fuel off bs) :
    off ≤ c.1 ∧ c.1 + c.2.length ≤ off + bs.length := by
  induction fuel generalizing off bs with
  | zero => simp [pieces64] at h
  | succ fuel ih =>
    cases bs with
    | nil => simp at h
    | cons b bs =>
      rw [pieces64, List.mem_cons] at h
      obtain rfl | h := h
      · exact ⟨Nat.le_refl _, Nat.add_le_add_left (List.length_take_le' _ _) _⟩
      · have hl : 64 - off % 64 < (b :: bs).length := by
          refine Nat.lt_of_not_le fun hn => ?_
          rw [List.drop_eq_nil_of_le hn, pieces64_nil] at h
          exact List.not_mem_nil h
        have hb := ih h
        rw [List.length_drop] at hb
        omega

theorem pieces64_ne_nil {fuel off : Nat} {bs : List Byte} (hf : fuel ≠ 0) (hb : bs ≠ []) : pieces64 fuel off bs ≠ [] := by
  obtain ⟨fuel, rfl⟩ := Nat.exists_eq_succ_of_ne_zero hf
  obtain ⟨b, bs, rfl⟩ := List.exists_cons_of_ne_nil hb
  simp [pieces64]

/-- A state without its stacked cache, to say that an operation moves its lines alone. -/
def State.noStack (s : State) : State := { s with stack := [] }

theorem eq_of_noStack {s q : State} (h : q.noStack = s.noStack) : q = { s with stack := q.stack } :=
  congrArg (fun u : State => { u with stack := q.stack }) h

theorem stackAlloc_noStack (s : State) (part line cls : Nat) (pin : Bool) : (s.stackAlloc part line cls pin).noStack = s.noStack := by
  unfold State.stackAlloc
  dsimp only
  split
  · rfl
  · split
    · rfl
    · split
      · rfl
      · split <;> rfl

theorem request_noStack (s : State) (part handle off pa n hint : Nat) :
    (s.request part handle off pa n hint).noStack = s.noStack := by
  unfold State.request
  split
  · rfl
  · dsimp only
    split
    · exact foldl_keeps (fun s l => State.yieldLine s part l) State.noStack (fun _ _ => rfl) _ s
    · exact foldl_keeps _ State.noStack (fun s l => stackAlloc_noStack s _ _ _ _) _ s

/-- Requests at the homes move lines of the stacked cache alone (R130). -/
theorem touch_eq (s : State) (part h off n hint : Nat) :
    s.touch part h off n hint = { s with stack := (s.touch part h off n hint).stack } := by
  apply eq_of_noStack
  unfold State.touch
  split
  · rfl
  · refine foldl_keeps _ State.noStack ?_ _ s
    intro s i
    dsimp only
    split
    · rfl
    · exact request_noStack s _ _ _ _ _ _

/-- A read of scan-out that its tables and its memory let through. -/
theorem scanRead_ok {s : State} {x : Output} {off n a : Nat} (o : Nat) (h : s.scanAddr x off n = some a) (hb : s.badIn a n = none) :
    s.scanRead o x off n = if x.curPart = 0 then s else s.touch x.curPart x.curHandle off n 0 := by
  unfold State.scanRead
  simp only [h, hb]

/-- A read of scan-out that the tables refuse, where no bad block is to blame. -/
theorem scanRead_lost {s : State} {x : Output} {off n : Nat} (o : Nat) (h : s.scanAddr x off n = none)
    (hb : s.scanBad x off n = none) : s.scanRead o x off n = s.mapOutput o fun x => { x with scanErr := true } := by
  unfold State.scanRead
  simp only [h, hb]
  rfl

/-- Row `y` of the frame that an output scans out, piece by piece. -/
def framePieces (x : Output) (y : Nat) : List (Nat × List Byte) :=
  let n := geomWidth x.curGeom * pixelSize x.fmt
  pieces64 (n + 1) (x.curBase + y * geomPitch x.curGeom) (List.replicate n 0)

/-- A row is read piece by piece. -/
def State.scanFrame (s : State) (o : Nat) (x : Output) : State :=
  (List.range (geomHeight x.curGeom)).foldl (fun (s : State) y =>
    (framePieces x y).foldl (fun (s : State) c => s.scanRead o x c.1 c.2.length) s) s

theorem scanoutRefresh_eq {s : State} {o : Nat} (ho : o < 2) (he : (s.getOutput o).en = true) :
    exec (.scanoutRefresh o) s = .next (s.scanFrame o (s.getOutput o)) := by
  rw [exec_scanoutRefresh, execScanoutRefresh, if_neg (by simp [he]; omega)]
  rfl

theorem framePieces_bounds {x : Output} {y : Nat} {c : Nat × List Byte} (hy : y < geomHeight x.curGeom) (hc : c ∈ framePieces x y) :
    x.curBase ≤ c.1 ∧
      c.1 + c.2.length ≤ x.curBase + geomPitch x.curGeom * (geomHeight x.curGeom - 1) + geomWidth x.curGeom * pixelSize x.fmt := by
  have h := pieces64_bounds hc
  rw [List.length_replicate] at h
  have hm : y * geomPitch x.curGeom ≤ geomPitch x.curGeom * (geomHeight x.curGeom - 1) := by
    rw [Nat.mul_comm]
    exact Nat.mul_le_mul_left _ (by omega)
  omega

/-- A state that differs from `s` in its stacked cache, where a client's output scans, and in nothing for partition 0. -/
def State.ScanReads (s : State) (x : Output) (q : State) : Prop :=
  q = { s with stack := q.stack } ∧ (x.curPart = 0 → q = s)

theorem scanRead_scanReads {s q : State} {x : Output} {off n a : Nat} (o : Nat) (h : s.ScanReads x q)
    (ha : s.scanAddr x off n = some a) (hb : s.badIn a n = none) : s.ScanReads x (q.scanRead o x off n) := by
  obtain ⟨hqs, hq0⟩ := h
  have ha' : q.scanAddr x off n = some a := by rw [hqs]; exact ha
  have hb' : q.badIn a n = none := by rw [hqs]; exact hb
  rw [scanRead_ok o ha' hb']
  split
  · exact ⟨hqs, hq0⟩
  · next hp =>
    refine ⟨?_, fun h0 => absurd h0 hp⟩
    rw [touch_eq, hqs]

/-- Scan-out of a frame whose every run can be read moves lines of the stacked cache alone, and none for partition 0. -/
theorem scanFrame_reads {s : State} {x : Output} (o : Nat)
    (h : ∀ off n, x.curBase ≤ off →
      off + n ≤ x.curBase + geomPitch x.curGeom * (geomHeight x.curGeom - 1) + geomWidth x.curGeom * pixelSize x.fmt →
      ∃ a, s.scanAddr x off n = some a ∧ s.badIn a n = none) : s.ScanReads x (s.scanFrame o x) := by
  refine List.foldlRecOn (motive := s.ScanReads x) _ _ ⟨rfl, fun _ => rfl⟩ fun q hq y hy => ?_
  refine List.foldlRecOn (motive := s.ScanReads x) _ _ hq fun q hq c hc => ?_
  obtain ⟨hlo, hhi⟩ := framePieces_bounds (List.mem_range.1 hy) hc
  obtain ⟨a, ha, hb⟩ := h c.1 c.2.length hlo hhi
  exact scanRead_scanReads o hq ha hb

/-- A fold over a list that is not empty has what each of its steps establishes. -/
theorem foldl_establishes {σ α : Type} {f : σ → α → σ} {P Q : σ → Prop} (step : ∀ s x, P s → P (f s x) ∧ Q (f s x))
    {l : List α} (hl : l ≠ []) {s : σ} (hs : P s) : P (l.foldl f s) ∧ Q (l.foldl f s) := by
  obtain ⟨xs, x, rfl⟩ := l.eq_nil_or_concat.resolve_left hl
  rw [List.concat_eq_append, List.foldl_append]
  exact step _ _ (List.foldlRecOn (motive := P) xs f hs fun s hs x _ => (step s x hs).1)

theorem getOutput_mapOutput_same {s : State} {o : Nat} (h : o < s.outputs.length) (f : Output → Output) :
    (s.mapOutput o f).getOutput o = f (s.getOutput o) := by
  rw [State.getOutput, State.getOutput, State.mapOutput, getElem?_modifyAt_same, List.getElem?_eq_getElem h]
  rfl

/-- A state that differs from `s` in the registers of its outputs. -/
def State.ScanLost (s q : State) : Prop := q = { s with outputs := q.outputs } ∧ q.outputs.length = s.outputs.length

section Lost
variable {s : State} {x : Output} {o : Nat} (ho : o < s.outputs.length)
  (h : ∀ off n, s.scanAddr x off n = none ∧ s.scanBad x off n = none)
include ho h

theorem scanRead_scanLost {q : State} (c : Nat × List Byte) (hq : s.ScanLost q) :
    s.ScanLost (q.scanRead o x c.1 c.2.length) ∧ ((q.scanRead o x c.1 c.2.length).getOutput o).scanErr = true := by
  obtain ⟨hqs, hlen⟩ := hq
  obtain ⟨ha, hb⟩ := h c.1 c.2.length
  have ha' : q.scanAddr x c.1 c.2.length = none := by rw [hqs]; exact ha
  have hb' : q.scanBad x c.1 c.2.length = none := by rw [hqs]; exact hb
  rw [scanRead_lost o ha' hb', getOutput_mapOutput_same (hlen ▸ ho)]
  refine ⟨⟨?_, (length_modifyAt _ _ _).trans hlen⟩, rfl⟩
  rw [hqs]
  rfl

/-- Scan-out of a frame whose tables refuse every run sets SCANERR and changes no memory (R24). -/
theorem scanFrame_lost : ((s.scanFrame o x).getOutput o).scanErr = true ∧ (s.scanFrame o x).mem = s.mem := by
  have pieces (y : Nat) : framePieces x y ≠ [] := by
    refine pieces64_ne_nil (Nat.succ_ne_zero _) ?_
    simp only [ne_eq, List.replicate_eq_nil_iff, geomWidth, pixelSize, Nat.mul_eq_zero]
    split <;> omega
  have rows : List.range (geomHeight x.curGeom) ≠ [] := by
    simp [geomHeight]
  obtain ⟨⟨hq, -⟩, herr⟩ : s.ScanLost (s.scanFrame o x) ∧ ((s.scanFrame o x).getOutput o).scanErr = true :=
    foldl_establishes (Q := fun q : State => (q.getOutput o).scanErr = true) (fun _ y hq =>
      foldl_establishes (Q := fun q : State => (q.getOutput o).scanErr = true) (fun _ c => scanRead_scanLost ho h c) (pieces y) hq)
      rows ⟨rfl, rfl⟩
  exact ⟨herr, (congrArg State.mem hq :)⟩

end Lost

/-- Settles O46: a host access by the place of its address in the map, a store by who owns its words, and the outputs by their
registers at a blank and by scan-out run by run. -/
theorem hostAndDisplayResults : Obligations.HostAndDisplayResults := by
  unfold Obligations.HostAndDisplayResults
  refine ⟨?_, ?_⟩
  · intro s hart addr size v
    dsimp only
    refine ⟨fun h0 h8 hc => ⟨fun hb => ?_, fun p off hb hf => ?_, fun hb hf => ?_⟩, fun p o hp ho h8 => ⟨?_, ?_, ?_⟩,
      fun h => ⟨?_, ?_, ?_, ?_, fun hv => ?_, ?_⟩, fun hc h1 => ?_, ?_, ?_⟩
    · rw [hostAccess_gddr (hostMap_gddr h0 h8 hc), if_neg Bool.false_ne_true, hostLoad_reads hb]
    · rw [hostAccess_gddr (hostMap_gddr h0 h8 hc), if_pos rfl, hostStore_refused (s := { s with busFault := false }) v hb hf]
    · obtain ⟨hown, hseen⟩ := hostStore_owns (s := { s with busFault := false }) v hb hf
      refine ⟨_, hostAccess_gddr (hostMap_gddr h0 h8 hc) true, hown, congrArg Prod.snd hseen, congrArg Prod.fst hseen⟩
    · rw [hostAccess_page (hostMap_page s hp ho h8), if_neg Bool.false_ne_true]
    · rw [hostAccess_page (hostMap_page s hp ho h8), if_pos rfl]
    · exact registerWrite_page (hostMap_page s hp ho h8)
    · rw [hostAccess_sysLoad (hostMap_sys s (by decide) (by decide)), sysGet_flogNext h, sysRead_flogNext]
    · rw [hostAccess_sysLoad (hostMap_sys s (by decide) (by decide)), sysGet_tblStat h, sysRead_tblStat h]
    · rw [registerWrite_sys (hostMap_sys s (by decide) (by decide)), sysWrite_arg0 h]
    · rw [registerWrite_sys (hostMap_sys s (by decide) (by decide)), sysWrite_cmd h]
    · rw [registerWrite_sys (hostMap_sys s (by decide) (by decide)), sysWrite_parkLim h hv]
    · rw [registerWrite_sys (hostMap_sys s (by decide) (by decide)), sysWrite_cecnt h]
    · exact hostAccess_none (hostMap_gap hc h1) false
    · intro w n x hw h0 h8 hc ho hx hb
      exact ⟨_, hostCoherenceTimeout_answers hw h0 h8 hc ho hx hb, rfl, rfl, rfl, ho⟩
    · intro w n x a hw h0 h8 hc ho hx hb
      exact ⟨_, hostCoherenceTimeout_faults hw h0 h8 hc ho hx hb, rfl⟩
  · intro s p o h v ho hl
    dsimp only
    refine ⟨fun on => ?_, fun on => ?_, fun off => ⟨?_, ?_⟩,
      fun he => ⟨fun a => vblank_bad ho he, fun hf => ?_, fun hf hb hok => ?_, fun hf hb hok => ?_⟩, ?_, fun he hr => ?_,
      fun he hlost => ?_⟩
    · rw [exec_flipHndWrite, writeFlipHnd_eq, if_pos ((mayFlip_eq_true_iff ho).2 on)]
    · rw [exec_flipOffWrite, writeFlipOff_eq, if_pos ((mayFlip_eq_true_iff ho).2 on)]
    · rw [exec_flipHndWrite, writeFlipHnd_eq, if_neg (mt (mayFlip_eq_true_iff ho).1 off)]
    · rw [exec_flipOffWrite, writeFlipOff_eq, if_neg (mt (mayFlip_eq_true_iff ho).1 off)]
    · exact vblank_blanks ho he (flipBad_still hf) (afterBlank_still hf)
    · exact vblank_blanks ho he hb (afterBlank_flips hf hok)
    · exact vblank_blanks ho he hb (afterBlank_rejects hf hok)
    · rw [dstatRead_eq, dstat_eq]
      rfl
    · obtain ⟨hst, h0⟩ := scanFrame_reads o hr
      exact ⟨_, scanoutRefresh_eq ho he, hst, h0⟩
    · obtain ⟨herr, hmem⟩ := scanFrame_lost (hl ▸ ho) hlost
      exact ⟨_, scanoutRefresh_eq ho he, herr, hmem⟩

end Sys2Proof.Machine
end

section
/-!
Ethernet (R14, R16-R23, R31): links, gate-control lists and the device time; stream filters and the stream table; reception and
transmission.
-/
namespace Sys2Proof.Machine

theorem exec_linkUp (n : Nat) (s : State) : exec (.linkUp n) s = execLinkUp n s := rfl
theorem exec_linkDown (n : Nat) (s : State) : exec (.linkDown n) s = execLinkDown n s := rfl
theorem exec_preemptionVerification (n : Nat) (ok : Bool) (s : State) :
    exec (.preemptionVerification n ok) s = execPreemptionVerification n ok s := rfl
theorem exec_gctlSwap (n : Nat) (v : DWord) (s : State) :
    exec (.gctlSwap n v) s = s.regWrite fun s => if n < 2 then s.writeGctl n v else s := rfl
theorem exec_gateListSwap (n : Nat) (s : State) : exec (.gateListSwap n) s = execGateListSwap n s := rfl
theorem exec_gateEntryChange (n : Nat) (s : State) : exec (.gateEntryChange n) s = execGateEntryChange n s := rfl
theorem exec_deviceTimeSync (ns : DWord) (s : State) : exec (.deviceTimeSync ns) s = execDeviceTimeSync ns s := rfl
theorem exec_ethTimeWrite (v : DWord) (s : State) : exec (.ethTimeWrite v) s = s.regWrite fun s => s.writeEthTime v := rfl
theorem exec_ethFrameReceive (n : Nat) (fr : List Byte) (ok : Bool) (s : State) :
    exec (.ethFrameReceive n fr ok) s = execEthFrameReceive n fr ok s := rfl
theorem exec_streamFilterClear (f w : Nat) (s : State) :
    exec (.streamFilterClear f w) s = s.regWrite fun s => if w = 3 then s.writeFilter f 3 0 else s := rfl
theorem exec_streamEntryWrite (p st w : Nat) (v : DWord) (s : State) :
    exec (.streamEntryWrite p st w v) s = s.regWrite fun s => s.writeStream p st w v.toNat := rfl
theorem exec_txRingPoll (p st : Nat) (s : State) : exec (.txRingPoll p st) s = execTxRingPoll p st s := rfl
theorem exec_txFrameStart (p st : Nat) (s : State) : exec (.txFrameStart p st) s = execTxFrameStart p st s := rfl
theorem exec_txFrameSent (n : Nat) (s : State) : exec (.txFrameSent n) s = execTxFrameSent n s := rfl

/-! ## Ports -/

/-- An update of a port that agrees with another on the port as it stands. -/
theorem mapPort_congr {s : State} {n : Nat} {f g : Port → Port} (h : f (s.getPort n) = g (s.getPort n)) :
    s.mapPort n f = s.mapPort n g := by
  have hm : modifyAt s.ports n f = modifyAt s.ports n g := by
    refine modifyAt_congr fun x hx => ?_
    rw [State.getPort, hx] at h
    exact h
  rw [State.mapPort, State.mapPort, hm]

theorem getPort_mapPort_same {s : State} {n : Nat} (h : n < s.ports.length) (f : Port → Port) :
    (s.mapPort n f).getPort n = f (s.getPort n) := by
  rw [State.getPort, State.getPort, State.mapPort, getElem?_modifyAt_same, List.getElem?_eq_getElem h]
  rfl

theorem linkData_eq (s : State) (n : Nat) : s.linkData n = n + (s.getPort n).speed * 256 := rfl

section Links
variable {s : State} {n : Nat} (hn : n < 2)
include hn

theorem linkUp_eq (h : (s.getPort n).link = false) :
    exec (.linkUp n) s
      = .next ((s.mapPort n fun y => { y with link := true }).flight 0x05 0x01 0xFF (n + (s.getPort n).speed * 256)) := by
  rw [exec_linkUp, execLinkUp, if_neg (by simp [h]; omega), linkData_eq]

theorem linkDown_eq (h : (s.getPort n).link = true) :
    exec (.linkDown n) s = .next ((s.mapPort n fun y => { y with link := false, verified := false }).flight 0x05 0x02 0xFF
      (n + (s.getPort n).speed * 256)) := by
  rw [exec_linkDown, execLinkDown, if_neg (by simp [h]; omega), State.linkDown, linkData_eq]
  exact congrArg Host.Outcome.next (if_pos h)

theorem gctlSwap_eq {v : DWord} (hb : s.boot.stat = 0) (hv : v.toNat % 512 ≤ 256) :
    exec (.gctlSwap n v) s = .next (s.mapPort n fun y =>
      if v.getLsbD 63 then { y with gctlLen := v.toNat % 512, pending := true, swapAfter := s.devTime.toNat + 2000 }
      else { y with gctlLen := v.toNat % 512 }) := by
  have hlen : bits v.toNat 8 0 = v.toNat % 512 := bits_zero _ _
  rw [exec_gctlSwap, regWrite_running hb, if_pos hn, State.writeGctl, hlen, if_neg (by omega)]

end Links

theorem preemptionVerification_eq {s : State} {n : Nat} (h : (s.getPort n).link = true) (ok : Bool) :
    exec (.preemptionVerification n ok) s = .next (s.mapPort n fun y => { y with verified := ok }) := by
  rw [exec_preemptionVerification, execPreemptionVerification, if_pos h]

/-! ## Gate-control lists (R18) -/

theorem tableGet_tableSet {α : Type} (zero : α) (l : List (Nat × α)) (i j : Nat) (x : α) :
    tableGet zero (tableSet l i x) j = if j = i then x else tableGet zero l j := by
  unfold tableGet tableSet
  rw [find?_put]
  split <;> rfl

/-- A table whose first entries are copied one by one. -/
theorem tableGet_copied {α : Type} (zero : α) (g : Nat → α) (l : List (Nat × α)) (n j : Nat) :
    tableGet zero ((List.range n).foldl (fun l i => tableSet l i (g i)) l) j = if j < n then g j else tableGet zero l j := by
  induction n with
  | zero => simp
  | succ n ih =>
    rw [List.range_succ, List.foldl_append, List.foldl_cons, List.foldl_nil, tableGet_tableSet, ih]
    by_cases h : j = n
    · rw [if_pos h, if_pos (by omega), h]
    · rw [if_neg h]
      by_cases k : j < n
      · rw [if_pos k, if_pos (by omega)]
      · rw [if_neg k, if_neg (by omega)]

/-- A port whose administrative list has become operational (R18). -/
def Port.swapped (x : Port) : Port :=
  { x with pending := false, operLen := x.gctlLen, operCycle := x.gcycle, operBase := x.gbase
           goper := (List.range x.gctlLen).foldl (fun l i => tableSet l i (tableGet 0 x.gadmin i)) x.goper }

theorem oper_swapped {x : Port} {i : Nat} (h : i < x.gctlLen) : x.swapped.oper i = (tableGet 0 x.gadmin i).toNat := by
  rw [Port.oper, Port.swapped, tableGet_copied, if_pos h]

theorem gateListSwap_eq {s : State} {n t : Nat} (hc : (s.getPort n).cycleStart (s.getPort n).swapAfter = some t)
    (hp : (s.getPort n).pending = true) (ht : t ≤ s.devTime.toNat) :
    exec (.gateListSwap n) s = .next (s.mapPort n Port.swapped) := by
  rw [exec_gateListSwap, execGateListSwap]
  simp only [hc]
  rw [if_neg (by simp [hp]; omega)]
  rfl

theorem gateEntryChange_closes {s : State} {n : Nat} {f : TxFrame} (ht : (s.getPort n).tx = some f)
    (hc : (s.getPort n).canPreempt f.tc = true) (hg : (s.getPort n).gateOpen f.tc s.devTime.toNat = false)
    (hp : (s.getPort n).preempted = none) :
    exec (.gateEntryChange n) s = .next (s.mapPort n fun y => { y with tx := none, preempted := some f }) := by
  rw [exec_gateEntryChange, execGateEntryChange]
  refine congrArg Host.Outcome.next (mapPort_congr ?_)
  simp only [ht]
  rw [if_pos (by simp [hc, hg, hp])]

theorem gateEntryChange_opens {s : State} {n : Nat} {f : TxFrame} (ht : (s.getPort n).tx = none)
    (hp : (s.getPort n).preempted = some f) (hg : (s.getPort n).gateOpen f.tc s.devTime.toNat = true) :
    exec (.gateEntryChange n) s = .next (s.mapPort n fun y => { y with tx := some f, preempted := none }) := by
  rw [exec_gateEntryChange, execGateEntryChange]
  refine congrArg Host.Outcome.next (mapPort_congr ?_)
  simp only [ht, Port.resume, hp]
  rw [if_pos hg]

/-! ## The device time (R23) -/

theorem deviceTimeSync_steps {s : State} {ns : DWord} (h : s.ethSync = true) (hf : s.devTime.toNat + 1000000 < ns.toNat) :
    exec (.deviceTimeSync ns) s = .next { s with devTime := ns, timeSynced := true } := by
  rw [exec_deviceTimeSync, execDeviceTimeSync, if_neg (by simp [h]), if_pos hf]

theorem deviceTimeSync_adjusts {s : State} {ns : DWord} (h : s.ethSync = true) (hf : ns.toNat ≤ s.devTime.toNat + 1000000) :
    ∃ r : Int, -1000000 ≤ r ∧
      exec (.deviceTimeSync ns) s = .next { s with timeSynced := true, timeRate := r, freeCtr := s.freeCtr + 1 } := by
  refine ⟨max slowest (Config.freeRate s.freeCtr), Int.le_max_left _ _, ?_⟩
  rw [exec_deviceTimeSync, execDeviceTimeSync, if_neg (by simp [h]), if_neg (by omega)]

theorem deviceTimeSync_off {s : State} (ns : DWord) (h : s.ethSync = false) : exec (.deviceTimeSync ns) s = .next s := by
  rw [exec_deviceTimeSync, execDeviceTimeSync, if_pos (by simp [h])]

theorem ethTimeWrite_same {s : State} {v : DWord} (hb : s.boot.stat = 0) (h : v.toNat % 2 = s.ethSrc) :
    exec (.ethTimeWrite v) s = .next { s with ethSync := v.getLsbD 1 } := by
  have hsrc : bits v.toNat 0 0 = s.ethSrc := (bits_zero _ _).trans h
  rw [exec_ethTimeWrite, regWrite_running hb, State.writeEthTime, hsrc, if_neg (by simp)]

theorem ethTimeWrite_other {s : State} {v : DWord} (hb : s.boot.stat = 0) (h : v.toNat % 2 ≠ s.ethSrc) :
    exec (.ethTimeWrite v) s = .next
      ({ s with ethSrc := v.toNat % 2, ethSync := v.getLsbD 1, timeSynced := false }.flight 0x05 0x03 0xFF (v.toNat % 2)) := by
  have hsrc : bits v.toNat 0 0 = v.toNat % 2 := bits_zero _ _
  rw [exec_ethTimeWrite, regWrite_running hb, State.writeEthTime, hsrc, if_pos h]

/-! ## Words of a table entry (R20) -/

/-- The bits of a word that hold an address or its page: all but the lowest 24. -/
theorem and_addressMask {x : Nat} (h : x < 2 ^ 64) : x &&& maskOf [(63, 24)] = x / 2 ^ 24 * 2 ^ 24 := by
  have hm : maskOf [(63, 24)] = (2 ^ 40 - 1) * 2 ^ 24 := by decide
  apply Nat.eq_of_testBit_eq
  intro i
  rw [hm, Nat.testBit_and, Nat.testBit_mul_two_pow, Nat.testBit_mul_two_pow, Nat.testBit_two_pow_sub_one, Nat.testBit_div_two_pow]
  by_cases hi : 24 ≤ i
  · by_cases hj : i < 64
    · have hlt : i - 24 < 40 := by omega
      simp [hi, hlt, Nat.sub_add_cancel hi]
    · have hx : x.testBit i = false :=
        Nat.testBit_lt_two_pow (Nat.lt_of_lt_of_le h (Nat.pow_le_pow_right (by decide) (by omega : 64 ≤ i)))
      simp [hi, hx, Nat.sub_add_cancel hi]
  · simp [hi]

/-- The word that a write of an address leaves: the address's bits, and the old low ones. -/
def addressWord (old v : Nat) : Nat := v % 2 ^ 64 / 2 ^ 24 * 2 ^ 24 + old % 2 ^ 24

theorem addressWord_lt (old v : Nat) : addressWord old v < 2 ^ 64 := by
  unfold addressWord
  omega

/-- A number whose part `b` is replaced by `x`. -/
theorem replacePart {n B Q a b r : Nat} (h : n = B * (Q * a + b) + r) (x : Nat) : n - b * B + x * B = B * Q * a + (B * x + r) := by
  rw [Nat.mul_add, ← Nat.mul_assoc] at h
  rw [Nat.mul_comm b, Nat.mul_comm x]
  omega

/-- A write of an address changes its word alone. -/
theorem putWord_address (n w v : Nat) :
    putWord n w v (maskOf [(63, 24)]) =
      2 ^ (64 * w + 64) * (n / 2 ^ (64 * w + 64)) + (2 ^ (64 * w) * addressWord (n / 2 ^ (64 * w)) v + n % 2 ^ (64 * w)) := by
  have hn : n = 2 ^ (64 * w) * (2 ^ 64 * (n / 2 ^ (64 * w) / 2 ^ 64) + n / 2 ^ (64 * w) % 2 ^ 64) + n % 2 ^ (64 * w) := by
    rw [Nat.div_add_mod, Nat.div_add_mod]
  have hnew : v % 2 ^ 64 / 2 ^ 24 * 2 ^ 24 + (n / 2 ^ (64 * w) % 2 ^ 64 - n / 2 ^ (64 * w) % 2 ^ 64 / 2 ^ 24 * 2 ^ 24) =
      addressWord (n / 2 ^ (64 * w)) v := by
    unfold addressWord
    omega
  unfold putWord
  simp only [and_addressMask (Nat.mod_lt _ (Nat.two_pow_pos 64))]
  rw [Nat.pow_add, ← Nat.div_div_eq_div_mul, hnew, replacePart hn]

theorem testBit_putWord_address {n w v i : Nat} (h : i < 64 * w ∨ 64 * w + 64 ≤ i) :
    (putWord n w v (maskOf [(63, 24)])).testBit i = n.testBit i := by
  have hlo : n % 2 ^ (64 * w) < 2 ^ (64 * w) := Nat.mod_lt _ (Nat.two_pow_pos _)
  have hmid : 2 ^ (64 * w) * addressWord (n / 2 ^ (64 * w)) v + n % 2 ^ (64 * w) < 2 ^ (64 * w + 64) := by
    have hw : 2 ^ (64 * w) * (addressWord (n / 2 ^ (64 * w)) v + 1) ≤ 2 ^ (64 * w) * 2 ^ 64 :=
      Nat.mul_le_mul_left _ (addressWord_lt _ v)
    rw [Nat.pow_add]
    rw [Nat.mul_add] at hw
    omega
  rw [putWord_address, Nat.testBit_two_pow_mul_add _ hmid]
  obtain h | h := h
  · rw [if_pos (by omega), Nat.testBit_two_pow_mul_add _ hlo, if_pos h, Nat.testBit_mod_two_pow]
    simp [h]
  · rw [if_neg (by omega), Nat.testBit_div_two_pow, Nat.sub_add_cancel h]

/-! ## The stream table (R20) -/

theorem stream_setStream_same (s : State) (p st n : Nat) : (s.setStream p st n).stream p st = n % 2 ^ 256 := by
  have h : (s.streams.filter fun x => !(x.part == p && x.st == st)).find? (fun x => x.part == p && x.st == st) = none := by
    rw [List.find?_eq_none]
    intro x hx
    exact Bool.eq_false_iff.1 (by simpa only [Bool.not_eq_true'] using (List.mem_filter.1 hx).2)
  simp only [State.stream, State.setStream, List.find?_append, h]
  simp

/-- A write of an address into the entry of a stream that is not live in either direction puts it into the entry (R20). -/
theorem writeStream_address {s : State} {p st w v : Nat} (hp : p ≤ 128) (hst : st < 4) (hw : w = 0 ∨ w = 2)
    (hr : rxEn (s.stream p st) = false) (ht : txEn (s.stream p st) = false) :
    s.writeStream p st w v =
      s.setStream p st (putWord (s.stream p st) w (streamValue p w v) (maskOf [(63, 24)])) := by
  have hm : liveMask (s.stream p st) w = maskOf [(63, 24)] := by
    obtain rfl | rfl := hw
    · simp [liveMask, hr, streamMask]
    · simp [liveMask, ht, streamMask]
  have hrn : rxEn (putWord (s.stream p st) w (streamValue p w v) (maskOf [(63, 24)])) = false :=
    (testBit_putWord_address (by omega)).trans hr
  have htn : txEn (putWord (s.stream p st) w (streamValue p w v) (maskOf [(63, 24)])) = false :=
    (testBit_putWord_address (by omega)).trans ht
  unfold State.writeStream
  rw [if_neg (by omega)]
  simp only [hm, hrn, htn, Bool.false_eq_true, false_and, if_false]
  rfl

/-- The address of partition 0's receive object as a write leaves it (R20, R21). -/
theorem rxAddress_written (n : Nat) (v : DWord) :
    putWord n 0 (streamValue 0 0 v.toNat) (maskOf [(63, 24)]) % 2 ^ 256 / 2 ^ 36 % 2 ^ 28 = v.toNat / 2 ^ 36 := by
  have hv := v.isLt
  have hs : streamValue 0 0 v.toNat = v.toNat / 2 ^ 36 * 2 ^ 36 := rfl
  rw [putWord_address, hs, addressWord]
  simp only [Nat.mul_zero, Nat.zero_add, Nat.pow_zero]
  omega

/-- A client's transmit object has no address (R20, R22). -/
theorem txAddress_written {p : Nat} (hp : p ≠ 0) (n v : Nat) :
    bits (putWord n 2 (streamValue p 2 v) (maskOf [(63, 24)]) % 2 ^ 256) 191 152 = 0 := by
  have hs : streamValue p 2 v = 0 := by simp [streamValue, hp]
  rw [putWord_address, hs, addressWord, bits, Nat.shiftRight_eq_div_pow]
  simp only [Nat.reduceMul, Nat.reduceAdd, Nat.reducePow]
  omega

/-! ## Stream filters (R19) -/

/-- A write to a filter's last word keeps its first three (R19). -/
theorem writeFilter_clears {s : State} {i : Nat} {f : Filter} (hi : i < 512) (hf : f ∈ s.filters) (e : f.idx = i)
    (hu : ∀ g ∈ s.filters, g.idx = i → g = f) :
    ∃ g ∈ (s.writeFilter i 3 0).filters, g.idx = i ∧ g.entry.toNat = f.entry.toNat % 2 ^ 192 := by
  have hfind : s.filters.find? (fun x => x.idx == i) = some f := by
    cases h : s.filters.find? (fun x => x.idx == i) with
    | none => exact absurd e (by simpa using List.find?_eq_none.1 h f hf)
    | some g => rw [hu g (List.mem_of_find?_eq_some h) (by simpa using List.find?_some h)]
  refine ⟨{ f with entry := BitVec.ofNat 256 (f.entry.toNat % 2 ^ 192) }, ?_, e, ?_⟩
  · unfold State.writeFilter
    rw [if_neg (by omega)]
    simp [hfind]
  · rw [BitVec.toNat_ofNat]
    omega

/-! ## Reception (R14, R19) -/

theorem receive_badFcs (s : State) (n : Nat) (fr : List Byte) : exec (.ethFrameReceive n fr false) s = .next s := by
  rw [exec_ethFrameReceive, execEthFrameReceive, if_pos (by simp)]

section Reception
variable {s : State} {n : Nat} {fr : List Byte} (hn : n < 2) (he : (s.getPort n).en = true) (hl : (s.getPort n).link = true)
include hn he hl

theorem receive_oversize (h : 9216 < fr.length + 4) :
    exec (.ethFrameReceive n fr true) s = .next (s.mapPort n fun y => { y with oversize := y.oversize + 1 }) := by
  rw [exec_ethFrameReceive, execEthFrameReceive, if_neg (by simp [he, hl]; omega), if_pos h]

variable (hf : 64 ≤ fr.length + 4)
include hf

theorem receive_undecided (h : fr.length + 4 ≤ 9216) (hd : s.decide_ n fr = none) :
    exec (.ethFrameReceive n fr true) s = .next (s.deliver 0 0 0xFFFF n (isTag (frameNat fr 12 2)) fr).1 := by
  rw [exec_ethFrameReceive, execEthFrameReceive, if_neg (by simp [he, hl]; omega), if_neg (by omega)]
  simp only [hd]

theorem receive_decided {f : Filter} (h : fr.length + 4 ≤ 9216) (hd : s.decide_ n fr = some f) :
    exec (.ethFrameReceive n fr true) s = .next (s.decided f n (isTag (frameNat fr 12 2)) fr) := by
  rw [exec_ethFrameReceive, execEthFrameReceive, if_neg (by simp [he, hl]; omega), if_neg (by omega)]
  simp only [hd]

end Reception

/-! ## Transmission (R16-R18, R20, R22) -/

/-- The walk over passed slots begins with the one at TXRD. -/
theorem txSkip_frame {s : State} {p e len l : Nat} (k : Nat) (h : s.txSlot p e = .frame len l) :
    s.txSkip p e (2 ^ k) = s.txTouch p e := by
  obtain ⟨n, hn⟩ := Nat.exists_eq_succ_of_ne_zero (Nat.ne_of_gt (Nat.two_pow_pos k))
  rw [hn, Nat.succ_eq_add_one, State.txSkip]
  simp only [h]

theorem txSkip_skip {s : State} {p e : Nat} (k : Nat) (h : s.txSlot p e = .skip) :
    s.txSkip p e (2 ^ k) = (((s.txTouch p e).ringCount (txRing p e) 0x10).txAdvance p e).txSkip p e (2 ^ k - 1) := by
  obtain ⟨n, hn⟩ := Nat.exists_eq_succ_of_ne_zero (Nat.ne_of_gt (Nat.two_pow_pos k))
  rw [hn, Nat.succ_eq_add_one, State.txSkip]
  simp only [h]
  rfl

section Transmission
variable {s : State} {p st e : Nat} {x : Port} (he : e = s.stream p st) (hx : x = s.getPort (bits e 235 235))
include he hx

theorem txRingPoll_sending (hs : x.sending p st = true) : exec (.txRingPoll p st) s = .next s := by
  subst he hx
  rw [exec_txRingPoll, execTxRingPoll, if_pos (by simp [hs])]

theorem txFrameStart_sending (hs : x.sending p st = true) : exec (.txFrameStart p st) s = .next s := by
  subst he hx
  rw [exec_txFrameStart, execTxFrameStart, if_pos (by simp [hs])]

variable (ht : txEn e = true) (hl : s.live p st = true) (hs : x.sending p st = false)
include ht hl hs

theorem txRingPoll_skips : exec (.txRingPoll p st) s = .next (s.txSkip p e (2 ^ bits e 225 222)) := by
  subst he hx
  rw [exec_txRingPoll, execTxRingPoll, if_neg (by simp [ht, hl, hs])]

variable {len l : Nat} (hslot : s.txSlot p e = .frame len l) (hen : x.en = true) (hlink : x.link = true)
include hslot hen hlink

/-- A frame whose queue lacks credit waits (R17). -/
theorem txFrameStart_waits (hc : x.hasCredit (bits e 238 236) = false) :
    exec (.txFrameStart p st) s = .next (s.txTouch p e) := by
  subst he hx
  rw [exec_txFrameStart, execTxFrameStart, if_neg (by simp [ht, hl, hs, hen, hlink])]
  simp only [hslot]
  rw [if_pos (by simp [hc])]

/-- An express frame starts on an idle port in its time and window, where its gate does not close too soon (R18, R20, R22). -/
theorem txFrameStart_starts (hnow : l ≤ s.devTime.toNat) (hw : x.inWindow e s.devTime.toNat = true) (htx : x.tx = none)
    (hp : x.canPreempt (bits e 238 236) = false)
    (hg : ∀ t, x.gateTime (bits e 238 236) s.devTime.toNat = some t → x.frameTime len ≤ t)
    (hc : x.hasCredit (bits e 238 236) = true) :
    exec (.txFrameStart p st) s = .next ((s.txTouch p e).mapPort (bits e 235 235) fun y =>
      { y with tx := some { part := p, stream := st, tc := bits e 238 236, len := len } }) := by
  subst he hx
  rw [exec_txFrameStart, execTxFrameStart, if_neg (by simp [ht, hl, hs, hen, hlink])]
  simp only [hslot, htx, hp]
  rw [if_neg]
  · rfl
  · cases hgt : (s.getPort (bits (s.stream p st) 235 235)).gateTime (bits (s.stream p st) 238 236) s.devTime.toNat with
    | none => simp [hw, hc, hnow]
    | some t => simp [hw, hc, hnow, hg t hgt]

end Transmission

/-- A shaped queue with negative credit is held back (R17). -/
theorem hasCredit_negative {x : Port} {q : Nat} (hi : x.idleSlope q ≠ 0) (hc : x.credit[q - 4]?.getD 0 < 0) :
    x.hasCredit q = false := by
  simp [Port.hasCredit, hi, hc]

theorem resume_none {x : Port} (h : x.tx = none) (hp : x.preempted = none) (now : Nat) : x.resume now = x := by
  unfold Port.resume
  simp only [h, hp]

section Sent
variable {s : State} {n : Nat} {f : TxFrame} (ht : (s.getPort n).tx = some f) (hc : (s.getPort n).canPreempt f.tc = false)
  (hp : (s.getPort n).preempted = none)
include ht hc hp

/-- A frame that has been sent leaves its port, and its slot if its stream is still live (R22). -/
theorem txFrameSent_eq :
    exec (.txFrameSent n) s =
      let s1 := s.mapPort n fun y => { y with tx := none }
      let e := s.stream f.part f.stream
      if s.live f.part f.stream then
        .next (if e.testBit 227 then (s1.txAdvance f.part e).arrival f.part (bits e 233 228) else s1.txAdvance f.part e)
      else .next s1 := by
  have hs1 : (s.mapPort n fun x => ({ x with tx := none } : Port).resume s.devTime.toNat) =
      s.mapPort n fun y => { y with tx := none } := mapPort_congr
      (resume_none (x := { s.getPort n with tx := none }) rfl hp _)
  rw [exec_txFrameSent, execTxFrameSent]
  simp only [ht, hs1]
  rw [if_neg (by simp [hc])]
  show (if !s.live f.part f.stream then _ else _) = _
  cases s.live f.part f.stream <;> rfl

end Sent

/-- Settles O47: links, gate lists and the device time by the branches of their events, the stream table by the word that a write
puts into an entry, and transmission by the slot at TXRD. -/
theorem ethernetResults : Obligations.EthernetResults := by
  unfold Obligations.EthernetResults
  refine ⟨?_, ?_⟩
  · intro s port v ns hn hl
    dsimp only
    refine ⟨linkUp_eq hn, linkDown_eq hn, preemptionVerification_eq, gctlSwap_eq hn, fun t hc hp ht => ?_,
      fun f => gateEntryChange_closes, fun f => gateEntryChange_opens, deviceTimeSync_steps, deviceTimeSync_adjusts,
      deviceTimeSync_off ns, rfl, ethTimeWrite_same, ethTimeWrite_other, fun hb => ⟨?_, ?_⟩⟩
    · refine ⟨_, gateListSwap_eq hc hp ht, ?_⟩
      rw [getPort_mapPort_same (hl ▸ hn)]
      exact ⟨rfl, rfl, rfl, rfl, fun i => oper_swapped, rfl, rfl⟩
    · rw [exec_ethTimeWrite, regWrite_recovery hb]
    · rw [exec_gctlSwap, regWrite_recovery hb]
  · intro s port p st i w fr v hn hl
    dsimp only
    refine ⟨fun he hlink hf => ⟨receive_badFcs s port fr, receive_oversize hn he hlink, receive_undecided hn he hlink hf,
      fun f => receive_decided hn he hlink hf⟩, fun hb => ?_, fun hb hi f hf e hu => ?_, fun hb => ?_,
      fun hb hp hst hw hr ht => ?_, fun ht hlive => ⟨fun hs len l hslot => ⟨?_, ?_, ?_⟩, fun hs => ⟨?_, ?_⟩⟩,
      fun ht hlive hs hslot => ?_, fun f ht hc hp => ⟨fun hlive => ?_, fun hlive => ?_⟩⟩
    · rw [exec_streamFilterClear, regWrite_running hb, if_pos rfl]
    · refine ⟨_, ?_, writeFilter_clears hi hf e hu⟩
      rw [exec_streamFilterClear, regWrite_running hb, if_pos rfl]
    · rw [exec_streamEntryWrite, regWrite_running hb]
    · refine ⟨s.writeStream p st w v.toNat, ?_, ?_, ?_⟩
      · rw [exec_streamEntryWrite, regWrite_running hb]
      · rintro rfl rfl
        rw [writeStream_address hp hst (.inl rfl) hr ht, stream_setStream_same, rxAddress_written]
      · rintro rfl h0
        rw [writeStream_address hp hst (.inr rfl) hr ht, stream_setStream_same, txAddress_written h0]
    · rw [txRingPoll_skips rfl rfl ht hlive hs, txSkip_frame _ hslot]
    · intro hen hlink hnow hw htx hpre hg hcr
      exact txFrameStart_starts rfl rfl ht hlive hs hslot hen hlink hnow hw htx hpre hg hcr
    · intro hen hlink _ hslope hcredit
      exact txFrameStart_waits rfl rfl ht hlive hs hslot hen hlink (hasCredit_negative hslope hcredit)
    · exact txRingPoll_sending rfl rfl hs
    · exact txFrameStart_sending rfl rfl hs
    · rw [txRingPoll_skips rfl rfl ht hlive hs, txSkip_skip _ hslot]
    · rw [txFrameSent_eq ht hc hp]
      simp only [hlive]
      rfl
    · rw [txFrameSent_eq ht hc hp]
      simp only [hlive]
      rfl

end Sys2Proof.Machine
end

section
/-!
The state after a cold reset, and a team as its neighbourhood starts (R26, R33, R56, R72, R89, R92, R98, R170).
-/
namespace Sys2Proof.Machine

/-- A lookup in a list of defaults is the default, in the list and past its end. -/
theorem getD_getElem?_replicate {α : Type} (d : α) (n i : Nat) : (List.replicate n d)[i]?.getD d = d := by
  rw [List.getElem?_replicate]
  split <;> rfl

theorem reset_getPart {p : Nat} (h : 1 ≤ p) : State.reset.getPart p = Partition.reset := by
  obtain ⟨k, rfl⟩ : ∃ k, p = k + 1 := ⟨p - 1, by omega⟩
  exact getD_getElem?_replicate _ 128 k

section TeamStart
variable (p : LaunchRec) (w : Place2) (clk : Nat)

theorem getLsbD_fullMask {n l : Nat} (h : l < 1024) : (fullMask n).getLsbD l = decide (l < n) := by
  rw [fullMask, BitVec.getLsbD_ofNat, Nat.testBit_two_pow_sub_one]
  simp [h]

theorem teamStart_readS_low {r : Spec} (h : r.toNat < 32) : (teamStart p w none clk).readS r = 0 := by
  have hr : r ≠ 0xFF := by rintro rfl; simp at h
  rw [Team.readS, if_neg hr]
  show (List.replicate 32 0 ++ _)[r.toNat]?.getD 0 = 0
  rw [List.getElem?_append_left (by simpa using h), getD_getElem?_replicate]

theorem teamStart_readS_const {k : Nat} (h : k < 32) :
    (teamStart p w none clk).readS (BitVec.ofNat 8 (32 + k)) = p.consts[k]?.getD 0 := by
  have ht : (BitVec.ofNat 8 (32 + k)).toNat = 32 + k := by
    rw [BitVec.toNat_ofNat]
    omega
  have hr : BitVec.ofNat 8 (32 + k) ≠ 0xFF := by
    intro e
    have := congrArg BitVec.toNat e
    rw [ht] at this
    simp at this
    omega
  rw [Team.readS, if_neg hr, ht]
  show (List.replicate 32 0 ++ (List.range 32).map fun i => p.consts[i]?.getD 0)[32 + k]?.getD 0 = _
  rw [List.getElem?_append_right (by simp), List.length_replicate, Nat.add_sub_cancel_left]
  simp [h]

theorem teamStart_readA (r : Spec) : (teamStart p w none clk).readA r = (0, 0) :=
  getD_getElem?_replicate _ 32 r.toNat

theorem teamStart_readC_cap {k : Nat} (h : k < 8) :
    (teamStart p w none clk).readC (BitVec.ofNat 8 k) = p.caps[k]?.getD 0 := by
  have ht : (BitVec.ofNat 8 k).toNat = k := by
    rw [BitVec.toNat_ofNat]
    omega
  rw [Team.readC, ht]
  show ((List.range 8).map (fun i => p.caps[i]?.getD nullCap) ++ List.replicate 8 nullCap)[k]?.getD nullCap = _
  rw [List.getElem?_append_left (by simpa using h)]
  simp [h, nullCap]

theorem teamStart_readC_null {k : Nat} (h : 8 ≤ k) (h1 : k < 16) : (teamStart p w none clk).readC (BitVec.ofNat 8 k) = 0 := by
  have ht : (BitVec.ofNat 8 k).toNat = k := by
    rw [BitVec.toNat_ofNat]
    omega
  rw [Team.readC, ht]
  show ((List.range 8).map (fun i => p.caps[i]?.getD nullCap) ++ List.replicate 8 nullCap)[k]?.getD nullCap = _
  rw [List.getElem?_append_right (by simpa using h), getD_getElem?_replicate]
  rfl

theorem teamStart_readQ {i : BitVec 3} (h : i ≠ 7) : (teamStart p w none clk).readQ i = false := by
  rw [Team.readQ, decide_eq_false h, Bool.false_or]
  exact BitVec.getLsbD_zero

theorem teamStart_readP {i : BitVec 3} (h : i ≠ 7) : (teamStart p w none clk).readP i = 0 := by
  rw [Team.readP, if_neg h]
  exact getD_getElem?_replicate _ 7 i.toNat

/-- Every varying register of a team that starts is a row of zeros. -/
theorem teamStart_readV (r : Spec) : (teamStart p w none clk).readV r = zeroRow p.lanes := by
  unfold Team.readV
  dsimp only
  split
  · exact getD_getElem?_replicate _ p.vregs r.toNat
  · split
    · exact getD_getElem?_replicate _ 8 _
    · split
      · rfl
      · split <;> rfl

theorem laneWord_zeroRow (n l : Nat) : laneWord (zeroRow n) l = 0 := getD_getElem?_replicate _ n l

end TeamStart

/-- Settles O1: the reset state field by field, and a starting team register file by register file. -/
theorem resetAndTeamStart : Obligations.ResetAndTeamStart := by
  unfold Obligations.ResetAndTeamStart
  refine ⟨?_, fun p w clk _ => ?_⟩
  · refine ⟨rfl, rfl, rfl, rfl, rfl, rfl, rfl, rfl, rfl, rfl, rfl, rfl, rfl, List.length_replicate, by
        show (List.replicate 128 Partition.reset).length + 1 = 129
        rw [List.length_replicate], rfl, fun p h _ => ?_, rfl, rfl, rfl, rfl, rfl, fun w hw => ?_, rfl, rfl, fun o ho => ?_,
      fun o ho => ?_⟩
    · rw [reset_getPart h]
      refine ⟨rfl, rfl, rfl, fun q hq => ?_⟩
      obtain rfl := List.eq_of_mem_replicate hq
      exact ⟨rfl, rfl, rfl, rfl⟩
    · obtain rfl := List.eq_of_mem_replicate hw
      exact ⟨rfl, rfl, rfl, rfl⟩
    · obtain rfl : o = Output.reset := List.eq_of_mem_replicate (n := 2) ho
      rfl
    · obtain rfl : o = Port.reset := List.eq_of_mem_replicate (n := 2) ho
      exact ⟨rfl, rfl⟩
  · refine ⟨rfl, rfl, rfl, rfl, rfl, rfl, rfl, fun l hl => ⟨getLsbD_fullMask hl, getLsbD_fullMask hl⟩,
      fun r hr => ⟨teamStart_readS_low p w clk hr, teamStart_readA p w clk r⟩, fun k => teamStart_readS_const p w clk,
      fun k => teamStart_readC_cap p w clk, fun k => teamStart_readC_null p w clk,
      fun i hi => ⟨teamStart_readQ p w clk hi, teamStart_readP p w clk hi⟩, fun r l => ?_, rfl, rfl, rfl, fun k => ?_,
      fun l hl => ?_⟩
    · rw [teamStart_readV, laneWord_zeroRow]
    · exact getD_getElem?_replicate _ 8 k
    · obtain rfl := List.eq_of_mem_replicate hl
      exact ⟨rfl, rfl⟩

/-- Settles O2: reset memory lists nothing, and the empty list is in canonical form. -/
theorem resetSatisfiesInvariant : Obligations.ResetSatisfiesInvariant := by
  unfold Obligations.ResetSatisfiesInvariant Memory.wf
  exact (cellsWf_iff _ _).2 ⟨List.Pairwise.nil, fun _ h => nomatch h⟩

end Sys2Proof.Machine
end

section
/-!
What a step is (R28, R53, R54, R94, R95, R232): the agent that the schedule names moves, and a team's fetch reads the words at its
pc.
-/
namespace Sys2Proof.Machine

/-! ## Fetching (R167, R232) -/

/-- The words that a fetch reads of an instruction are those that LEN names (R233). -/
theorem fetchCount_eq (w0 : Word) :
    (if w0.extractLsb' 0 2 = 3 then 1 else (w0.extractLsb' 0 2).toNat + 1) = wordCount w0 := by
  rw [wordCount]
  exact ite_congr (propext BitVec.toNat_inj.symm) (fun _ => rfl) (fun _ => rfl)

theorem fieldWords_teamFields (w0 w1 w2 : Word) : fieldWords (teamFields w0 w1 w2) = wordCount w0 := fetchCount_eq w0

theorem wordCount_pos (w0 : Word) : 1 ≤ wordCount w0 := by
  rw [wordCount]
  split <;> omega

/-- A code word that the capability, the tables and the memory let through (R232). -/
theorem codeWord_ok {s : State} {t : Team} {off : Nat} {x : Xl} {w : Word}
    (hx : s.translate t.part (Cap.handle t.prm.code) (Cap.base t.prm.code + off) 4 [23] 0x34 = .ok x)
    (hb : s.badIn x.pa 4 = none) (hw : s.homeNat x.pa 4 = w.toNat) : s.codeWord t off = .ok w := by
  unfold State.codeWord
  simp only [hx, hb, hw, BitVec.ofNat_toNat, BitVec.setWidth_eq]

theorem codeWords_ok {s : State} {t : Team} {n : Nat} {w : Nat → Word}
    (h : ∀ k < n, s.codeWord t (t.pc.toNat + 4 * k) = .ok (w k)) :
    s.codeWords t n = .ok ((List.range n).map w) := by
  have hrs : (List.range n).map (fun k => s.codeWord t (t.pc.toNat + 4 * k)) = (List.range n).map fun k => .ok (w k) :=
    List.map_congr_left fun k hk => h k (List.mem_range.1 hk)
  unfold State.codeWords
  have hnone : ((List.range n).findSome? fun _ => (none : Option XErr)) = none := by
    rw [List.findSome?_eq_none_iff]
    exact fun _ _ => rfl
  simp [hrs, List.findSome?_map, Function.comp_def, hnone]

theorem teamFields_range (w : Nat → Word) :
    teamFields (((List.range (wordCount (w 0))).map w).headD 0) (((List.range (wordCount (w 0))).map w)[1]?.getD 0)
      (((List.range (wordCount (w 0))).map w)[2]?.getD 0) = teamFields (w 0) (w 1) (w 2) := by
  obtain ⟨n, hn⟩ := Nat.exists_eq_succ_of_ne_zero (Nat.ne_of_gt (wordCount_pos (w 0)))
  have h0 : ((List.range (wordCount (w 0))).map w).headD 0 = w 0 := by
    rw [hn, List.range_succ_eq_map]
    rfl
  have hk (k : Nat) (d : Word) (h : ¬ wordCount (w 0) < k + 1) : ((List.range (wordCount (w 0))).map w)[k]?.getD d = w k := by
    simp [List.getElem?_range (Nat.lt_of_succ_le (Nat.le_of_not_lt h))]
  rw [h0]
  unfold teamFields
  dsimp only
  congr 1
  · exact ite_congr rfl (fun _ => rfl) (hk 1 0)
  · exact ite_congr rfl (fun _ => rfl) (hk 2 0)

/-- A fetch whose words are all within bounds and readable answers them (R232). -/
theorem fetch_words {s : State} {t : Team} {w : Nat → Word} (hi : t.canIssue = true)
    (hl : t.pc.toNat + 4 * wordCount (w 0) ≤ Cap.length t.prm.code)
    (h : ∀ k < wordCount (w 0), s.codeWord t (t.pc.toNat + 4 * k) = .ok (w k)) :
    s.fetch t = .words (teamFields (w 0) (w 1) (w 2)) := by
  have hpos := wordCount_pos (w 0)
  have h1 : s.codeWords t 1 = .ok [w 0] := codeWords_ok (n := 1) fun k hk => h k (by omega)
  unfold State.fetch
  rw [if_neg (by simp [hi]), if_neg (by omega)]
  have hn : (if ([w 0].headD 0).extractLsb' 0 2 = 3 then 1 else (([w 0].headD 0).extractLsb' 0 2).toNat + 1) =
      wordCount (w 0) := fetchCount_eq (w 0)
  simp only [h1, hn, codeWords_ok h]
  rw [if_neg (by omega), teamFields_range]

/-! ## The agents -/

theorem step_moves {s : State} {a : Actor} {rest : List Actor} (h : s.schedule = a :: rest) (hm : s.canMove a = true) :
    step s = stepActor a { s with schedule := rest } := by
  unfold step
  simp only [h, hm, if_true]

theorem step_waits {s : State} {a : Actor} {rest : List Actor} (h : s.schedule = a :: rest) (hm : s.canMove a = false) :
    step s = .next { s with schedule := rest } := by
  unfold step
  simp only [h, hm, Bool.false_eq_true, if_false]

theorem canMove_team {s : State} (h : s.frozen = false) (n : Nat) : s.canMove (.team n) = true := by
  simp [State.canMove, h]

theorem canMove_gondola {s : State} (h : s.frozen = false) (hb : s.boot.stat = 0) (n : Nat) : s.canMove (.gondola n) = true := by
  simp [State.canMove, h, hb]

theorem canMove_event {s : State} (h : s.frozen = false) (i : Instr) : s.canMove (.event i) = true := by
  cases i <;> simp [State.canMove, h]

/-- With the clocks stopped only resets and the passing of time happen (R28). -/
theorem canMove_frozen {s : State} {a : Actor} (h : s.frozen = true) (hc : a ≠ .event .coldReset)
    (hw : ∀ c, a ≠ .event (.warmReset c)) (ht : ∀ c d, a ≠ .tick c d) : s.canMove a = false := by
  unfold State.canMove
  split
  · simp [h]
  · simp [h]
  · exact absurd rfl hc
  · exact absurd rfl (hw _)
  · simp [h]
  · exact absurd rfl (ht _ _)

theorem stepTeam_runs {s : State} {n : Nat} {t : Team} {w : Nat → Word} (ht : s.team? n = some t)
    (hf : s.fetch t = .words (teamFields (w 0) (w 1) (w 2))) :
    stepTeam n s = exec (decodeTeam (w 0) (w 1) (w 2)) { s.fetched t (wordCount (w 0)) with cur := n } := by
  unfold stepTeam
  simp only [ht, hf, fieldWords_teamFields]
  rfl

theorem stepTeam_idle {s : State} {n : Nat} {t : Team} (ht : s.team? n = some t) (hi : t.canIssue = false) :
    stepTeam n s = .next s := by
  have hf : s.fetch t = .next s := by
    unfold State.fetch
    rw [if_pos (by simp [hi])]
  unfold stepTeam
  simp only [ht, hf]

section Gondola
variable {s : State} {n : Nat}

theorem stepGondola_xgnd {i : Instr} (h : decodeGondola (s.gondolaWord n) = .xgnd i) :
    stepGondola n s = exec i { s with gcur := n } := by
  unfold stepGondola
  simp only [h]

theorem stepGondola_illegal (h : decodeGondola (s.gondolaWord n) = .illegal) :
    stepGondola n s = .next (s.gondolaTrap n 2 (s.gondolaWord n)) := by
  unfold stepGondola
  simp only [h]

theorem stepGondola_base (h : decodeGondola (s.gondolaWord n) = .base) :
    stepGondola n s = execRv32 n (s.gondolaWord n) s := by
  unfold stepGondola
  simp only [h]

end Gondola

/-- With the clocks stopped nothing passes (R28). -/
theorem tick_frozen {s : State} (h : s.frozen = true) (c d : Nat) : s.tick c d = s := by
  rw [State.tick, if_pos h]

theorem tick_running {s : State} (h : s.frozen = false) (c d : Nat) :
    (s.tick c d).clk = s.clk + c ∧
      (s.timeRate = 0 → s.timeFrac = 0 → (s.tick c d).devTime = s.devTime + BitVec.ofNat 64 d) := by
  rw [State.tick, if_neg (by simp [h])]
  refine ⟨rfl, fun hr hf => ?_⟩
  have ht : (s.timeFrac + d * (10 ^ 9 + s.timeRate).toNat) / 10 ^ 9 = d := by
    rw [hr, hf, Nat.zero_add]
    exact Nat.mul_div_cancel d (by decide : 0 < 10 ^ 9)
  simp only [ht]

theorem tick_frame (s : State) (c d : Nat) : (s.tick c d).teams = s.teams ∧ (s.tick c d).mem = s.mem := by
  unfold State.tick
  dsimp only
  split <;> exact ⟨rfl, rfl⟩

/-- Settles O6: the agent at the head of the schedule moves if it can, and a team's fetch answers the words at its pc. -/
theorem stepRunsDecodedInstruction : Obligations.StepRunsDecodedInstruction := by
  unfold Obligations.StepRunsDecodedInstruction
  intro s rest n s0
  refine ⟨?_, ?_, ?_, ?_, ?_, ?_, ?_⟩
  · intro t w hs hf ht hi hl hw
    have hcode : ∀ k < wordCount (w 0), s0.codeWord t (t.pc.toNat + 4 * k) = .ok (w k) := by
      intro k hk
      obtain ⟨x, hx, hb, hn⟩ := hw k hk
      exact codeWord_ok (s := s0) hx hb hn
    rw [step_moves hs (canMove_team hf n)]
    exact stepTeam_runs ht (fetch_words hi hl hcode)
  · intro t hs hf ht hi
    rw [step_moves hs (canMove_team hf n)]
    exact stepTeam_idle ht hi
  · intro hs hf hb
    rw [step_moves hs (canMove_gondola hf hb n)]
    exact ⟨fun i => stepGondola_xgnd (s := s0), stepGondola_illegal (s := s0), stepGondola_base (s := s0)⟩
  · intro i hs hf he
    rw [step_moves hs (canMove_event hf i)]
    exact if_pos he
  · intro a hs hf hc hw ht
    exact step_waits hs (canMove_frozen hf hc hw ht)
  · intro c d hs
    obtain ⟨hteams, hmem⟩ := tick_frame s0.settleTimers c d
    refine ⟨_, step_moves hs rfl, hteams, hmem, fun hf => ?_, fun hf => ?_⟩
    · rw [tick_frozen (s := s0.settleTimers) hf]
      exact ⟨rfl, rfl, rfl⟩
    · exact tick_running (s := s0.settleTimers) hf c d
  · intro hs
    unfold step
    simp only [hs]

end Sys2Proof.Machine
end

section
/-!
The table port's commands and the notify pages (R36-R40, R48, R55-R57, R66, R69, R70): the order of the port's checks, what each
command answers, and the wakes of a page while the aperture is awake and while it is gated.
-/
namespace Sys2Proof.Machine

theorem exec_claim (s : State) : exec .claim s = execClaim s := rfl
theorem exec_activate (s : State) : exec .activate s = execActivate s := rfl
theorem exec_retire (s : State) : exec .retire s = execRetire s := rfl
theorem exec_reset (s : State) : exec .reset s = execReset s := rfl
theorem exec_release (s : State) : exec .release s = execRelease s := rfl
theorem exec_setHandle (s : State) : exec .setHandle s = execSetHandle s := rfl
theorem exec_revoke (s : State) : exec .revoke s = execRevoke s := rfl
theorem exec_setDesc (s : State) : exec .setDesc s = execSetDesc s := rfl
theorem exec_setFrame (s : State) : exec .setFrame s = execSetFrame s := rfl
theorem exec_attest (s : State) : exec .attest s = execAttest s := rfl
theorem exec_tblStatRead (s : State) : exec .tblStatRead s = execTblStatRead s := rfl
theorem exec_qwrWrite (p q : Nat) (v : DWord) (s : State) : exec (.qwrWrite p q v) s = execQwrWrite p q v s := rfl
theorem exec_qretryWrite (p q : Nat) (s : State) : exec (.qretryWrite p q) s = execQretryWrite p q s := rfl
theorem exec_qctlWrite (p q : Nat) (v : DWord) (s : State) : exec (.qctlWrite p q v) s = execQctlWrite p q v s := rfl
theorem exec_mboxWrite (p m : Nat) (s : State) : exec (.mboxWrite p m) s = .next (s.arrival p m) := rfl
theorem exec_apertureWake (s : State) : exec .apertureWake s = execApertureWake s := rfl
theorem exec_gondolaTimer (core : Nat) (s : State) : exec (.gondolaTimer core) s = execGondolaTimer core s := rfl

/-! ## A command that the port executes (R36) -/

/-- The port holds a command with a code for a client partition, no reserved bit set, and the firmware runs (R36, R46). -/
structure State.Holds (s : State) (code p : Nat) : Prop where
  running : s.boot.stat = 0
  client : ¬ (p = 0 ∨ 128 < p)
  word : ∃ c, s.tbl.cmd = some c ∧ bits c.toNat 63 56 = code ∧ bits c.toNat 55 48 = p ∧ bits c.toNat 47 0 = 0

theorem holds_of_word {s : State} {code p : Nat} {c : DWord} (hb : s.boot.stat = 0) (h0 : 0 < p) (hp : p ≤ 128)
    (hs : s.tbl.cmd = some c) (_ : code < 256) (hw : c.toNat = code * 2 ^ 56 + p * 2 ^ 48) : s.Holds code p := by
  refine ⟨hb, by omega, c, hs, ?_⟩
  simp only [bits, Nat.shiftRight_eq_div_pow, hw]
  omega

/-- The outcome of a command by what its body answers (R36). -/
def State.answer (s : State) (p : Nat) : CmdRes → Out
  | .done q => .next (q.endCmd p 0)
  | .fail r => .next (s.endCmd p r)
  | .wait q => .next q

section Command
variable {s : State} {code p : Nat} {legal : List PState} {body : State → Nat → CmdRes} (h : s.Holds code p)
include h

theorem command_answers (hl : (s.getPart p).st ∈ legal) {r : CmdRes} (hr : body s p = r) :
    s.command code legal body = s.answer p r := by
  obtain ⟨hb, hp, c, hs, hcode, hpart, hzero⟩ := h
  unfold State.command
  simp only [hs]
  rw [if_neg (by simp [hb, hcode]), hpart, if_neg hp, if_neg (by simpa using hl), if_neg (by simp [hzero]), hr]
  cases r <;> rfl

/-- A command for a partition in another state ends with result 1 (R36). -/
theorem command_refused (hl : (s.getPart p).st ∉ legal) : s.command code legal body = .next (s.endCmd p 1) := by
  obtain ⟨hb, hp, c, hs, hcode, hpart, -⟩ := h
  unfold State.command
  simp only [hs]
  rw [if_neg (by simp [hb, hcode]), hpart, if_neg hp, if_pos (by simpa using hl)]

end Command

/-- The states in which the commands on objects run (R37). -/
def State.Live (s : State) (p : Nat) : Prop := (s.getPart p).st = .configured ∨ (s.getPart p).st = .runnable

theorem State.Live.mem {s : State} {p : Nat} (h : s.Live p) : (s.getPart p).st ∈ [PState.configured, .runnable] := by
  simpa [State.Live] using h

theorem tableRead_none (s : State) (r : CmdRes) : s.tableRead none r = r := rfl

/-- Without a kill-class fault meanwhile, the end of a command clears BUSY and shows its result (R36, R40). -/
theorem endCmd_idle {s : State} {p r : Nat} (hr : r < 256) (hs : s.tbl.stops = []) :
    (s.endCmd p r).tbl.cmd = none ∧ (s.endCmd p r).tbl.result.toNat = r := by
  unfold State.endCmd
  simp only [hs, List.contains_nil, Bool.false_eq_true, false_and, if_false, BitVec.toNat_ofNat]
  exact ⟨trivial, Nat.mod_eq_of_lt hr⟩

/-- TBL.STAT of a port that executes a command (R36). -/
theorem stat_busy {t : TablePort} {c : DWord} (h : t.cmd = some c) : t.stat = 2 ^ 63 + if t.drop then 2 ^ 62 else 0 := by
  cases hd : t.drop <;> simp [TablePort.stat, h, hd, b2n]

/-! ## The states of a partition (R37, R38, R40) -/

section Lifecycle
variable {s : State} {p : Nat}

theorem claim_done (h : s.Holds 0x01 p) (hx : (s.getPart p).st = .free) :
    exec .claim s = .next ((s.mapPart p fun y => { y with desc := Desc.reset, gused := 0, st := .configured }).endCmd p 0) :=
  (exec_claim s).trans (command_answers h (by simp [hx]) rfl)

theorem release_done (h : s.Holds 0x05 p) (hx : (s.getPart p).st = .configured) :
    exec .release s = .next ((s.mapPart p fun y => { y with desc := Desc.reset, gused := 0, st := .free }).endCmd p 0) :=
  (exec_release s).trans (command_answers h (by simp [hx]) rfl)

theorem activate_done (h : s.Holds 0x02 p) (hx : (s.getPart p).st = .configured) (ha : s.activates p = true) :
    exec .activate s
      = .next ((s.mapPart p fun y => { y with st := .runnable, fqWr := 0, fqRd := 0, phase := false }).endCmd p 0) :=
  (exec_activate s).trans (command_answers h (by simp [hx]) (r := .done _) (if_pos ha))

theorem activate_fails (h : s.Holds 0x02 p) (hx : (s.getPart p).st = .configured) (ha : s.activates p = false) :
    exec .activate s = .next (s.endCmd p 4) :=
  (exec_activate s).trans (command_answers h (by simp [hx]) (r := .fail 4) (if_neg (by simp [ha])))

theorem retire_done (h : s.Holds 0x03 p) (hx : (s.getPart p).st = .runnable) (hb : s.mapsBad = none) :
    exec .retire s = .next (((s.killTeams p).cleanPart p).endCmd p 0) :=
  (exec_retire s).trans (command_answers h (by simp [hx]) (r := .done _) (by rw [hb, tableRead_none]))

theorem reset_stopped (h : s.Holds 0x04 p) (hx : (s.getPart p).st = .stopped) :
    exec .reset s = .next (s.mapPart p fun y => { y with st := .resetting }) :=
  (exec_reset s).trans (command_answers h (by simp [hx]) (r := .wait _) (by simp [hx]))

theorem reset_runnable (h : s.Holds 0x04 p) (hx : (s.getPart p).st = .runnable) :
    exec .reset s = .next ((s.killTeams p).mapPart p fun y => { y with st := .resetting }) :=
  (exec_reset s).trans (command_answers h (by simp [hx]) (r := .wait _) (by simp [hx]))

/-- The second step of RESET (R37). -/
theorem reset_resetting (h : s.Holds 0x04 p) (hx : (s.getPart p).st = .resetting) (hb : s.mapsBad = none) :
    exec .reset s = .next ((s.cleanPart p).endCmd p 0) :=
  (exec_reset s).trans (command_answers h (by simp [hx]) (r := .done _) (by rw [if_pos hx, hb, tableRead_none]))

/-- While a partition is RESETTING the commands that would change its state are refused (R37). -/
theorem resetting_refuses {k : Nat} {i : Instr} (hm : (k, i) ∈ [(0x01, Instr.claim), (0x03, .retire), (0x05, .release)])
    (h : s.Holds k p) (hx : (s.getPart p).st = .resetting) : exec i s = .next (s.endCmd p 1) := by
  simp only [List.mem_cons, List.not_mem_nil, or_false, Prod.mk.injEq] at hm
  obtain ⟨rfl, rfl⟩ | ⟨rfl, rfl⟩ | ⟨rfl, rfl⟩ := hm
  · exact (exec_claim s).trans (command_refused h (by simp [hx]))
  · exact (exec_retire s).trans (command_refused h (by simp [hx]))
  · exact (exec_release s).trans (command_refused h (by simp [hx]))

end Lifecycle

/-! ## Handles and objects (R37, R39) -/

/-- The state after a handle-table entry is rewritten: what was cached through the handle has gone home before (R39). -/
def State.putHandle (s : State) (p h entry : Nat) : State :=
  (s.flushHandles p (· == h) (s.objFrames p (s.handleObj p h))).tableWrite ((s.getPart p).desc.htBase + 8 * h) (leBytes 8 entry)

/-- The state after an object's descriptor is rewritten: its round regions start anew (R39, R140). -/
def State.putDesc (s : State) (p i : Nat) (image : List Byte) : State :=
  let q := ((s.flushHandles p (s.namesObj p i) (s.objFrames p i)).leaveShelves p (s.objFrames p i)).tableWrite
    ((s.getPart p).desc.otBase + 32 * i) image
  { q with regions := q.regions.filter fun r => !(r.part == p && r.obj == i) }

section Objects
variable {s : State} {p : Nat}

theorem changeHandle_done {h : Nat} (entry : Nat) (hbusy : s.handleBusy p (· == h) = false) (hbad : s.handleBad p h = none) :
    s.changeHandle p h entry = .done (s.putHandle p h entry) := by
  rw [State.changeHandle, hbad, tableRead_none]
  exact if_neg (by simp [hbusy])

theorem changeHandle_bad {h b : Nat} (entry : Nat) (hbusy : s.handleBusy p (· == h) = false) (hbad : s.handleBad p h = some b) :
    s.changeHandle p h entry = .wait (s.uncorrectable b false) := by
  rw [State.changeHandle, hbad]
  exact if_neg (by simp [hbusy])

theorem setHandle_done (h : s.Holds 0x10 p) (hl : s.Live p) (ha : s.tbl.arg0.toNat < 2 ^ 40)
    (hlen : s.tbl.arg0.toNat % 2 ^ 20 < (s.getPart p).desc.htLen)
    (hbusy : s.handleBusy p (· == s.tbl.arg0.toNat % 2 ^ 20) = false) (hbad : s.handleBad p (s.tbl.arg0.toNat % 2 ^ 20) = none) :
    exec .setHandle s
      = .next ((s.putHandle p (s.tbl.arg0.toNat % 2 ^ 20) (2 ^ 63 + s.tbl.arg0.toNat / 2 ^ 20)).endCmd p 0) := by
  have hobj : bits s.tbl.arg0.toNat 39 20 = s.tbl.arg0.toNat / 2 ^ 20 := by
    rw [bits, Nat.shiftRight_eq_div_pow]
    omega
  refine (exec_setHandle s).trans (command_answers h hl.mem (r := .done _) ?_)
  dsimp only
  rw [bits_zero, hobj, if_neg (by omega), changeHandle_done _ hbusy hbad]

section Revoke
variable (h : s.Holds 0x11 p) (hl : s.Live p) (ha : s.tbl.arg0.toNat < 2 ^ 20)
  (hlen : s.tbl.arg0.toNat < (s.getPart p).desc.htLen) (hbusy : s.handleBusy p (· == s.tbl.arg0.toNat) = false)
include h hl ha hlen hbusy

theorem revoke_done (hbad : s.handleBad p s.tbl.arg0.toNat = none) :
    exec .revoke s = .next ((s.putHandle p s.tbl.arg0.toNat
      (s.homeNat ((s.getPart p).desc.htBase + 8 * s.tbl.arg0.toNat) 8 ||| 2 ^ 62)).endCmd p 0) := by
  refine (exec_revoke s).trans (command_answers h hl.mem (r := .done _) ?_)
  rw [if_neg (by omega), changeHandle_done _ hbusy hbad]

theorem revoke_bad {b : Nat} (hbad : s.handleBad p s.tbl.arg0.toNat = some b) :
    exec .revoke s = .next (s.uncorrectable b false) := by
  refine (exec_revoke s).trans (command_answers h hl.mem (r := .wait _) ?_)
  rw [if_neg (by omega), changeHandle_bad _ hbusy hbad]

end Revoke

theorem setDesc_done (h : s.Holds 0x12 p) (hl : s.Live p) (ha : s.tbl.arg0.toNat < 2 ^ 20)
    (hlen : s.tbl.arg0.toNat < (s.getPart p).desc.otLen) (hi : s.tbl.arg1.toNat < 2 ^ 40) (hc : s.tbl.arg1.toNat < s.capacity)
    (hbusy : s.handleBusy p (s.namesObj p s.tbl.arg0.toNat) = false) (himg : s.badIn s.tbl.arg1.toNat 32 = none)
    (hhs : s.handlesBad p = none) (hobj : s.objBad p s.tbl.arg0.toNat = none) :
    exec .setDesc s = .next ((s.putDesc p s.tbl.arg0.toNat (s.homeBytes s.tbl.arg1.toNat 32)).endCmd p 0) := by
  refine (exec_setDesc s).trans (command_answers h hl.mem (r := .done _) ?_)
  rw [if_neg (by omega)]
  simp only [hhs, hbusy, himg, hobj]
  rfl

/-- No region of an object is attached after its descriptor is rewritten (R140). -/
theorem regions_putDesc {i : Nat} {image : List Byte} {r : Region} (hr : r ∈ (s.putDesc p i image).regions) :
    ¬ (r.part = p ∧ r.obj = i) := by
  have hk := (List.mem_filter.1 hr).2
  rintro ⟨hp, hi⟩
  simp [hp, hi] at hk

end Objects

/-! ## Frames (R37, R39) -/

/-- A write of a frame entry, its object and page found: the descriptor of the object is `d`. -/
structure State.FrameWrite (s : State) (p d : Nat) : Prop where
  holds : s.Holds 0x13 p
  live : s.Live p
  arg : s.tbl.arg0.toNat < 2 ^ 52
  desc : s.homeNat ((s.getPart p).desc.otBase + 32 * (s.tbl.arg0.toNat % 2 ^ 20)) 32 = d
  obj : s.tbl.arg0.toNat % 2 ^ 20 < (s.getPart p).desc.otLen
  page : s.tbl.arg0.toNat / 2 ^ 20 < ODesc.pages d
  objRead : s.objBad p (s.tbl.arg0.toNat % 2 ^ 20) = none
  handlesRead : s.handlesBad p = none

/-- GUSED after an entry changes from a page that is present or not to one that is or is not (R37). -/
def gusedAfter (old new : Bool) (size gused : Nat) : Nat :=
  if new = true ∧ old = false then gused + size else if old = true ∧ new = false then gused - size else gused

/-- The pages of 64 KiB that a page of an object counts for (R37). -/
def ODesc.pageUnits (d : Nat) : Nat := if ODesc.pageShift d = 21 then 32 else 1

/-- The frame that an entry names, where it is present, as base and length. -/
def entryFrames (d entry : Nat) : List (Nat × Nat) :=
  if entry.testBit 0 then [(bits entry 39 16 * 2 ^ 16, 2 ^ ODesc.pageShift d)] else []

/-- The state after the entry at an address is written, for an object with descriptor `d` (R37, R39). -/
def State.putFrame (s : State) (p obj d ea : Nat) : State :=
  (((s.flushHandles p (s.namesObj p obj) (s.objFrames p obj)).leaveShelves p (entryFrames d (s.homeNat ea 8))).tableWrite ea
    (leBytes 8 s.tbl.arg1.toNat)).mapPart p fun y =>
      { y with gused := gusedAfter ((s.homeNat ea 8).testBit 0) (s.tbl.arg1.getLsbD 0) (ODesc.pageUnits d) y.gused }

section Frame
variable {s : State} {p d ea : Nat} (h : s.FrameWrite p d) (he : ODesc.faAddr d + 8 * (s.tbl.arg0.toNat / 2 ^ 20) = ea)
include h he

/-- Past its checks SETFRAME fails where the page exceeds the quota, waits where a request is under way, and is done otherwise. -/
theorem setFrame_answers :
    exec .setFrame s = s.answer p
      (if s.tbl.arg1.getLsbD 0 = true ∧ (s.homeNat ea 8).testBit 0 = false ∧
          (s.getPart p).desc.gQuota < (s.getPart p).gused + ODesc.pageUnits d then .fail 0x3C
       else if s.handleBusy p (s.namesObj p (s.tbl.arg0.toNat % 2 ^ 20)) then .wait s
       else .done (s.putFrame p (s.tbl.arg0.toNat % 2 ^ 20) d ea)) := by
  obtain ⟨hh, hl, ha, hd, ho, hi, hob, hhs⟩ := h
  have hpage : bits s.tbl.arg0.toNat 51 20 = s.tbl.arg0.toNat / 2 ^ 20 := by
    rw [bits, Nat.shiftRight_eq_div_pow]
    omega
  refine (exec_setFrame s).trans (command_answers hh hl.mem ?_)
  dsimp only
  rw [bits_zero, hpage, hd, he, if_neg (by omega)]
  simp only [hob]
  rw [if_neg (by omega)]
  simp only [hhs, Bool.not_eq_true']
  rfl

theorem setFrame_overQuota (hn : s.tbl.arg1.getLsbD 0 = true) (ho : (s.homeNat ea 8).testBit 0 = false)
    (hq : (s.getPart p).desc.gQuota < (s.getPart p).gused + ODesc.pageUnits d) : exec .setFrame s = .next (s.endCmd p 0x3C) := by
  rw [setFrame_answers h he, if_pos ⟨hn, ho, hq⟩]
  rfl

theorem setFrame_done
    (hq : ¬ (s.tbl.arg1.getLsbD 0 = true ∧ (s.homeNat ea 8).testBit 0 = false ∧
      (s.getPart p).desc.gQuota < (s.getPart p).gused + ODesc.pageUnits d))
    (hbusy : s.handleBusy p (s.namesObj p (s.tbl.arg0.toNat % 2 ^ 20)) = false) :
    exec .setFrame s = .next ((s.putFrame p (s.tbl.arg0.toNat % 2 ^ 20) d ea).endCmd p 0) := by
  rw [setFrame_answers h he, if_neg hq, if_neg (Bool.eq_false_iff.1 hbusy)]
  rfl

end Frame

/-! ## The report (R48) -/

/-- The report of a partition with its signature, the nonce given. -/
def State.report (s : State) (p : Nat) (nonce : List Byte) : List Byte :=
  s.reportBody p nonce ++ edSign (leBytes 32 s.boot.attSeed.toNat) (s.reportBody p nonce)

theorem attest_done {s : State} {p : Nat} (h : s.Holds 0x20 p) (hl : s.Live p) (ha : s.tbl.arg0.toNat < 2 ^ 40)
    (hb : s.tbl.arg1.toNat < 2 ^ 40) (hac : s.tbl.arg0.toNat < s.capacity) (hbc : s.tbl.arg1.toNat < s.capacity)
    (hnonce : s.badIn s.tbl.arg0.toNat 32 = none) (hmap : s.mapBad p = none) :
    exec .attest s = .next
      ((s.tableWrite s.tbl.arg1.toNat (s.report p (s.homeBytes s.tbl.arg0.toNat 32))).endCmd p 0) := by
  refine (exec_attest s).trans (command_answers h (by simpa using hl.symm) (r := .done _) ?_)
  dsimp only
  rw [if_neg (by omega)]
  simp only [hnonce, hmap]
  rfl

/-! ## A queue after its page is written (R56) -/

theorem getElem?_modifyAt_ne {α : Type} {i j : Nat} (h : i ≠ j) (l : List α) (f : α → α) : (modifyAt l i f)[j]? = l[j]? := by
  simp [modifyAt_eq_modify, h]

/-- A queue that a page has. -/
def State.queue? (s : State) (p q : Nat) : Option Queue := s.parts[p]?.bind fun x => x.queues[q]?

theorem getQueue_eq (s : State) (p q : Nat) : s.getQueue p q = (s.queue? p q).getD Queue.reset := by
  unfold State.getQueue State.getPart State.queue?
  cases s.parts[p]? with
  | none => exact getD_getElem?_replicate Queue.reset 16 q
  | some x => rfl

theorem queue?_mapQueue (s : State) (p q : Nat) (f : Queue → Queue) (k j : Nat) :
    (s.mapQueue p q f).queue? k j = if k = p ∧ j = q then (s.queue? p q).map f else s.queue? k j := by
  unfold State.queue? State.mapQueue
  rw [mapPart_parts]
  by_cases hk : k = p
  · subst hk
    rw [getElem?_modifyAt_same]
    cases s.parts[k]? with
    | none => simp
    | some x =>
      by_cases hj : j = q
      · subst hj; simp
      · simp [hj, getElem?_modifyAt_ne (Ne.symm hj)]
  · simp [hk, getElem?_modifyAt_ne (Ne.symm hk)]

theorem getQueue_mapQueue_same {s : State} {p q : Nat} (hp : p < s.parts.length) (hq : q < (s.getPart p).queues.length)
    (f : Queue → Queue) : (s.mapQueue p q f).getQueue p q = f (s.getQueue p q) := by
  have hx : s.parts[p]? = some (s.getPart p) := by rw [State.getPart, List.getElem?_eq_getElem hp]; rfl
  have hy : s.queue? p q = some (s.getPart p).queues[q] := by rw [State.queue?, hx]; exact List.getElem?_eq_getElem hq
  rw [getQueue_eq, getQueue_eq, queue?_mapQueue, if_pos ⟨rfl, rfl⟩, hy]
  rfl

/-- A write to a queue leaves the state of its partition. -/
theorem st_mapQueue (s : State) (p q : Nat) (f : Queue → Queue) : ((s.mapQueue p q f).getPart p).st = (s.getPart p).st := by
  rw [State.getPart, State.getPart, State.mapQueue, mapPart_parts, getElem?_modifyAt_same]
  cases s.parts[p]? <;> rfl

@[simp] theorem raiseSignal_parts (s : State) (k i : Nat) : (s.raiseSignal k i).parts = s.parts := by
  unfold State.raiseSignal
  split <;> rfl

@[simp] theorem raiseSignal_apertureGated (s : State) (k i : Nat) : (s.raiseSignal k i).apertureGated = s.apertureGated := by
  unfold State.raiseSignal
  split <;> rfl

theorem mem_signals_raiseSignal {s : State} {k i : Nat} {e : Nat × Nat} :
    e ∈ (s.raiseSignal k i).signals ↔ e = (k, i) ∨ e ∈ s.signals := by
  unfold State.raiseSignal
  split
  next h => exact ⟨.inr, fun he => he.elim (fun e => e ▸ List.contains_iff_mem.1 h) id⟩
  next => simp [or_comm]

section Page
variable {s : State} {p q : Nat} (h : s.queueExists p q = true)
include h

theorem qwrWrite_eq (v : DWord) : exec (.qwrWrite p q v) s = .next (s.writeQwr p q (v.toNat % 2 ^ 20)) := by
  rw [exec_qwrWrite, execQwrWrite, if_pos h, bits_zero]

theorem qretryWrite_eq : exec (.qretryWrite p q) s = .next (s.writeQretry p q) := by
  rw [exec_qretryWrite, execQretryWrite, if_pos h]

theorem qctlWrite_eq (v : DWord) :
    exec (.qctlWrite p q v) s = .next (s.writeQctl p q (v.getLsbD 63) (bits v.toNat 55 52) (v.toNat % 2 ^ 20)) := by
  rw [exec_qctlWrite, execQctlWrite, if_pos h, bits_zero]

end Page

section Writes
variable {s : State} {p q n : Nat}

/-- An index that QWR takes: a packet's place in the ring of a queue that is enabled (R57). -/
theorem writeQwr_takes (h32 : n % 32 = 0) (hn : n < (s.getQueue p q).ringSize) (he : (s.getQueue p q).en = true) :
    s.writeQwr p q n = (s.mapQueue p q fun y => { y with qwr := n }).pageWake p q :=
  if_neg (by simp only [he, Bool.not_true, Bool.false_eq_true, or_false]; omega)

theorem writeQwr_rejects (hn : n % 32 ≠ 0 ∨ (s.getQueue p q).ringSize ≤ n ∨ (s.getQueue p q).en = false) :
    s.writeQwr p q n = s.mapQueue p q fun y => { y with badwr := true } :=
  if_pos (by simpa using hn)

theorem pageWake_running (hr : (s.getPart p).st = .runnable) : s.pageWake p q = s.wakeQueue p q := if_pos hr

theorem pageWake_still (hr : (s.getPart p).st ≠ .runnable) : s.pageWake p q = s := if_neg hr

theorem writeQretry_parked (hq : (s.getQueue p q).st = .parked) (hr : (s.getPart p).st = .runnable) :
    s.writeQretry p q = (s.mapQueue p q fun y => { y with retry := true }).wakeQueue p q := by
  simp [State.writeQretry, hq, hr]

/-- QRETRY of a queue that is not parked does nothing, unless the aperture is gated (R66, R70). -/
theorem writeQretry_idle (hq : (s.getQueue p q).st ≠ .parked) (hg : s.apertureGated = false) : s.writeQretry p q = s := by
  simp [State.writeQretry, hq, hg]

theorem writeQretry_gated (hq : (s.getQueue p q).st ≠ .parked) (hg : s.apertureGated = true) (hr : (s.getPart p).st = .runnable) :
    s.writeQretry p q = s.wakeQueue p q := by
  simp [State.writeQretry, hq, hg, hr]

end Writes

/-- A queue after a write to its QCTL with a size that R56 allows. -/
def Queue.control (x : Queue) (en : Bool) (size hnd : Nat) : Queue :=
  if x.en then
    if en then x
    else
      { x with en := false, retry := false, st := if x.st = .parked then .idle else x.st
               started := x.started.filter fun k => !k.stuck }
  else if en then
    { x with size := size, hnd := hnd, en := true, qrd := 0, qwr := 0, badwr := false, unmet := none
             st := if x.unmet.isSome then .idle else x.st }
  else { x with size := size, hnd := hnd }

theorem writeQctl_eq {s : State} {size : Nat} (h : size ≤ 8) (p q : Nat) (en : Bool) (hnd : Nat) :
    s.writeQctl p q en size hnd = s.mapQueue p q fun x => x.control en size hnd :=
  if_neg (Nat.not_lt.2 h)

section Control
variable {x : Queue} {size hnd : Nat}

@[simp] theorem control_en (x : Queue) (en : Bool) (size hnd : Nat) : (x.control en size hnd).en = en := by
  cases hx : x.en <;> cases en <;> simp [Queue.control, hx]

theorem control_disabled (h : x.en = false) (en : Bool) :
    (x.control en size hnd).size = size ∧ (x.control en size hnd).hnd = hnd := by
  cases en <;> simp [Queue.control, h]

theorem control_enabled (h : x.en = true) (en : Bool) :
    (x.control en size hnd).size = x.size ∧ (x.control en size hnd).hnd = x.hnd ∧ (x.control en size hnd).qwr = x.qwr := by
  cases en <;> simp [Queue.control, h]

/-- A queue that is enabled starts empty (R56). -/
theorem control_starts (h : x.en = false) :
    (x.control true size hnd).qrd = 0 ∧ (x.control true size hnd).qwr = 0 ∧ (x.control true size hnd).badwr = false := by
  simp [Queue.control, h]

end Control

/-- An arrival at a mailbox of a partition that runs, the aperture awake (R69). -/
theorem arrival_running {s : State} {p m : Nat} (hm : m < (s.getPart p).desc.mailboxes) (hr : (s.getPart p).st = .runnable)
    (hg : s.apertureGated = false) : s.arrival p m = (s.mapMailbox p m Mailbox.arrive).raiseSignal 1 (p * 64 + m) := by
  rw [State.arrival, if_neg (Nat.not_le.2 hm)]
  simp only [hr]
  exact if_neg (by simp [State.mapMailbox, hg])

theorem arrival_beyond {s : State} {p m : Nat} (hm : (s.getPart p).desc.mailboxes ≤ m) : s.arrival p m = s := if_pos hm

/-! ## The aperture wakes (R70) -/

/-- A queue's pending bit becomes a signal. -/
def State.deliverQueue (p : Nat) (s : State) (q : Nat) : State :=
  (s.mapQueue p q fun y => { y with pend := false }).raiseSignal 0 (p * 16 + q)

/-- A mailbox's pending bit becomes a signal. -/
def State.deliverMailbox (p : Nat) (s : State) (m : Nat) : State :=
  (s.mapMailbox p m fun y => { y with pend := false }).raiseSignal 1 (p * 64 + m)

/-- The pending queues of a partition's page, and then the mailboxes that were pending. -/
def State.deliverPage (s : State) (p : Nat) : State :=
  ((List.range (s.getPart p).mailboxes.length).filter fun m => (((s.getPart p).mailboxes[m]?).map (·.pend)).getD false).foldl
    (State.deliverMailbox p)
    (((List.range 16).filter fun q => (s.getQueue p q).pend).foldl (State.deliverQueue p) s)

theorem apertureWake_eq {s : State} (h : s.apertureGated = true) :
    exec .apertureWake s = .next ((List.range 129).foldl State.deliverPage { s with apertureGated := false }) :=
  (exec_apertureWake s).trans (if_neg (by simp [h]))

/-- What deliveries keep, for one queue: the gate, the signals, and that a pending bit is there until it is a signal. -/
structure State.Delivers (p q : Nat) (s r : State) : Prop where
  gate : r.apertureGated = s.apertureGated
  signals : ∀ e ∈ s.signals, e ∈ r.signals
  pending : (s.getQueue p q).pend = true → (r.getQueue p q).pend = true ∨ (0, p * 16 + q) ∈ r.signals
  clear : (s.getQueue p q).pend = false → (r.getQueue p q).pend = false

theorem State.Delivers.refl (p q : Nat) (s : State) : State.Delivers p q s s := ⟨rfl, fun _ => id, .inl, id⟩

theorem State.Delivers.trans {p q : Nat} {s r t : State} (h : State.Delivers p q s r) (k : State.Delivers p q r t) :
    State.Delivers p q s t where
  gate := k.gate.trans h.gate
  signals e he := k.signals e (h.signals e he)
  pending hs := (h.pending hs).elim k.pending fun hr => .inr (k.signals _ hr)
  clear hs := k.clear (h.clear hs)

section Delivery
variable {p q : Nat}

theorem getQueue_congr {s r : State} (h : r.parts = s.parts) : r.getQueue p q = s.getQueue p q := by
  rw [State.getQueue, State.getQueue, State.getPart, State.getPart, h]

theorem getQueue_deliverQueue (s : State) (k j : Nat) :
    (s.deliverQueue k j).getQueue p q = if p = k ∧ q = j then ((s.queue? k j).map fun y => { y with pend := false }).getD Queue.reset
      else s.getQueue p q := by
  rw [State.deliverQueue, getQueue_congr (raiseSignal_parts _ _ _), getQueue_eq, queue?_mapQueue, getQueue_eq]
  split <;> rfl

/-- The pending bit of a queue is clear after it is delivered. -/
theorem pend_deliverQueue (s : State) : ((s.deliverQueue p q).getQueue p q).pend = false := by
  rw [getQueue_deliverQueue, if_pos ⟨rfl, rfl⟩]
  cases s.queue? p q <;> rfl

theorem deliverQueue_delivers (s : State) (k j : Nat) : State.Delivers p q s (s.deliverQueue k j) where
  gate := raiseSignal_apertureGated _ _ _
  signals _ he := mem_signals_raiseSignal.2 (.inr he)
  pending hs := by
    by_cases hc : p = k ∧ q = j
    · obtain ⟨rfl, rfl⟩ := hc
      exact .inr (mem_signals_raiseSignal.2 (.inl rfl))
    · rw [getQueue_deliverQueue, if_neg hc]
      exact .inl hs
  clear hs := by
    by_cases hc : p = k ∧ q = j
    · obtain ⟨rfl, rfl⟩ := hc
      exact pend_deliverQueue s
    · rwa [getQueue_deliverQueue, if_neg hc]

/-- A mailbox's delivery leaves the queues. -/
theorem getQueue_deliverMailbox (s : State) (k m : Nat) : (s.deliverMailbox k m).getQueue p q = s.getQueue p q := by
  rw [State.deliverMailbox, getQueue_congr (raiseSignal_parts _ _ _)]
  unfold State.getQueue State.getPart State.mapMailbox
  rw [mapPart_parts]
  by_cases hk : p = k
  · subst hk
    rw [getElem?_modifyAt_same]
    cases s.parts[p]? <;> rfl
  · rw [getElem?_modifyAt_ne (Ne.symm hk)]

theorem deliverMailbox_delivers (s : State) (k m : Nat) : State.Delivers p q s (s.deliverMailbox k m) where
  gate := raiseSignal_apertureGated _ _ _
  signals _ he := mem_signals_raiseSignal.2 (.inr he)
  pending hs := .inl (by rwa [getQueue_deliverMailbox])
  clear hs := by rwa [getQueue_deliverMailbox]

theorem foldl_delivers {α : Type} {f : State → α → State} (h : ∀ s x, State.Delivers p q s (f s x)) (l : List α) (s : State) :
    State.Delivers p q s (l.foldl f s) :=
  List.foldlRecOn (motive := State.Delivers p q s) l f (.refl p q s) fun _ hr x _ => hr.trans (h _ x)

/-- A bit that one step of a run of deliveries clears is clear after the run. -/
theorem foldl_clears {α : Type} {f : State → α → State} (h : ∀ s x, State.Delivers p q s (f s x)) {x : α}
    (hx : ∀ s, ((f s x).getQueue p q).pend = false) {l : List α} (hl : x ∈ l) (s : State) :
    ((l.foldl f s).getQueue p q).pend = false := by
  obtain ⟨a, b, rfl⟩ := List.append_of_mem hl
  rw [List.foldl_append, List.foldl_cons]
  exact (foldl_delivers h b _).clear (hx _)

theorem deliverPage_delivers (s : State) (k : Nat) : State.Delivers p q s (s.deliverPage k) :=
  (foldl_delivers (fun s => deliverQueue_delivers s k) _ s).trans (foldl_delivers (fun s => deliverMailbox_delivers s k) _ _)

/-- No queue of a page that was delivered is pending. -/
theorem pend_deliverPage (hq : q < 16) (s : State) : ((s.deliverPage p).getQueue p q).pend = false := by
  refine (foldl_delivers (fun s => deliverMailbox_delivers s p) _ _).clear ?_
  cases hs : (s.getQueue p q).pend with
  | false => exact (foldl_delivers (fun s => deliverQueue_delivers s p) _ s).clear hs
  | true =>
    exact foldl_clears (fun s => deliverQueue_delivers s p) pend_deliverQueue
      (List.mem_filter.2 ⟨List.mem_range.2 hq, hs⟩) s

/-- A wake of the aperture turns the pending bit of every queue into a signal (R70). -/
theorem apertureWake_delivers {s : State} (h : s.apertureGated = true) (hp : p < 129) (hq : q < 16) :
    ∃ r, exec .apertureWake s = .next r ∧ r.apertureGated = false ∧
      ((s.getQueue p q).pend = true → (0, p * 16 + q) ∈ r.signals) ∧ (r.getQueue p q).pend = false ∧
      ∀ e ∈ s.signals, e ∈ r.signals := by
  obtain ⟨hgate, hsig, hpend, -⟩ := foldl_delivers (p := p) (q := q) deliverPage_delivers (List.range 129)
    { s with apertureGated := false }
  have hclear := foldl_clears deliverPage_delivers (pend_deliverPage hq) (List.mem_range.2 hp) { s with apertureGated := false }
  refine ⟨_, apertureWake_eq h, hgate, fun hs => (hpend hs).resolve_left ?_, hclear, hsig⟩
  simp [hclear]

end Delivery

/-- Settles O48: each command of the table port by what its body answers once the port's checks pass, each write to a page by the
queue that it leaves and its wake, and the aperture's wake by deliveries that only clear pending bits and add signals. -/
theorem tableAndPageResults : Obligations.TableAndPageResults := by
  unfold Obligations.TableAndPageResults
  constructor
  · intro s p c h0 hp hb hs x d a0 a1 cmd done live set
    have holds {code : Nat} (hw : cmd code) (hc : code < 256) : s.Holds code p := holds_of_word hb h0 hp hs hc hw
    refine ⟨?claim, ?activate, ?retire, ?stopped, ?runnable, ?resetting, ?release, ?setHandle, ?revoke, ?setDesc, ?setFrame,
      ?attest, ?refused, ?ends, ?stat⟩
    case claim => exact fun hw => claim_done (holds hw (by decide))
    case activate =>
      exact fun hw hx => ⟨activate_done (holds hw (by decide)) hx, activate_fails (holds hw (by decide)) hx⟩
    case retire => exact fun hw => retire_done (holds hw (by decide))
    case stopped => exact fun hw => reset_stopped (holds hw (by decide))
    case runnable => exact fun hw => reset_runnable (holds hw (by decide))
    case resetting => exact fun hw => reset_resetting (holds hw (by decide))
    case release => exact fun hw => release_done (holds hw (by decide))
    case setHandle => exact fun hw => setHandle_done (holds hw (by decide))
    case revoke =>
      exact fun hw hl ha hlen hbusy =>
        ⟨revoke_done (holds hw (by decide)) hl ha hlen hbusy, fun _ => revoke_bad (holds hw (by decide)) hl ha hlen hbusy⟩
    case setDesc =>
      intro hw hl ha hlen hi hc hbusy himg hhs hobj
      exact ⟨_, setDesc_done (holds hw (by decide)) hl ha hlen hi hc hbusy himg hhs hobj, rfl, fun r => regions_putDesc⟩
    case setFrame =>
      intro hw hl ha obj od ea size old new left ho hi hobj hhs
      have hf : s.FrameWrite p od := ⟨holds hw (by decide), hl, ha, rfl, ho, hi, hobj, hhs⟩
      exact ⟨setFrame_overQuota hf rfl, setFrame_done hf rfl⟩
    case attest => exact fun hw => attest_done (holds hw (by decide))
    case refused =>
      intro k i hm hw
      have hk : k < 256 := by
        simp only [List.mem_cons, List.not_mem_nil, or_false, Prod.mk.injEq] at hm
        omega
      exact resetting_refuses hm (holds hw hk)
    case ends => exact fun r => endCmd_idle
    case stat => rw [exec_tblStatRead, execTblStatRead, stat_busy hs]
  · intro s p q m core v he x n run wake put
    obtain ⟨⟨⟨-, hp⟩, -⟩, hq⟩ := by simpa only [State.queueExists, Bool.and_eq_true, decide_eq_true_eq] using he
    refine ⟨?qwr, ?qwrStill, ?qwrBad, ?retry, ?retryIdle, ?retryGated, ?qctl, ?mbox, ?mboxBeyond, ?wakes, ?timer, ?signal⟩
    case qwr =>
      intro h32 hn hen hr
      rw [qwrWrite_eq he, writeQwr_takes h32 hn hen, pageWake_running ((st_mapQueue s p q _).trans hr)]
      rfl
    case qwrStill =>
      intro h32 hn hen hr
      rw [qwrWrite_eq he, writeQwr_takes h32 hn hen, pageWake_still (by rwa [st_mapQueue])]
    case qwrBad =>
      intro hn
      rw [qwrWrite_eq he, writeQwr_rejects hn]
    case retry =>
      intro hst hr
      rw [qretryWrite_eq he, writeQretry_parked hst hr]
      rfl
    case retryIdle =>
      intro hst hg
      rw [qretryWrite_eq he, writeQretry_idle hst hg]
    case retryGated =>
      intro hst hg hr
      rw [qretryWrite_eq he, writeQretry_gated hst hg hr]
      rfl
    case qctl =>
      intro hsize hpl hql
      refine ⟨_, (qctlWrite_eq he v).trans (congrArg Host.Outcome.next (writeQctl_eq hsize p q _ _)), ?_⟩
      dsimp only
      rw [getQueue_mapQueue_same hpl hql]
      exact ⟨control_en _ _ _ _, fun hen => control_disabled hen _, fun hen => control_enabled hen _,
        fun hen hv => hv ▸ control_starts hen⟩
    case mbox =>
      intro hm hr hg
      rw [exec_mboxWrite, arrival_running hm hr hg]
      rfl
    case mboxBeyond =>
      intro hm
      rw [exec_mboxWrite, arrival_beyond hm]
    case wakes => exact fun hg => apertureWake_delivers hg (by omega) hq
    case timer => exact fun hc => (exec_gondolaTimer core s).trans (if_pos hc)
    case signal => exact fun k i => mem_signals_raiseSignal.2 (.inl rfl)

end Sys2Proof.Machine
end
